-- ==== Sys2Proof/Word.lean ====
section
/-! DEFINITION. The word types of the block (00_scope.md R7, R11): a byte, a 64-bit register word, an
address. Addresses in State are naturals; the words software sees are bit vectors. -/
namespace Sys2Proof

/-- One byte of memory. -/
abbrev Byte := BitVec 8

/-- One 64-bit register word (00_scope.md R11). -/
abbrev Word := BitVec 64

/-- One herder instruction word (08_instruction_reference.md R267). -/
abbrev IWord := BitVec 64

end Sys2Proof
end

