-- ==== Sys2Proof/Machine/Bits.lean ====
section
/-! DEFINITION. Bit fields, sign extension and byte order, written once (00_scope.md R7 and its table
of written forms: [hi:lo] is the bit range with both ends included, bit 0 least significant). -/
namespace Sys2Proof.Machine

/-- Bits [hi:lo] of a word, as a natural number. -/
def fld {n : Nat} (w : BitVec n) (hi lo : Nat) : Nat :=
  (w.toNat >>> lo) % 2 ^ (hi + 1 - lo)

/-- Bits [hi:lo] of a natural number. -/
def nfld (w hi lo : Nat) : Nat :=
  (w >>> lo) % 2 ^ (hi + 1 - lo)

/-- Bit i of a word. -/
def bit {n : Nat} (w : BitVec n) (i : Nat) : Bool := w.getLsbD i

/-- The mask of bits [hi:lo]. -/
def maskOf (n hi lo : Nat) : BitVec n :=
  BitVec.ofNat n ((2 ^ (hi + 1 - lo) - 1) <<< lo)

/-- The word with bits [hi:lo] replaced by v (taken modulo the field). -/
def setFld {n : Nat} (w : BitVec n) (hi lo v : Nat) : BitVec n :=
  (w &&& ~~~ (maskOf n hi lo)) ||| (BitVec.ofNat n (v % 2 ^ (hi + 1 - lo)) <<< lo)

/-- The word with bit i set to b. -/
def setBit {n : Nat} (w : BitVec n) (i : Nat) (b : Bool) : BitVec n :=
  setFld w i i (if b then 1 else 0)

/-- A natural number of at most n bits read as an n-bit two's complement integer. -/
def toSigned (n w : Nat) : Int :=
  let v := w % 2 ^ n
  if v < 2 ^ (n - 1) then (v : Int) else (v : Int) - (2 : Int) ^ n

/-- The n-bit two's complement word of an integer. -/
def ofSigned (n : Nat) (i : Int) : Nat := (i % (2 : Int) ^ n).toNat

/-- The first n bytes of a number, lowest first (00_scope.md R7). -/
def toBytesLE : Nat → Nat → List Byte
  | 0, _ => []
  | n + 1, v => BitVec.ofNat 8 v :: toBytesLE n (v / 256)

/-- The number of a list of bytes, lowest first. -/
def ofBytesLE : List Byte → Nat
  | [] => 0
  | b :: bs => b.toNat + 256 * ofBytesLE bs

/-- A number of n bytes with its byte order reversed (big-endian quantities of outside standards). -/
def ofBytesBE (bs : List Byte) : Nat := bs.foldl (fun a b => a * 256 + b.toNat) 0

/-- The n bytes of a number, highest first. -/
def toBytesBE (n v : Nat) : List Byte := (toBytesLE n v).reverse

/-- The bitwise complement of an n-bit number. -/
def complN (n v : Nat) : Nat := 2 ^ n - 1 - v % 2 ^ n

/-- The division rounded up. -/
def ceilDiv (a b : Nat) : Nat := (a + b - 1) / b

/-- A counter that stops at its largest value. -/
def satAdd (mx v d : Nat) : Nat := min mx (v + d)

end Sys2Proof.Machine
end

