-- ==== Sys2Proof/Machine/Posit.lean ====
section
/-! DEFINITION. Exact values, posits, quires, integers, IEEE layouts and the roundings between them
(02_number_formats.md R33 to R62). Every value is an exact dyadic rational; none stands for NaR. -/
namespace Sys2Proof.Machine

/-- The exact value m × 2^e. -/
structure Dy where
  m : Int
  e : Int
  deriving DecidableEq, Repr

def Dy.zero : Dy := ⟨0, 0⟩
def Dy.ofInt (i : Int) : Dy := ⟨i, 0⟩
def Dy.isZero (a : Dy) : Bool := a.m == 0
def Dy.neg (a : Dy) : Dy := ⟨-a.m, a.e⟩
def Dy.abs (a : Dy) : Dy := ⟨(a.m.natAbs : Int), a.e⟩

/-- i × 2^k for a natural k. -/
def shlInt (i : Int) (k : Nat) : Int := i * ((2 : Int) ^ k)

/-- The integer significand of a at exponent e, for e ≤ a.e. -/
def Dy.at (a : Dy) (e : Int) : Int := shlInt a.m (a.e - e).toNat

def Dy.add (a b : Dy) : Dy :=
  let e := min a.e b.e
  ⟨a.at e + b.at e, e⟩

def Dy.sub (a b : Dy) : Dy := a.add b.neg
def Dy.mul (a b : Dy) : Dy := ⟨a.m * b.m, a.e + b.e⟩
def Dy.lt (a b : Dy) : Bool := decide ((a.sub b).m < 0)
def Dy.le (a b : Dy) : Bool := decide ((a.sub b).m ≤ 0)
def Dy.eq (a b : Dy) : Bool := (a.sub b).m == 0
def Dy.scale (a : Dy) (k : Int) : Dy := ⟨a.m, a.e + k⟩

/-- The binary exponent ⌊log₂ |a|⌋ of a non-zero value. -/
def Dy.expo (a : Dy) : Int := (Nat.log2 a.m.natAbs : Int) + a.e

/-- a ÷ 2^k truncated toward zero to an integer. -/
def Dy.truncInt (a : Dy) : Int :=
  if 0 ≤ a.e then shlInt a.m a.e.toNat
  else
    let q : Nat := a.m.natAbs >>> (-a.e).toNat
    if a.m < 0 then -(q : Int) else (q : Int)

/-- The exact integer value of a, when a is an integer multiple of 2^e. -/
def Dy.toUnits? (a : Dy) (e : Int) : Option Int :=
  if e ≤ a.e then some (a.at e)
  else
    let k := (e - a.e).toNat
    if a.m % ((2 : Int) ^ k) = 0 then some (a.m / ((2 : Int) ^ k)) else none

/-- The sticky flags an operation raises (R62). -/
structure Flags where
  of : Bool := false
  uf : Bool := false
  nx : Bool := false
  nv : Bool := false
  deriving DecidableEq, Repr

def Flags.none : Flags := {}
def Flags.or (a b : Flags) : Flags := ⟨a.of || b.of, a.uf || b.uf, a.nx || b.nx, a.nv || b.nv⟩

/-- The number format codes of R33. -/
inductive Fmt where
  | P8 | P16 | P32 | S8 | U8 | S4 | U4 | S32 | B16 | BF16 | F32 | QP8 | QP16 | QP32
  deriving DecidableEq, Repr

/-- The format a 4-bit code names; 0x3 and 0xF are reserved (R33). -/
def Fmt.ofCode : Nat → Option Fmt
  | 0x0 => some .P8 | 0x1 => some .P16 | 0x2 => some .P32
  | 0x4 => some .S8 | 0x5 => some .U8 | 0x6 => some .S4 | 0x7 => some .U4 | 0x8 => some .S32
  | 0x9 => some .B16 | 0xA => some .BF16 | 0xB => some .F32
  | 0xC => some .QP8 | 0xD => some .QP16 | 0xE => some .QP32
  | _ => none

/-- The code of a format (R33). -/
def Fmt.code : Fmt → Nat
  | .P8 => 0x0 | .P16 => 0x1 | .P32 => 0x2 | .S8 => 0x4 | .U8 => 0x5 | .S4 => 0x6 | .U4 => 0x7
  | .S32 => 0x8 | .B16 => 0x9 | .BF16 => 0xA | .F32 => 0xB | .QP8 => 0xC | .QP16 => 0xD | .QP32 => 0xE

/-- Bits of one element (R33). -/
def Fmt.width : Fmt → Nat
  | .P8 => 8 | .P16 => 16 | .P32 => 32 | .S8 => 8 | .U8 => 8 | .S4 => 4 | .U4 => 4 | .S32 => 32
  | .B16 => 16 | .BF16 => 16 | .F32 => 32 | .QP8 => 128 | .QP16 => 256 | .QP32 => 512

def Fmt.isPosit : Fmt → Bool
  | .P8 | .P16 | .P32 => true
  | _ => false

def Fmt.isInt : Fmt → Bool
  | .S8 | .U8 | .S4 | .U4 | .S32 => true
  | _ => false

def Fmt.isIeee : Fmt → Bool
  | .B16 | .BF16 | .F32 => true
  | _ => false

def Fmt.isQuire : Fmt → Bool
  | .QP8 | .QP16 | .QP32 => true
  | _ => false

/-! Posits -/

/-- The length of the run of bits equal to b from bit i down to bit 0 of w. -/
def runLen (w : Nat) (b : Bool) : Nat → Nat
  | 0 => 0
  | i + 1 => if w.testBit i == b then runLen w b i + 1 else 0

/-- The exact value of an n-bit posit word (R37); none is NaR. -/
def positVal (n w : Nat) : Option Dy :=
  let w := w % 2 ^ n
  if w = 0 then some .zero
  else if w = 2 ^ (n - 1) then none
  else
    let s := w.testBit (n - 1)
    let a := if s then 2 ^ n - w else w
    let r := a.testBit (n - 2)
    let m := runLen a r (n - 1)
    let k : Int := if r then (m : Int) - 1 else -(m : Int)
    -- bits below the regime and its terminating bit
    let rest := n - 1 - min (n - 1) (m + 1)
    let eb := min 2 rest
    let f := rest - eb
    let e := ((a >>> f) % 2 ^ eb) <<< (2 - eb)
    let frac := a % 2 ^ f
    let mag : Int := ((2 ^ f + frac : Nat) : Int)
    some ⟨if s then -mag else mag, 4 * k + (e : Int) - (f : Int)⟩

def positNaR (n : Nat) : Nat := 2 ^ (n - 1)
def positMax (n : Nat) : Nat := 2 ^ (n - 1) - 1

/-- The negation of a posit word (R39). -/
def positNeg (n w : Nat) : Nat := (2 ^ n - w % 2 ^ n) % 2 ^ n

/-- A posit word as the two's complement integer that orders it (R40). -/
def positKey (n w : Nat) : Int := toSigned n w

/-- The two roundings of R54. -/
inductive RMode where
  | nearestEven | toOdd
  deriving DecidableEq, Repr

/-- The unending encoding of a positive magnitude m × 2^e (R37 in reverse), as (bits, length): regime,
exponent and every fraction bit of m. -/
def positBody (m : Nat) (e : Int) : Nat × Nat :=
  let lg := Nat.log2 m
  let ex : Int := (lg : Int) + e
  let k := ex / 4
  let x := (ex % 4).toNat
  let (reg, rl) :=
    if 0 ≤ k then ((2 ^ (k.toNat + 1) - 1) * 2, k.toNat + 2) else (1, (-k).toNat + 1)
  (((reg <<< 2) + x) <<< lg ||| (m - 2 ^ lg), rl + 2 + lg)

/-- Rounds the magnitude m × 2^e, plus a non-zero remainder below its last bit when sticky, to the word of
a positive n-bit posit (R54). -/
def roundMag (n : Nat) (mode : RMode) (m : Nat) (e : Int) (sticky : Bool) : Nat :=
  if m = 0 then (if sticky then 1 else 0)
  else
    let (body, len) := positBody m e
    let want := n - 1
    let (kept, g, s) :=
      if len ≤ want then (body <<< (want - len), false, sticky)
      else
        let d := len - want
        (body >>> d, body.testBit (d - 1), decide (body % 2 ^ (d - 1) ≠ 0) || sticky)
    let r :=
      match mode with
      | .nearestEven => if g && (s || kept % 2 = 1) then kept + 1 else kept
      | .toOdd => if (g || s) && kept % 2 = 0 then kept + 1 else kept
    if r = 0 then 1 else if r > positMax n then positMax n else r

/-- A rounded word with the flags of R62. -/
structure Rounded where
  word : Nat
  fl : Flags
  deriving DecidableEq, Repr

/-- Rounds the exact value a (plus a remainder of a's sign when sticky) to an n-bit posit, with the flags of
R62: OF above maxpos, UF below minpos, NX when the word differs from the exact value. -/
def roundPosit (n : Nat) (mode : RMode) (a : Dy) (sticky : Bool := false) : Rounded :=
  if a.m = 0 && !sticky then ⟨0, {}⟩
  else
    let mag := roundMag n mode a.m.natAbs a.e sticky
    let maxv : Dy := ⟨1, 4 * (n : Int) - 8⟩
    let minv : Dy := ⟨1, 8 - 4 * (n : Int)⟩
    let ab := a.abs
    let of := maxv.lt ab || (maxv.eq ab && sticky)
    let uf := ab.lt minv
    let exact := !sticky && (match positVal n mag with
      | some v => v.eq ab
      | none => false)
    ⟨if a.m < 0 then positNeg n mag else mag, { of := of, uf := uf, nx := !exact }⟩

/-- Rounds a value or NaR to a posit: NaR gives NaR and no flag. -/
def roundPosit? (n : Nat) (mode : RMode) (a : Option Dy) : Rounded :=
  match a with
  | none => ⟨positNaR n, {}⟩
  | some v => roundPosit n mode v

/-- The quotient p ÷ q (q not zero) cut to at least `bits` significant bits, with its sticky remainder. -/
def divSticky (p q : Dy) (bits : Nat) : Dy × Bool :=
  let a := p.m.natAbs
  let b := q.m.natAbs
  let sh := bits + Nat.log2 b + 1
  let num := a <<< sh
  let quo := num / b
  let neg := (decide (p.m < 0)) != (decide (q.m < 0))
  (⟨if neg then -(quo : Int) else (quo : Int), p.e - q.e - (sh : Int)⟩, decide (num % b ≠ 0))

/-- A posit of P8, P16 or P32 as an exact value. -/
def Fmt.positBits : Fmt → Nat
  | .P8 => 8 | .P16 => 16 | _ => 32

/-! Quires -/

/-- The posit width of a quire format (R44). -/
def Fmt.quireOf : Fmt → Nat
  | .QP8 => 8 | .QP16 => 16 | _ => 32

/-- The weight exponent of a quire's bit 0 (R44). -/
def quireLsb (n : Nat) : Int := 16 - 8 * (n : Int)

/-- The value of a 16n-bit quire word in units of its bit 0; none is NaR (R44, R45). -/
def quireInt (n w : Nat) : Option Int :=
  let w := w % 2 ^ (16 * n)
  if w = 2 ^ (16 * n - 1) then none else some (toSigned (16 * n) w)

def quireNaR (n : Nat) : Nat := 2 ^ (16 * n - 1)

/-- The exact value of a quire word. -/
def quireVal (n w : Nat) : Option Dy := (quireInt n w).map (fun i => ⟨i, quireLsb n⟩)

/-- The quire word of an exact sum in units of bit 0: saturated by R46, with OF and NX when it is. -/
def quireOfInt (n : Nat) (i : Int) : Rounded :=
  let lim : Int := (2 : Int) ^ (16 * n - 1) - 1
  if i > lim then ⟨ofSigned (16 * n) lim, { of := true, nx := true }⟩
  else if i < -lim then ⟨ofSigned (16 * n) (-lim), { of := true, nx := true }⟩
  else ⟨ofSigned (16 * n) i, {}⟩

/-- A quire plus a value (R46): exact, saturating, NaR staying NaR. The value is a multiple of the quire's
bit 0 for every operation the part offers; a finer one is truncated here and the caller says so. -/
def quireAdd (n w : Nat) (v : Option Dy) : Rounded :=
  match quireInt n w, v with
  | some q, some x =>
    match x.toUnits? (quireLsb n) with
    | some u => quireOfInt n (q + u)
    | none => quireOfInt n (q + (x.scale (-(quireLsb n))).truncInt)
  | _, _ => ⟨quireNaR n, {}⟩

/-- A quire rounded once to a posit (R55). The saturation values and a quire of which only bit 0 is set, of either
sign, give ±maxpos and ±minpos of whatever posit format (R60). -/
def quireToPosit (n w p : Nat) : Rounded :=
  let signed (neg : Bool) (m : Nat) : Nat := if neg then positNeg p m else m
  match quireInt n w with
  | none => ⟨positNaR p, {}⟩
  | some q =>
    if q.natAbs = 2 ^ (16 * n - 1) - 1 then ⟨signed (decide (q < 0)) (positMax p), { of := true, nx := true }⟩
    else if q.natAbs = 1 then ⟨signed (decide (q < 0)) 1, { uf := true, nx := true }⟩
    else roundPosit p .nearestEven ⟨q, quireLsb n⟩

/-! Integers -/

/-- The bounds of an integer format (R47). -/
def Fmt.intRange : Fmt → Int × Int
  | .S8 => (-128, 127) | .U8 => (0, 255) | .S4 => (-8, 7) | .U4 => (0, 15)
  | _ => (-2147483648, 2147483647)

/-- The value of an integer word (R47). -/
def Fmt.intVal (f : Fmt) (w : Nat) : Int :=
  match f with
  | .U8 => ((w % 256 : Nat) : Int)
  | .U4 => ((w % 16 : Nat) : Int)
  | f => toSigned f.width w

/-- Clips an integer to a format's range (R58): OF and NX when it does. -/
def clipInt (f : Fmt) (i : Int) : Int × Bool :=
  let (lo, hi) := f.intRange
  if i > hi then (hi, true) else if i < lo then (lo, true) else (i, false)

/-- An exact value converted to an integer format: toward zero, then saturation (R58). -/
def toIntFmt (f : Fmt) (a : Dy) (sticky : Bool := false) : Rounded :=
  let t := a.truncInt
  let (c, clipped) := clipInt f t
  let exact := !sticky && (Dy.ofInt c).eq a
  ⟨ofSigned f.width c, { of := clipped, nx := !exact }⟩

/-! IEEE layouts (R50) -/

/-- Exponent and fraction bits of an IEEE layout. -/
def Fmt.ieee : Fmt → Nat × Nat
  | .B16 => (5, 10) | .BF16 => (8, 7) | _ => (8, 23)

/-- What an IEEE word holds, as the load path reads it (R52). -/
inductive Ieee where
  | zero | subnormal (neg : Bool) | inf | nan | normal (v : Dy)
  deriving DecidableEq, Repr

def ieeeDecode (f : Fmt) (w : Nat) : Ieee :=
  let (eb, fb) := f.ieee
  let frac := w % 2 ^ fb
  let ex := (w >>> fb) % 2 ^ eb
  let neg := (w >>> (eb + fb)).testBit 0
  if ex = 2 ^ eb - 1 then (if frac = 0 then .inf else .nan)
  else if ex = 0 then (if frac = 0 then .zero else .subnormal neg)
  else
    let m : Int := ((2 ^ fb + frac : Nat) : Int)
    .normal ⟨if neg then -m else m, (ex : Int) - (2 ^ (eb - 1) - 1 : Nat) - (fb : Int)⟩

/-- The store path of R53 for a real value: nearest even at the layout's precision with unbounded
exponent, then clipping and flushing. -/
def ieeeEncode (f : Fmt) (a : Dy) : Rounded :=
  let (eb, fb) := f.ieee
  let sgn := if a.m < 0 then 2 ^ (eb + fb) else 0
  if a.m = 0 then ⟨0, {}⟩
  else
    let m := a.m.natAbs
    let lg := Nat.log2 m
    -- significand of fb + 1 bits
    let (kept, e1, inexact) :=
      if lg ≤ fb then (m <<< (fb - lg), a.e - ((fb - lg : Nat) : Int), false)
      else
        let d := lg - fb
        let k := m >>> d
        let g := m.testBit (d - 1)
        let s := decide (m % 2 ^ (d - 1) ≠ 0)
        (if g && (s || k % 2 = 1) then k + 1 else k, a.e + (d : Int), g || s)
    let (kept, e1) := if kept = 2 ^ (fb + 1) then (2 ^ fb, e1 + 1) else (kept, e1)
    let ex : Int := e1 + (fb : Int)
    let bias : Int := (2 ^ (eb - 1) - 1 : Nat)
    if ex > bias then
      ⟨sgn + ((2 ^ eb - 2) <<< fb) + (2 ^ fb - 1), { of := true, nx := true }⟩
    else if ex < 1 - bias then ⟨sgn, { uf := true, nx := true }⟩
    else ⟨sgn + ((ex + bias).toNat <<< fb) + (kept - 2 ^ fb), { nx := inexact }⟩

/-- The quiet NaN each layout delivers for NaR (R53). -/
def ieeeNaN (f : Fmt) : Nat :=
  match f with
  | .B16 => 0x7E00 | .BF16 => 0x7FC0 | _ => 0x7FC00000

/-! Conversions (R51 to R59) -/

/-- The conversions the part defines: the table of R55, the quire preloads of R133, and any format to
itself. -/
def convDefined (src dst : Fmt) : Bool :=
  src == dst
  || (src.isQuire && dst.isPosit)
  || (src.isPosit && (dst.isPosit || dst.isInt || dst.isIeee))
  || (src.isInt && (dst.isPosit || dst.isInt || dst.isIeee))
  || (src.isIeee && dst.isPosit)
  || (src == .P8 && (dst == .QP8 || dst == .QP16))
  || (src == .P16 && dst == .QP16)
  || ((src == .S8 || src == .U8 || src == .S32) && (dst == .QP8 || dst == .QP16))

/-- An exact value converted to a posit, integer or IEEE format (the last rounding of every path). -/
def dyTo (dst : Fmt) (a : Dy) : Rounded :=
  if dst.isPosit then roundPosit dst.positBits .nearestEven a
  else if dst.isInt then toIntFmt dst a
  else ieeeEncode dst a

/-- NaR converted to a format (R53, R58): a posit's NaR, an IEEE quiet NaN, or 0 with NV. -/
def narTo (dst : Fmt) : Rounded :=
  if dst.isPosit then ⟨positNaR dst.positBits, {}⟩
  else if dst.isInt then ⟨0, { nv := true }⟩
  else ⟨ieeeNaN dst, {}⟩

/-- An IEEE import (R52, R57): to P32 once; to P8 or P16 to odd into P32, then nearest even, with flags
that compare the exact input with the final result. -/
def importIeee (src dst : Fmt) (w : Nat) : Rounded :=
  let n := dst.positBits
  match ieeeDecode src w with
  | .zero => ⟨0, {}⟩
  | .subnormal _ => ⟨0, { uf := true, nx := true }⟩
  | .inf => ⟨positNaR n, { nv := true }⟩
  | .nan => ⟨positNaR n, {}⟩
  | .normal v =>
    if n = 32 then roundPosit 32 .nearestEven v
    else
      let odd := roundPosit 32 .toOdd v
      let fin := roundPosit? n .nearestEven (positVal 32 odd.word)
      ⟨fin.word, (roundPosit n .nearestEven v).fl⟩

/-- One element converted from one format to another, for the pairs of convDefined (R55). -/
def convert (src dst : Fmt) (w : Nat) : Rounded :=
  let w := w % 2 ^ src.width
  if src = dst then ⟨w, {}⟩
  else if src.isIeee then importIeee src dst w
  else if src.isQuire && dst.isPosit then quireToPosit src.quireOf w dst.positBits
  else
    let v : Option Dy :=
      if src.isPosit then positVal src.positBits w
      else if src.isQuire then quireVal src.quireOf w
      else some (Dy.ofInt (src.intVal w))
    if dst.isQuire then quireAdd dst.quireOf 0 v
    else
      match v with
      | none => narTo dst
      | some a =>
        if src.isPosit && dst.isPosit && src.width < dst.width then
          ⟨w <<< (dst.width - src.width), {}⟩
        else dyTo dst a

/-! Scalar posit arithmetic (R54, R60) -/

/-- The sum of two n-bit posits, nearest even. -/
def positAdd (n a b : Nat) : Rounded :=
  match positVal n a, positVal n b with
  | some x, some y => roundPosit n .nearestEven (x.add y)
  | _, _ => ⟨positNaR n, {}⟩

def positSub (n a b : Nat) : Rounded := positAdd n a (positNeg n b)

/-- The product of two n-bit posits, nearest even. -/
def positMul (n a b : Nat) : Rounded :=
  match positVal n a, positVal n b with
  | some x, some y => roundPosit n .nearestEven (x.mul y)
  | _, _ => ⟨positNaR n, {}⟩

/-- The exact product of two n-bit posits; none when either is NaR. -/
def positProd (n a b : Nat) : Option Dy :=
  match positVal n a, positVal n b with
  | some x, some y => some (x.mul y)
  | _, _ => none

end Sys2Proof.Machine
end

