-- ==== Sys2Proof/Machine/SMap.lean ====
section
/-! DEFINITION. A sparse map from natural keys to values, as plain data: a list of (key, value) pairs in
rising key order. An unlisted key reads as a default. Registers, tiles, rings and links are held so. -/
namespace Sys2Proof.Machine

/-- Sparse data by key. -/
abbrev SMap (α : Type) := List (Nat × α)

/-- The value at a key, or the default. -/
def SMap.get {α : Type} (d : α) : SMap α → Nat → α
  | [], _ => d
  | (k, v) :: m, j => if j = k then v else SMap.get d m j

/-- The value at a key, if listed. -/
def SMap.find {α : Type} : SMap α → Nat → Option α
  | [], _ => none
  | (k, v) :: m, j => if j = k then some v else SMap.find m j

/-- The map with one key set. -/
def SMap.set {α : Type} : SMap α → Nat → α → SMap α
  | [], k, v => [(k, v)]
  | (k', v') :: m, k, v =>
    if k < k' then (k, v) :: (k', v') :: m
    else if k = k' then (k, v) :: m
    else (k', v') :: SMap.set m k v

/-- The map without one key. -/
def SMap.erase {α : Type} (m : SMap α) (k : Nat) : SMap α := m.filter (fun p => p.1 != k)

/-- The map without the keys of a range [lo, hi). -/
def SMap.eraseRange {α : Type} (m : SMap α) (lo hi : Nat) : SMap α :=
  m.filter (fun p => decide (p.1 < lo ∨ hi ≤ p.1))

end Sys2Proof.Machine
end

