-- ==== Sys2Proof/Machine/Types.lean ====
section
/-! DEFINITION. Types shared by the commands' operands and the state: privilege levels, the writers of
registers, access widths, severities and error sources (07 R222, 16 R607, 00 R11, 15 R565, R566). -/
namespace Sys2Proof.Machine

/-- The three privilege levels (07 R222). -/
inductive Level where
  | u | k | f
  deriving DecidableEq, Repr

/-- Who performs a register access (16 R607, R612, R616). -/
inductive Writer where
  /-- A scalar access of the herder of a tile at a privilege level. -/
  | herder (tile : Nat) (lvl : Level)
  /-- The virtual function of partition p. -/
  | vf (p : Nat)
  /-- The physical function, at level F. -/
  | pf
  /-- The management chain. -/
  | chain
  /-- A LOCK_WR packet on a ring of partition p, with the ring's SYS bit. -/
  | lockWr (p : Nat) (sys : Bool)
  /-- A request of another module's link mailbox, at level F (R612). -/
  | mailbox
  deriving DecidableEq, Repr

/-- The width and place of a register access (00 R11): a 64-bit word, a 32-bit half, or any other width or
alignment, which is ignored on write and reads zero. -/
inductive Acc where
  | full | lo | hi | other
  deriving DecidableEq, Repr

/-- Severities (15 R565, R566). -/
inductive Sev where
  | none | amber | rust | crimson
  deriving DecidableEq, Repr

def Sev.code : Sev → Nat
  | .none => 0 | .amber => 1 | .rust => 2 | .crimson => 3

/-- The sources of the error log (15 R566). -/
inductive Source where
  | sramCe | sramUe | sramPoison | hbmCe | hbmUe | hbmPoison | csumRerun | csumSecond | lockstep
  | compWrite | compMem | compPart | compModule | linkEpisode | linkNarrow | linkDown | lost
  | wakeFail | drainKill | rustTimeout | config | lockViolation | spareExhausted | rail | thermal
  deriving DecidableEq, Repr

def Source.code : Source → Nat
  | .sramCe => 0x01 | .sramUe => 0x02 | .sramPoison => 0x03 | .hbmCe => 0x04 | .hbmUe => 0x05
  | .hbmPoison => 0x06 | .csumRerun => 0x08 | .csumSecond => 0x09 | .lockstep => 0x0A
  | .compWrite => 0x10 | .compMem => 0x11 | .compPart => 0x12 | .compModule => 0x13
  | .linkEpisode => 0x18 | .linkNarrow => 0x19 | .linkDown => 0x1A | .lost => 0x1B
  | .wakeFail => 0x20 | .drainKill => 0x21 | .rustTimeout => 0x22 | .config => 0x28
  | .lockViolation => 0x29 | .spareExhausted => 0x2A | .rail => 0x30 | .thermal => 0x31

/-- The severity the table of R566 gives each source. LOST is Rust for the source partition and
LOCK_VIOLATION is Rust in strict mode; their callers say so. -/
def Source.sev : Source → Sev
  | .sramCe | .hbmCe | .csumRerun | .linkEpisode | .linkNarrow | .linkDown => .amber
  | .sramUe | .hbmUe | .csumSecond | .lockstep | .compPart | .lost | .wakeFail | .drainKill => .rust
  | .compModule | .rustTimeout | .rail | .thermal => .crimson
  | .sramPoison | .hbmPoison | .compWrite | .compMem | .config | .lockViolation | .spareExhausted => .none

/-- One error-log entry (15 R567). -/
structure LogEntry where
  time : Nat := 0
  seq : Nat := 0
  sev : Sev := .none
  inj : Bool := false
  source : Nat := 0
  part : Option Nat := none
  unit : Nat := 0x7FF
  info : Nat := 0
  count : Nat := 1
  deriving DecidableEq, Repr

/-- The 32 bytes of a log entry as four words (15 R567). -/
def LogEntry.word (e : LogEntry) (i : Nat) : Word :=
  match i with
  | 0 => BitVec.ofNat 64 e.time
  | 1 => BitVec.ofNat 64
      (e.seq % 2 ^ 32 + e.sev.code <<< 32 + (if e.inj then 1 <<< 34 else 0) + e.source <<< 40
        + (match e.part with | some p => (p % 16) <<< 48 + 1 <<< 52 | none => 0) + (e.unit % 2048) <<< 53)
  | 2 => BitVec.ofNat 64 e.info
  | _ => BitVec.ofNat 64 (e.count % 2 ^ 32)

/-- Exception codes (07 R259). -/
inductive Exc where
  | illegal | priv | align | addr | format | shape | accBusy | ticket | imem
  | dcb | spb | noRoute | memEcc | complement | xlate | lockstep
  deriving DecidableEq, Repr

def Exc.code : Exc → Nat
  | .illegal => 0x01 | .priv => 0x02 | .align => 0x03 | .addr => 0x04 | .format => 0x05 | .shape => 0x06
  | .accBusy => 0x07 | .ticket => 0x08 | .imem => 0x09 | .dcb => 0x10 | .spb => 0x11 | .noRoute => 0x12
  | .memEcc => 0x13 | .complement => 0x14 | .xlate => 0x15 | .lockstep => 0x20

/-- The engine classes of R235, as bit numbers of a class mask. -/
inductive Cls where
  | pack | rtv | drn | sfu | chn
  deriving DecidableEq, Repr

def Cls.bit : Cls → Nat
  | .pack => 0 | .rtv => 1 | .drn => 2 | .sfu => 3 | .chn => 4

end Sys2Proof.Machine
end

