-- ==== Sys2Proof/Machine/MgtTypes.lean ====
section
/-! DEFINITION. The state of time, power, start-up and management (13, 14, 17): what their registers do not hold
themselves. -/
namespace Sys2Proof.Machine

/-- One time exchange under way (13 R506): its SEQ and its stamps in units of 2^-16 ns. -/
structure Exchange where
  seq : Nat
  t1 : Nat
  t2 : Nat
  t3 : Option Nat := none
  /-- The upstream link was in a recovery episode at a stamp (R507). -/
  recov : Bool := false
  deriving DecidableEq, Repr

/-- Global time (13 R496, R497): the counter in units of 2^-48 ns, RATE, and the servo. -/
structure TimeUnit where
  ctr : Nat := 0
  rate : Int := 0
  /-- The fraction latched by the last TIM_NOW read (R499). -/
  frac : Nat := 0
  locked : Bool := false
  holdover : Bool := false
  depth : Nat := 15
  /-- Consecutive accepted exchanges or dialogues within the lock bound (R509). -/
  good : Nat := 0
  /-- The servo's integral term, an addition to RATE (R508). -/
  integ : Int := 0
  ex : Option Exchange := none
  /-- SEQ of the next SYNC sent. -/
  syncSeq : Nat := 0
  deriving DecidableEq, Repr

/-- Power states of a tile (14 R535). -/
inductive PwrSt where
  | ivory | dove | ash | slate
  deriving DecidableEq, Repr

def PwrSt.code : PwrSt → Nat
  | .ivory => 0 | .dove => 1 | .ash => 2 | .slate => 3

/-- A packet for a tile whose local port is closed or whose clocks are gated (14 R548, R550), named by the
tile it comes from and what waits for it there. -/
inductive HeldPkt where
  /-- The handle at the head of a tile's outbound buffer. -/
  | handle (src : Nat)
  /-- The oldest write of a tile's stream that has not reached its target. -/
  | write (src : Nat) (kctx : Bool) (serial : Nat)
  /-- A read request of a tile's stream. -/
  | read (src : Nat) (kctx : Bool) (serial : Nat)
  /-- Any other packet, such as a host access, a register access or a program beat. -/
  | other
  deriving DecidableEq, Repr

/-- The power state of one tile (14 R535, R545, R548, R553). -/
structure TilePwr where
  st : PwrSt := .slate
  /-- The handshake of R545 is under way. -/
  handshake : Bool := false
  /-- An exit is under way. -/
  exiting : Bool := false
  /-- Where an exit that is not to Ivory leads (R543, R544). -/
  target : PwrSt := .ivory
  held : List HeldPkt := []
  deriving DecidableEq, Repr

/-- A channel set (14 R536, R551). -/
inductive ChSt where
  | active | powerDown | selfRefresh
  deriving DecidableEq, Repr

/-- The module's power: channel sets, Jet, and the governor (14 R555 to R560). -/
structure PowerUnit where
  ch : SMap ChSt := []
  /-- Channel sets on their way back to active (R551). -/
  chExit : List Nat := []
  jet : Bool := false
  jetExit : Bool := false
  /-- Every rail except VAON is switched off by a failed phase bound (17 R651). -/
  railsOff : Bool := false
  step : Nat := 16
  override : Bool := false
  /-- The last bins of input power in mW, newest first, at most 1,000 (R557). -/
  bins : List Nat := []
  /-- Ticks since the last raise, since the running excursion began, and since the mean fell back (R558). -/
  sinceRaise : Nat := 10
  excursion : Option Nat := none
  /-- The running excursion was admitted (R558). -/
  admitted : Bool := false
  since90 : Nat := 90000
  deriving DecidableEq, Repr

/-- Start-up phases (17 R647). -/
inductive BootPhase where
  | power | boot | measure | links | time | ready | sit
  deriving DecidableEq, Repr

def BootPhase.code : BootPhase → Nat
  | .power => 0 | .boot => 1 | .measure => 2 | .links => 3 | .time => 4 | .ready => 5 | .sit => 6

/-- What the module keeps of a firmware object it runs (16 R626, R628): header fields, the pairs a TABLE lists, and
the measurement of header and body. -/
structure FwObj where
  version : Nat := 0
  svn : Nat := 0
  /-- The window of peer versions, and the window of link partners' HCF versions. -/
  peerLo : Nat := 0
  peerHi : Nat := 0
  linkLo : Nat := 0
  linkHi : Nat := 0
  pairs : List (Nat × Nat) := []
  digest : List (BitVec 8) := []
  deriving DecidableEq, Repr

/-- The running firmware operation (17 R665). -/
inductive FwOp where
  | open_ | write | verify | copy | close
  deriving DecidableEq, Repr

/-- A chain frame (17 R657). -/
structure Frame where
  dst : Nat := 0
  src : Nat := 0
  cmd : Nat := 0
  tag : Nat := 0
  status : Nat := 0
  payload : List (BitVec 8) := []
  deriving DecidableEq, Repr

/-- Start-up and management. -/
structure MgtUnit where
  phase : BootPhase := .power
  waiting : Bool := false
  fail : Bool := false
  cause : Nat := 0
  cresets : Nat := 0
  /-- PROCEED has satisfied the running phase's gate (R648). -/
  proceed : Bool := false
  /-- The work of MEASURE is done: memory zeroed, sparing restored (R647). -/
  measured : Bool := false
  /-- The stop of R649 holds. -/
  xstop : Bool := false
  /-- 54 V input present and in range; VAON held. -/
  input : Bool := true
  /-- The flash image: objects' bytes by slot (type × 2 + slot). -/
  flash : SMap (List (BitVec 8)) := []
  /-- The running objects by type 1 MCF, 2 HCF, 3 TABLE, their slot, and whether an MCF runs. -/
  running : SMap FwObj := []
  runSlot : SMap Nat := []
  mcf : Bool := false
  /-- Firmware update: owner 0, 1 or 2, the operation in progress and its operands, the last result. -/
  owner : Nat := 0
  fwType : Nat := 0
  /-- The target slot of the last operation that began; 0 before the first since reset. -/
  fwSlot : Nat := 0
  fwBusy : Option (FwOp × Nat) := none
  fwResult : Nat := 0
  /-- MGT_BOOT_CFG as kept in boot flash, SEC_BOOT.PREF as kept there. -/
  bootCfg : Nat := 0
  pref : Nat := 0
  /-- SKIP of dies W and E as recorded in boot flash (15 R587). -/
  skipW : Nat := 24
  skipE : Nat := 0
  pos : Nat := 0
  posValid : Bool := false
  /-- Own frames waiting upstream, and the bytes of the frames sent in each direction, without their commas. -/
  upq : List Frame := []
  up : List (List (BitVec 8)) := []
  down : List (List (BitVec 8)) := []
  /-- Consecutive samples at trip, by sensor index (R653). -/
  trips : SMap Nat := []
  deriving DecidableEq, Repr

end Sys2Proof.Machine
end

