-- ==== Sys2Proof/Syntax.lean ====
section
/-! DEFINITION. The commands of the block: one constructor per row of spec/opcode_table.json. A herder
instruction carries its tile and its word; every other command names what it acts on, and what comes from
outside with it: a writer and a value, bytes on a link or on the chain, a measurement. -/
namespace Sys2Proof
open Sys2Proof.Machine (Writer Acc HeldPkt)

inductive Instr where
  /-- Sets sD to sA plus sB, modulo 2^64. (R273) -/
  | add (t : Nat) (w : BitVec 64)
  /-- Sets sD to sA minus sB, modulo 2^64. (R273) -/
  | sub (t : Nat) (w : BitVec 64)
  /-- Sets sD to the bitwise AND of sA and sB. (R273) -/
  | and (t : Nat) (w : BitVec 64)
  /-- Sets sD to the bitwise OR of sA and sB. (R273) -/
  | or (t : Nat) (w : BitVec 64)
  /-- Sets sD to the bitwise XOR of sA and sB. (R273) -/
  | xor (t : Nat) (w : BitVec 64)
  /-- Shifts sA left by sB[5:0] into sD. (R273) -/
  | shl (t : Nat) (w : BitVec 64)
  /-- Shifts sA right logically by sB[5:0] into sD. (R273) -/
  | shr (t : Nat) (w : BitVec 64)
  /-- Shifts sA right arithmetically by sB[5:0] into sD. (R273) -/
  | sra (t : Nat) (w : BitVec 64)
  /-- Writes the low 64 bits of sA times sB to sD. (R273) -/
  | mul (t : Nat) (w : BitVec 64)
  /-- Writes the high 64 bits of the signed 128-bit product to sD. (R273) -/
  | mulh (t : Nat) (w : BitVec 64)
  /-- Writes the signed minimum of sA and sB to sD. (R273) -/
  | min (t : Nat) (w : BitVec 64)
  /-- Writes the signed maximum of sA and sB to sD. (R273) -/
  | max (t : Nat) (w : BitVec 64)
  /-- Adds the signed immediate to sA and writes the sum to sD. (R273) -/
  | addi (t : Nat) (w : BitVec 64)
  /-- Loads the sign-extended immediate into sD. (R273) -/
  | li (t : Nat) (w : BitVec 64)
  /-- Sets the high half of sD to the immediate and keeps the low half of sA. (R273) -/
  | lih (t : Nat) (w : BitVec 64)
  /-- ANDs sA with the sign-extended immediate into sD. (R273) -/
  | andi (t : Nat) (w : BitVec 64)
  /-- ORs sA with the sign-extended immediate into sD. (R273) -/
  | ori (t : Nat) (w : BitVec 64)
  /-- Sets predicate pD from condition CC on sA and sB. (R275) -/
  | cmp (t : Nat) (w : BitVec 64)
  /-- Sets predicate pD from logical operation CC on pA and pB. (R275) -/
  | plog (t : Nat) (w : BitVec 64)
  /-- Copies sA[47:0] into address register aD. (R273) -/
  | mova (t : Nat) (w : BitVec 64)
  /-- Copies address register aA, zero-extended, into sD. (R273) -/
  | movs (t : Nat) (w : BitVec 64)
  /-- Adds the immediate to aA modulo 2^48 and writes aD. (R273) -/
  | adda (t : Nat) (w : BitVec 64)
  /-- Writes sA into word B of tensor register tD. (R276) -/
  | tset (t : Nat) (w : BitVec 64)
  /-- Reads word B of tensor register tA into sD. (R276) -/
  | tget (t : Nat) (w : BitVec 64)
  /-- Loads 32 bytes of tile SRAM into a tensor register. (R276) -/
  | tld (t : Nat) (w : BitVec 64)
  /-- Stores a tensor register as 32 bytes of tile SRAM. (R276) -/
  | tst (t : Nat) (w : BitVec 64)
  /-- Adds two P32 values with nearest-even rounding and sets flags. (R278) -/
  | padd (t : Nat) (w : BitVec 64)
  /-- Subtracts two P32 values with nearest-even rounding and sets flags. (R278) -/
  | psub (t : Nat) (w : BitVec 64)
  /-- Multiplies two P32 values with nearest-even rounding and sets flags. (R278) -/
  | pmul (t : Nat) (w : BitVec 64)
  /-- Converts sA between the formats named in the immediate. (R279) -/
  | pcvt (t : Nat) (w : BitVec 64)
  /-- Clears the context's QP32 quire. (R278) -/
  | qclr (t : Nat) (w : BitVec 64)
  /-- Adds a P32 value exactly into the context's quire. (R278) -/
  | qadd (t : Nat) (w : BitVec 64)
  /-- Adds the exact product of two P32 values into the quire. (R278) -/
  | qmadd (t : Nat) (w : BitVec 64)
  /-- Subtracts the exact product of two P32 values from the quire. (R278) -/
  | qmsub (t : Nat) (w : BitVec 64)
  /-- Rounds the quire once to P32 into sD, leaving the quire unchanged. (R278) -/
  | qrd (t : Nat) (w : BitVec 64)
  /-- Loads 1 to 8 bytes, zero-extended, into sD. (R280) -/
  | ld (t : Nat) (w : BitVec 64)
  /-- Loads 1 to 8 bytes, sign-extended, into sD. (R280) -/
  | lds (t : Nat) (w : BitVec 64)
  /-- Stores the low bytes of sD to memory or a register. (R280) -/
  | st (t : Nat) (w : BitVec 64)
  /-- Branches to TARGET times 8. (R282) -/
  | br (t : Nat) (w : BitVec 64)
  /-- Writes the return offset to sD and branches to TARGET times 8. (R282) -/
  | jal (t : Nat) (w : BitVec 64)
  /-- Branches to the offset held in sA[14:0]. (R282) -/
  | jr (t : Nat) (w : BitVec 64)
  /-- Ends the task once its tensor instructions and outbound handles are done. (R283) -/
  | exit (t : Nat) (w : BitVec 64)
  /-- Does nothing. (R273) -/
  | nop (t : Nat) (w : BitVec 64)
  /-- Issues one array pass, taking a ticket and a scoreboard entry after the checks of R291. (R289) -/
  | mma (t : Nat) (w : BitVec 64)
  /-- Issues a weight-store fill in role COPY, HEAD, MEMBER or TAIL of the sled chain. (R294) -/
  | ldw (t : Nat) (w : BitVec 64)
  /-- Issues a stream that feeds vectors of a t-register tensor to an array feeder. (R297) -/
  | streamFeed (t : Nat) (w : BitVec 64)
  /-- Issues a stream that copies and converts one tensor into another. (R297) -/
  | streamCopy (t : Nat) (w : BitVec 64)
  /-- Issues a stream driven by a list of 64-byte retriever descriptors. (R297) -/
  | streamDesc (t : Nat) (w : BitVec 64)
  /-- Issues a drain of accumulators through the drain path with a DCB. (R300) -/
  | drn (t : Nat) (w : BitVec 64)
  /-- Issues an element function or row operation on the SFU. (R304) -/
  | sfu (t : Nat) (w : BitVec 64)
  /-- Issues one stage of a running-sum chain. (R307) -/
  | red (t : Nat) (w : BitVec 64)
  /-- Issues a top-k selection, locally or as a chain stage. (R310) -/
  | topk (t : Nat) (w : BitVec 64)
  /-- Issues a token draw with an SPB and SSR. (R312) -/
  | smp (t : Nat) (w : BitVec 64)
  /-- Places a handle for a target tile queue in the outbound buffer. (R314) -/
  | hput (t : Nat) (w : BitVec 64)
  /-- Takes the oldest handle of a queue, stalling while it is empty. (R251) -/
  | hget (t : Nat) (w : BitVec 64)
  /-- Takes a handle if the queue holds one and sets a predicate, never stalling. (R251) -/
  | hgetNb (t : Nat) (w : BitVec 64)
  /-- Stalls until a ticket completes and writes its status word. (R237) -/
  | wait (t : Nat) (w : BitVec 64)
  /-- Stalls until every tensor instruction of the context has completed. (R237) -/
  | waitAll (t : Nat) (w : BitVec 64)
  /-- Stalls until every tensor instruction of the masked classes has completed. (R237) -/
  | waitCls (t : Nat) (w : BitVec 64)
  /-- Stalls issue until the named S, T and X scopes are satisfied. (R244) -/
  | fence (t : Nat) (w : BitVec 64)
  /-- Records that consumer classes may not begin before earlier producer classes complete. (R242) -/
  | dep (t : Nat) (w : BitVec 64)
  /-- Waits until the tile's global time reaches a count and sets the late predicate. (R254) -/
  | atCount (t : Nat) (w : BitVec 64)
  /-- Reads a user-context s-register at kernel level. (R320) -/
  | uget (t : Nat) (w : BitVec 64)
  /-- Writes a user-context s-register at kernel level. (R320) -/
  | uput (t : Nat) (w : BitVec 64)
  /-- Discards the preempted user task and tells the front end it was cancelled. (R320) -/
  | ucancel (t : Nat) (w : BitVec 64)
  /-- Quiesces this tile's user streams at a request boundary. (R357) -/
  | rqsc (t : Nat) (w : BitVec 64)
  /-- Resumes quiesced user streams, reissuing their cancelled reads first. (R357) -/
  | rres (t : Nat) (w : BitVec 64)
  /-- A stalled instruction issues once its operands, scoreboard entry or interlock allow. (R272) -/
  | issueResume (t : Nat)
  /-- The array starts loading the oldest queued pass's block once the loading slot frees. (R89) -/
  | passLoadStart (t : Nat) (a : Nat)
  /-- A pass's first vector enters row 0, sending its swap token and copying its scales. (R89) -/
  | passStreamStart (t : Nat) (a : Nat)
  /-- The array starts a matching queued FILL pass in a gap. (R97) -/
  | fillPassStart (t : Nat) (a : Nat)
  /-- A vector enters row 0 from the feeder and moves down the array. (R86) -/
  | vectorEntry (t : Nat) (a : Nat)
  /-- A vector passes the column drain: promotion, checksum, quire add and write. (R87) -/
  | columnDrainVector (t : Nat) (a : Nat)
  /-- A pass reports completion to the scoreboard with its flags and verdict. (R86) -/
  | passReport (t : Nat) (a : Nat)
  /-- A re-run takes the loading slot, reloads the block and streams from the replay store. (R101) -/
  | rerunStart (t : Nat) (a : Nat)
  /-- A written gang mode takes effect in the first cycle all four arrays are idle. (R84) -/
  | gangModeApply (t : Nat)
  /-- A QNT_CFG or ARR_PACK_CFG write takes effect once earlier mma instructions reach their arrays. (R292) -/
  | configWriteApply (t : Nat)
  /-- A red is handed over; a HEAD starts sending its beats. (R142) -/
  | redHandover (t : Nat)
  /-- A chain stage becomes armed and releases its held beats in order. (R141) -/
  | chainStageArm (t : Nat)
  /-- A MID or TAIL stage adds an arriving beat into its elements and forwards the sum. (R142) -/
  | chainBeatArrive (t : Nat)
  /-- A stage overwrites its elements with a returning total and passes it toward the HEAD. (R144) -/
  | chainReturnBeat (t : Nat)
  /-- A top-k chain stage merges an arriving list with its own and forwards the best k. (R149) -/
  | topkListBeat (t : Nat)
  /-- A drn enters the drain path, reading and checking its DCB and channel records. (R175) -/
  | drnHandover (t : Nat)
  /-- A group of elements passes the five drain stages and is written. (R164) -/
  | drainGroup (t : Nat)
  /-- After the last group the drain runs its drift tests and writes its statistics. (R180) -/
  | drnFinish (t : Nat)
  /-- A drn, its re-drain included, completes with its status and flags visible. (R175) -/
  | drnComplete (t : Nat)
  /-- A TIL_DIG_CFG write takes effect once the running drn completes. (R526) -/
  | digestCfgApply (t : Nat)
  /-- An sfu, topk or smp is handed to the SFU after the previous one completes. (R286) -/
  | sfuHandover (t : Nat)
  /-- An SFU instruction completes with its outputs, statuses and flags visible. (R207) -/
  | sfuComplete (t : Nat)
  /-- A retriever queue accepts a stream, which then begins execution. (R322) -/
  | streamQueueAccept (t : Nat) (q : Nat)
  /-- A stream starts to issue after the stream ahead of it in its queue. (R698) -/
  | streamIssueStart (t : Nat) (q : Nat)
  /-- The retriever fetches the 1 KiB block holding the next descriptors. (R344) -/
  | descBurstFetch (t : Nat) (q : Nat)
  /-- The retriever checks a descriptor before issuing any of its requests. (R336) -/
  | descTakeUp (t : Nat) (q : Nat)
  /-- The mesh port issues the next ready request of a qualifying queue. (R330) -/
  | requestIssue (t : Nat)
  /-- A stream reads elements of its own tile's SRAM through the local port. (R324) -/
  | localElementRead (t : Nat) (q : Nat)
  /-- A read request's data returns, is converted and delivered or written. (R326) -/
  | readDataReturn (t : Nat) (q : Nat) (n : Nat)
  /-- A write request's acknowledgement reaches the source and completes it. (R695) -/
  | writeAck (t : Nat) (q : Nat) (n : Nat)
  /-- A 32-cycle window starts and the class shares are renewed. (R329) -/
  | bwWindowBoundary (t : Nat)
  /-- All requests before a MARK complete and the stream proceeds past it. (R346) -/
  | markSatisfied (t : Nat) (q : Nat)
  /-- A stream completes when its last vector is accepted or last write completes. (R299) -/
  | streamComplete (t : Nat) (q : Nat)
  /-- A faulted queue's stream restarts from the faulting request. (R355) -/
  | rtvResume (wr : Writer) (t : Nat) (acc : Acc) (v : BitVec 64)
  /-- A faulted queue's stream ends with XLATE. (R355) -/
  | rtvKill (wr : Writer) (t : Nat) (acc : Acc) (v : BitVec 64)
  /-- Clearing RTV_FAULT.VALID refills it with the lowest other faulted queue. (R356) -/
  | rtvFaultClear (wr : Writer) (t : Nat) (acc : Acc) (v : BitVec 64)
  /-- A real-time stream not complete when time reaches its deadline counts a miss. (R359) -/
  | streamDeadlineMiss (t : Nat) (q : Nat)
  /-- Every user stream has halted with its position saved and rqsc resumes. (R357) -/
  | quiesceComplete (t : Nat)
  /-- A sled-chain beat is written into the weight store and forwarded by a MEMBER. (R351) -/
  | sledBeatArrive (t : Nat)
  /-- The next tile's acceptance of the last beat lets a HEAD or MEMBER ldw complete. (R295) -/
  | ldwAcceptReport (t : Nat) (q : Nat)
  /-- The outbound buffer sends a handle once its release condition holds. (R248) -/
  | handleSend (t : Nat)
  /-- A handle reaches its target queue and is taken in or refused. (R249) -/
  | handleArrive (t : Nat)
  /-- A refused handle is resent every 64 cycles. (R249) -/
  | handleResend (t : Nat)
  /-- A stalled hget returns the handle that has just arrived. (R315) -/
  | hgetReturn (t : Nat)
  /-- A wait resumes issue when its awaited completion becomes visible. (R237) -/
  | waitResume (t : Nat)
  /-- A dep's producers complete and its consumer classes may begin. (R242) -/
  | depSatisfied (t : Nat)
  /-- The tile's time reaches an at count and the next instruction issues. (R254) -/
  | atRelease (t : Nat)
  /-- A kernel task arrives, stops the user context and parks or withdraws its work. (R255) -/
  | kernelPreempt (t : Nat)
  /-- The kernel context starts issuing once no user pass holds a loading or streaming slot. (R255) -/
  | kernelContextStart (t : Nat)
  /-- An instruction with an asynchronous fault completes with FAULT after its required work. (R287) -/
  | faultCompletion (t : Nat)
  /-- After the faulting context's writes complete, the herder signals the front end. (R394) -/
  | exceptionSignal (t : Nat)
  /-- Writing MEM_XLT_INV.INV starts dropping every translation cache of the partition. (R393) -/
  | xltInvalidate (wr : Writer) (p : Nat) (acc : Acc) (v : BitVec 64)
  /-- The caches have dropped their entries and BUSY returns to 0. (R393) -/
  | xltInvalidateDone (p : Nat)
  /-- Setting MEM_CRYPT_CTL.EN draws a fresh key and loads it into the controllers. (R636) -/
  | cryptEnable (wr : Writer) (p : Nat) (acc : Acc) (v : BitVec 64)
  /-- A 64-bit write to FE_RING_DB moves TAIL after complement and range checks. (R405) -/
  | ringDoorbell (wr : Writer) (g : Nat) (acc : Acc) (v : BitVec 64)
  /-- The front end reads a covered packet from a ring. (R408) -/
  | packetFetch (g : Nat)
  /-- The front end checks one fetched packet, in validation order. (R411) -/
  | packetValidate (g : Nat)
  /-- A ready task is dispatched and its program sent to its tile group. (R417) -/
  | taskDispatch (g : Nat)
  /-- A tile receives its program, has its registers set and starts the task. (R422) -/
  | tileTaskStart (t : Nat)
  /-- Every tile's context has ended and the completion record is written. (R423) -/
  | taskEnd (g : Nat) (n : Nat)
  /-- An ended packet retires in count order and DONE advances. (R424) -/
  | packetRetire (g : Nat)
  /-- Stops dispatch of the partition's user tasks. (R414) -/
  | partStop (g : Nat)
  /-- Releases a partition or resumes its dispatch. (R650) -/
  | partRelease (g : Nat)
  /-- Runs the drain and reset of a partition without logging. (R414) -/
  | partReset (g : Nat)
  /-- Drains every running or preempted task of a ring, ending them CANCELLED. (R414) -/
  | cancel (g : Nat)
  /-- Writes a locked or write-once register with its value and complement. (R616) -/
  | lockWr (g : Nat)
  /-- Gives a stored-program ID a new current version. (R421) -/
  | progPatch (g : Nat)
  /-- Leaves a stored-program ID with no current version. (R414) -/
  | progRemove (g : Nat)
  /-- Sets a FREE master's global time counter. (R512) -/
  | timeStep (g : Nat)
  /-- Sets a FREE master's RATE. (R512) -/
  | timeSlew (g : Nat)
  /-- Broadcasts SIT to every tile and stops dispatch on every ring. (R431) -/
  | sit (g : Nat)
  /-- The SIT broadcast reaches a tile, which stops issue and quiesces its engines. (R431) -/
  | sitTileArrive (t : Nat)
  /-- A pass unreported 424 cycles after SIT is abandoned. (R431) -/
  | sitPassAbandon (t : Nat) (a : Nat)
  /-- A tile reports to the front end that it has quiesced. (R431) -/
  | sitTileReport (t : Nat)
  /-- The last tile report arrives; tasks end with SIT and sit mode holds. (R432) -/
  | sitComplete
  /-- A ring's time slice runs out and the turn may pass. (R418) -/
  | sliceExpiry (g : Nat)
  /-- A task not ended at its DEADLINE counts a miss and runs on. (R425) -/
  | taskDeadlineMiss (g : Nat) (n : Nat)
  /-- Every 100 µs the front end checks running tasks against their stall budgets. (R428) -/
  | stallCheck
  /-- A drained task has empty scoreboards and no outstanding requests; its record is written. (R429) -/
  | drainComplete (g : Nat) (n : Nat)
  /-- A drain not complete after 1 ms kills the task and raises Rust. (R430) -/
  | drainKill (g : Nat) (n : Nat)
  /-- Enables or disables a ring, zeroing its counts on enable. (R436) -/
  | feRingCfgWrite (wr : Writer) (g : Nat) (acc : Acc) (v : BitVec 64)
  /-- A link sends a DATA, IDLE or LCF flit at a flit position. (R457) -/
  | flitTransmit (k : Nat)
  /-- A receiver checks a DATA flit and accepts it in order or discards it; with the codeword that completes it, if one
  does, as four streams: stream j holds the symbols i with i mod 4 = j, which is active lane j of four, or active lanes
  j and j + 4 of eight by turns (R447). (R461) -/
  | flitReceive (k : Nat) (a : List (BitVec 10)) (b : List (BitVec 10)) (c : List (BitVec 10)) (d : List (BitVec 10)) (stamp : Nat)
  /-- The oldest unacknowledged flit waits 2 × FLIGHT + 400 ns and a replay starts. (R462) -/
  | replayTimer (k : Nat)
  /-- A link-control flit is received with its command and lane counts; the codeword that completes it comes as for a
  DATA flit. (R459) -/
  | lcfReceive (k : Nat) (a : List (BitVec 10)) (b : List (BitVec 10)) (c : List (BitVec 10)) (d : List (BitVec 10))
  /-- The partner asks to narrow to four lanes and is answered NARROW_ACK. (R477) -/
  | narrowReq (k : Nat)
  /-- The partner accepts narrowing and both ends enter NARROW. (R477) -/
  | narrowAck (k : Nat)
  /-- ALIGN on four lanes completes and the link returns to ACTIVE at ×4. (R477) -/
  | narrowDone (k : Nat)
  /-- The partner's notice takes the link to DOWN with reason PARTNER. (R480) -/
  | downNotice (k : Nat)
  /-- The partner reports its new device ID. (R459) -/
  | idUpdate (k : Nat)
  /-- The partner's signal appears on four lanes and the link enters EQUALIZE. (R449) -/
  | signalDetect (k : Nat)
  /-- Equalisation and loss measurement complete and the link enters ALIGN. (R451) -/
  | equalizeDone (k : Nat) (loss : Nat)
  /-- Lanes align and width and rate are settled; the link enters CAPS. (R451) -/
  | alignDone (k : Nat) (ploss : Nat) (lanes : Nat) (planes : Nat) (pfull : Bool)
  /-- The partner's capability record is received and checked. (R453) -/
  | caps (k : Nat)
  /-- RTT and FLIGHT are measured and the link enters ACTIVE. (R452) -/
  | measureDone (k : Nat) (sum : Nat)
  /-- A training state passes its bound and the link returns to DETECT or goes DOWN. (R450) -/
  | trainBoundExpiry (k : Nat)
  /-- Loss of signal on every lane takes the link to DOWN with reason SIGNAL. (R480) -/
  | signalLoss (k : Nat)
  /-- One ms after DOWN for SIGNAL, LADDER or PARTNER the link returns to DETECT. (R478) -/
  | linkRetrainTimer (k : Nat)
  /-- Writing LNK_CTL.EN starts training or takes the link to DISABLED by way of DOWN. (R488) -/
  | linkEnable (wr : Writer) (k : Nat) (acc : Acc) (v : BitVec 64)
  /-- Writing RETRAIN takes a DOWN link to DETECT. (R488) -/
  | retrain (wr : Writer) (k : Nat) (acc : Acc) (v : BitVec 64)
  /-- Writing REJOIN makes an ACTIVE link live for routing. (R478) -/
  | rejoin (wr : Writer) (k : Nat) (acc : Acc) (v : BitVec 64)
  /-- A read transaction arrives and is answered RDR. (R465) -/
  | rd (k : Nat)
  /-- A write transaction arrives, is performed and answered WRA. (R465) -/
  | wr (k : Nat) (vc : Nat)
  /-- An indivisible 64-bit add arrives and is answered AADR with the old value. (R465) -/
  | aadd (k : Nat)
  /-- A chain quire-add beat arrives for a stage and is answered QAA. (R465) -/
  | hiricQadd (k : Nat)
  /-- A top-k list beat arrives for a stage and is answered QAA. (R465) -/
  | hiricList (k : Nat)
  /-- A handle arrives for a tile queue and is answered HPA. (R465) -/
  | hiricHput (k : Nat)
  /-- A ring doorbell arrives over a link and is answered WRA. (R465) -/
  | doorbell (k : Nat)
  /-- A read response reaches its source. (R466) -/
  | rdr (k : Nat)
  /-- A write or doorbell response reaches its source. (R466) -/
  | wra (k : Nat)
  /-- An add response with the old value reaches its source. (R466) -/
  | aadr (k : Nat)
  /-- A chain beat response reaches its source. (R466) -/
  | qaa (k : Nat)
  /-- A handle response reaches its source, possibly REFUSED. (R466) -/
  | hpa (k : Nat)
  /-- Writing START on the root takes ROOT_ID and the enumeration token. (R483) -/
  | enumStart (wr : Writer) (acc : Acc) (v : BitVec 64)
  /-- A module receives the token, takes an ID if it has none and visits its links. (R484) -/
  | enumToken (k : Nat)
  /-- A returned token lets the holder visit its next link. (R484) -/
  | enumReturn (k : Nat)
  /-- A BUSY return shows the neighbour already has an ID. (R484) -/
  | enumBusy (k : Nat)
  /-- A FAIL travels to the root, which records FAIL and CAUSE. (R485) -/
  | enumFail (k : Nat)
  /-- Writing LNK_MBOX_H1 sends a single RD, WR or AADD from the link mailbox. (R495) -/
  | mboxSend (wr : Writer) (acc : Acc) (v : BitVec 64)
  /-- Every 10 µs a depth-0 or locked module sends TIME SYNC on each ACTIVE link. (R504) -/
  | syncSend
  /-- A follower stamps a SYNC from its upstream link and sends DELAY_REQ. (R506) -/
  | sync (k : Nat)
  /-- A module stamps a DELAY_REQ and answers DELAY_RESP with t4. (R506) -/
  | delayReq (k : Nat)
  /-- A follower computes offset and delay and steers or steps its counter. (R508) -/
  | delayResp (k : Nat)
  /-- A DELAY_RESP missing 5 µs after t3 discards the exchange. (R507) -/
  | exchangeTimeout
  /-- No accepted exchange for 100 µs clears LOCKED and enters holdover. (R511) -/
  | holdoverEntry
  /-- Each ms a PTM master runs a PTM dialogue and corrects its counter. (R502) -/
  | ptmDialogue (off : Int)
  /-- A read of TIM_NOW latches the fraction of the same instant into TIM_FRAC. (R499) -/
  | timNowRead (rd : Writer) (acc : Acc)
  /-- A tile idle for 64 cycles gates its core clocks. (R542) -/
  | doveEntry (t : Nat)
  /-- After 20 µs idle a Dove tile asks its router to close the local port. (R545) -/
  | ashHandshake (t : Nat)
  /-- The router confirms quiescence and the tile enters retention. (R545) -/
  | ashEntry (t : Nat)
  /-- A packet during the handshake reopens the port and returns the tile to Ivory. (R546) -/
  | handshakeAbort (t : Nat)
  /-- After 500 µs idle in Ash with no FULL bit the tile enters Slate. (R542) -/
  | slateEntry (t : Nat)
  /-- A packet for a closed port is held and starts the tile's exit. (R548) -/
  | heldPacketArrive (t : Nat) (pkt : HeldPkt)
  /-- A sleeping tile holding an at starts its exit ahead of the count. (R552) -/
  | atEarlyWake (t : Nat)
  /-- A tile completes its exit to Ivory and held packets are delivered. (R553) -/
  | stateExitComplete (t : Nat)
  /-- An exit not done in four times its bound raises Rust and discards held packets. (R554) -/
  | wakeFail (t : Nat)
  /-- Installing PWR_MOD_JET.JET as 1 drains writes, downs links and switches rails off. (R555) -/
  | jetEnter (wr : Writer) (acc : Acc) (v : BitVec 64)
  /-- Installing JET as 0 starts the 25 ms exit from Jet. (R556) -/
  | jetExit (wr : Writer) (acc : Acc) (v : BitVec 64)
  /-- Each 1 µs the governor measures the bin and sets the throttle step. (R559) -/
  | governorTick (mw : Nat) (maW : Nat) (maE : Nat)
  /-- A write to a register without a row of its own acts on each field by its type. (R12) -/
  | registerWrite (wr : Writer) (addr : Nat) (acc : Acc) (v : BitVec 64)
  /-- A write to a CW register holds a pending value. (R14) -/
  | cwWrite (wr : Writer) (addr : Nat) (acc : Acc) (v : BitVec 64)
  /-- A matching twin write installs the pending pair, or logs a mismatch. (R14) -/
  | cwTwinWrite (wr : Writer) (addr : Nat) (acc : Acc) (v : BitVec 64)
  /-- The partition's tasks have drained and its reset begins. (R569) -/
  | partitionDrainDone (p : Nat)
  /-- After 1 ms the partition's engines are reset whether or not drained. (R569) -/
  | partitionDrainTimeout (p : Nat)
  /-- Poison writes are acknowledged, tile state cleared and the partition becomes HELD. (R569) -/
  | partitionResetDone (p : Nat)
  /-- A partition not HELD or FAILED 10 ms after a Rust error raises Crimson. (R570) -/
  | rustTimeout (p : Nat)
  /-- With CRIMSON_AUTO the module resets 100 ms after a Crimson error. (R571) -/
  | crimsonAutoReset
  /-- Writing REL_CRIMSON_CTL.RESET resets the module after a Crimson error. (R598) -/
  | crimsonReset (wr : Writer) (acc : Acc) (v : BitVec 64)
  /-- Applies die W's pending tile retirement to the column map. (R584) -/
  | applyW (wr : Writer) (acc : Acc) (v : BitVec 64)
  /-- Applies die E's pending tile retirement to the column map. (R584) -/
  | applyE (wr : Writer) (acc : Acc) (v : BitVec 64)
  /-- Writing REL_INJ_CTL with a non-zero CODE arms one injection. (R594) -/
  | injectArm (wr : Writer) (acc : Acc) (v : BitVec 64)
  /-- A Function Level Reset of a VF drains and resets its partition into HELD. (R610) -/
  | flr (p : Nat)
  /-- Commits the staged partition map if valid and permitted. (R624) -/
  | secMapCommit (wr : Writer) (acc : Acc) (v : BitVec 64)
  /-- Zeroing of resources that changed owner completes and BUSY returns to 0. (R625) -/
  | mapZeroDone
  /-- Installs an array's staged scale registers at once or at its next pass boundary. (R623) -/
  | qntSclCommit (wr : Writer) (t : Nat) (acc : Acc) (v : BitVec 64)
  /-- Writing SEC_BOOT.RAISE sets the fused minimums at the next reset. (R631) -/
  | raise (wr : Writer) (acc : Acc) (v : BitVec 64)
  /-- Writing SEC_PMR_CTL.EXTEND extends the partition PMR with 48 bytes. (R635) -/
  | extend (wr : Writer) (p : Nat) (acc : Acc) (v : BitVec 64)
  /-- The PMR extension completes and BUSY returns to 0. (R635) -/
  | pmrExtendDone (p : Nat)
  /-- SPDM request answered with the supported version. (R632) -/
  | getVersion (fn : Nat)
  /-- SPDM request answered with the responder's capabilities. (R632) -/
  | getCapabilities (fn : Nat)
  /-- SPDM request settling on ECDSA P-384 and SHA-384. (R632) -/
  | negotiateAlgorithms (fn : Nat) (ecdsaP384 : Bool) (sha384 : Bool)
  /-- SPDM request answered with certificate chain digests. (R632) -/
  | getDigests (fn : Nat)
  /-- SPDM request answered with a certificate chain from slot 0 or 1. (R633) -/
  | getCertificate (fn : Nat) (slot : Nat) (off : Nat) (len : Nat)
  /-- SPDM challenge answered with a signed response. (R632) -/
  | challenge (fn : Nat) (slot : Nat) (nonce : Nat)
  /-- SPDM request answered with signed measurement blocks. (R634) -/
  | getMeasurements (fn : Nat) (idx : Nat) (nonce : Nat) (sign : Bool)
  /-- The 54 V input is applied and start-up begins at POWER. (R646) -/
  | inputPowerApply
  /-- The input falls out of range, raising RAIL or losing VAON. (R687) -/
  | inputPowerLoss (vaon : Bool)
  /-- A PCIe fundamental reset restarts start-up at BOOT. (R646) -/
  | perstN
  /-- Rails and PLLs are up and start-up enters BOOT. (R647) -/
  | powerPhaseDone
  /-- Firmware is verified and loaded and start-up enters MEASURE or SIT. (R647) -/
  | bootPhaseDone
  /-- Memory is zeroed, sparing restored and sensors valid; start-up enters LINKS. (R647) -/
  | measurePhaseDone (readings : List (Nat × Int))
  /-- Links settle or 100 ms pass and the ID gate holds; start-up enters TIME. (R647) -/
  | linksPhaseDone
  /-- The time gate holds and start-up enters READY, releasing with AUTO_REL. (R647) -/
  | timePhaseDone
  /-- A phase passes its bound; FAIL is set and rails except VAON are switched off. (R651) -/
  | phaseBoundExpiry
  /-- Writing PROCEED satisfies the gate of LINKS or TIME. (R648) -/
  | proceed (wr : Writer) (acc : Acc) (v : BitVec 64)
  /-- Writing MGT_BOOT_CTL.RESET resets the module from BOOT. (R646) -/
  | resetWrite (wr : Writer) (acc : Acc) (v : BitVec 64)
  /-- Writing a bit of MGT_PART_REL releases that partition. (R650) -/
  | mgtPartRel (wr : Writer) (acc : Acc) (v : BitVec 64)
  /-- A POS frame sets the module's chain position and is passed on. (R659) -/
  | posFrame (bytes : List (BitVec 8))
  /-- A chain request answered with identity, versions and phase. (R658) -/
  | ident (bytes : List (BitVec 8))
  /-- A chain request that reads module register words. (R661) -/
  | chainRead (bytes : List (BitVec 8))
  /-- A chain request that writes permitted module registers. (R661) -/
  | chainWrite (bytes : List (BitVec 8))
  /-- The module sends MGT_ALERT to position 0. (R662) -/
  | alert
  /-- While any alert bit is set, ALERT is resent every 10 ms. (R662) -/
  | alertRepeat
  /-- A chain request answered and then followed by a module reset. (R658) -/
  | chainReset (bytes : List (BitVec 8))
  /-- A frame not for this module alone is forwarded cut through. (R660) -/
  | chainFrameForward (bytes : List (BitVec 8)) (down : Bool)
  /-- Each ms all sensor registers are written and MGT_TLM_SEQ advances. (R654) -/
  | telemetrySnapshot (readings : List (Nat × Int))
  /-- Each 100 µs temperatures are sampled; three at trip raise THERMAL. (R653) -/
  | tempSample (readings : List (Nat × Int))
  /-- A rail outside ±5 % for 20 µs raises a RAIL Crimson error. (R652) -/
  | railOutOfBand (r : Nat)
  /-- Takes update ownership and erases the target slot. (R665) -/
  | fwOpen (wr : Writer) (acc : Acc) (v : BitVec 64)
  /-- Programs the staging buffer into the target slot. (R665) -/
  | fwWrite (wr : Writer) (acc : Acc) (v : BitVec 64)
  /-- Checks the target slot's object. (R665) -/
  | fwVerify (wr : Writer) (acc : Acc) (v : BitVec 64)
  /-- Copies the preferred slot's object to the target slot and verifies it. (R665) -/
  | fwCopy (wr : Writer) (acc : Acc) (v : BitVec 64)
  /-- Ends update ownership. (R665) -/
  | fwClose (wr : Writer) (acc : Acc) (v : BitVec 64)
  /-- A firmware operation completes, sets RESULT and raises FW_DONE. (R665) -/
  | fwOpDone
  /-- A host TLP reads or writes tile SRAM or HBM through BAR2 or BAR4, with ECC correction, poison, partial-write merge and Jet behaviour applying. (R682) -/
  | hostBarAccess (fn : Nat) (bar : Nat) (off : Nat) (write : Bool) (bytes : List (BitVec 8)) (n : Nat)
  /-- A channel set in power-down or self-refresh finishes its exit and serves the requests queued at its controllers. (R551) -/
  | channelSetExitComplete (cs : Nat)
  /-- The 25 ms exit from Jet completes, rails, memory, links and time are restored, and every partition counts as never released. (R556) -/
  | jetExitComplete
  deriving DecidableEq, Repr

end Sys2Proof
end

