-- ==== Sys2Proof/Decode.lean ====
section
/-! DEFINITION. The command a word of spec/opcode_table.json spells. The table gives none of its rows any bits
(every row has no fixed part and no field), so no word spells a command. The decoding of a herder's instruction
words (08 R267) is the herder's own and stands in Machine/Herder.lean. -/
namespace Sys2Proof

def decodeTableWord (_nbits _w : Nat) : Option Instr := none

end Sys2Proof
end

