-- ==== Sys2Proof/Config.lean ====
section
/-! DEFINITION. What an implementation fixes and what the spec leaves open: the free values (constants with no
body, so nothing can be proved of them) and the fixed readings of stored or fused values. -/
namespace Sys2Proof.Config

/-- A free 512-bit value: the random bits of a drawn key (16 R636). -/
opaque freeKey : Nat → BitVec 512

/-- A free word: nonces and signatures of the security engine (16 R632 to R634). -/
opaque freeWord : Nat → BitVec 64

/-- The word that an element takes when a scaled partial is finer than its quire's lowest bit (04 R126 says that none
is): a function of the old word and the partial in units of 2^-240. -/
opaque fineSum : Nat → Int → BitVec 256

/-- The core intermediate of an element function (06 R190): function code and P32 input. -/
opaque sfuCore : Nat → BitVec 32 → BitVec 34

/-- The certificate chain of a slot: slot 0 the device identity, slot 1 the alias derived from measurements 1 to 3
(16 R633). -/
opaque certChain : Nat → List (BitVec 8) → List (BitVec 8)

/-- The column of a data bit of an SRAM word in the check matrix of its code (10 R374 gives its weight alone). -/
opaque hsiaoColumn : Nat → BitVec 8

end Sys2Proof.Config
end

