-- ==== Sys2Proof/Machine/Code.lean ====
section
/-! DEFINITION. The codes of the hardware: Reed–Solomon over GF(2^m) for the links (12 R447) and for HBM blocks
(10 R377), and the Hsiao SECDED code of tile SRAM (10 R374). Field elements are numbers below 2^m. -/
namespace Sys2Proof.Machine

/-! Reed–Solomon codes -/

/-- A code of n symbols of m bits, k of them message, that corrects `fix` symbols; the field polynomial `poly`
has x^m as its top term, α is x, and the generator polynomial has the roots α^0 to α^(n-k-1). -/
structure RsCode where
  m : Nat
  poly : Nat
  n : Nat
  k : Nat
  fix : Nat
  deriving DecidableEq, Repr

/-- RS(544,514) over GF(2^10) (12 R447). PRESUMED: the field polynomial x^10 + x^3 + 1, the roots α^0 to α^29 and
the first symbol as the highest power, as IEEE 802.3 clause 91 has them (log 96). -/
def linkCode : RsCode := { m := 10, poly := 0x409, n := 544, k := 514, fix := 15 }

/-- RS(72,64) over GF(2^8) of an HBM block; 2 symbols are corrected (10 R377). -/
def hbmCode : RsCode := { m := 8, poly := 0x11D, n := 72, k := 64, fix := 2 }

/-- Check symbols of a codeword. -/
def RsCode.checks (c : RsCode) : Nat := c.n - c.k

/-- α times an element. -/
def RsCode.twice (c : RsCode) (a : Nat) : Nat := if (2 * a).testBit c.m then (2 * a) ^^^ c.poly else 2 * a

/-- The product of a and the low i bits of b, highest first. -/
def RsCode.mulBits (c : RsCode) (a : Nat) : Nat → Nat → Nat
  | 0, _ => 0
  | i + 1, b => c.twice (c.mulBits a i (b / 2)) ^^^ (if b % 2 = 1 then a else 0)

def RsCode.mul (c : RsCode) (a b : Nat) : Nat := c.mulBits a c.m b

/-- The inverse of a non-zero element: its power 2^m - 2. -/
def RsCode.inv (c : RsCode) (a : Nat) : Nat :=
  ((List.range (c.m - 1)).foldl (fun (r : Nat × Nat) _ =>
    let q := c.mul r.1 r.1
    (q, c.mul r.2 q)) (a, 1)).2

/-- The first n powers of α from an element on. -/
def RsCode.powers (c : RsCode) (a : Nat) : Nat → List Nat
  | 0 => []
  | n + 1 => a :: c.powers (c.twice a) n

/-- A polynomial, highest power first, at a point. -/
def RsCode.eval (c : RsCode) (x : Nat) (p : List Nat) : Nat := p.foldl (fun a b => c.mul a x ^^^ b) 0

/-- The sum of two polynomials, lowest power first. -/
def polyAdd : List Nat → List Nat → List Nat
  | [], q => q
  | p, [] => p
  | a :: p, b :: q => (a ^^^ b) :: polyAdd p q

/-- The generator polynomial, lowest power first, without its top term. -/
def RsCode.gen (c : RsCode) : List Nat :=
  ((c.powers 1 c.checks).foldl (fun g r => polyAdd (0 :: g) (g.map (c.mul r))) [1]).take c.checks

/-- Symbols as one number, the first in the list lowest. -/
def packSyms (m : Nat) (p : List Nat) : Nat := p.foldr (fun a n => a + n <<< m) 0

/-- The generator times 1, α, α^2, … as packed numbers. -/
def RsCode.taps (c : RsCode) : List Nat :=
  let g := c.gen
  (c.powers 1 c.m).map (fun x => packSyms c.m (g.map (c.mul x)))

/-- The multiple of the generator by an element, from the taps of its bits. -/
def tapSum : List Nat → Nat → Nat
  | [], _ => 0
  | t :: ts, f => (if f % 2 = 1 then t else 0) ^^^ tapSum ts (f / 2)

/-- The check symbols of message symbols, packed, highest power highest: the division by the generator. -/
def RsCode.divide (c : RsCode) (msg : List Nat) : Nat :=
  let ts := c.taps
  let top := c.m * (c.checks - 1)
  msg.foldl (fun r d => ((r % 2 ^ top) <<< c.m) ^^^ tapSum ts ((r >>> top) ^^^ d)) 0

/-- A packed remainder as symbols, highest power first. -/
def RsCode.unpack (c : RsCode) (r : Nat) : List Nat :=
  ((List.range c.checks).map (fun i => (r >>> (c.m * i)) % 2 ^ c.m)).reverse

/-- The codeword of a message, first symbol first. -/
def RsCode.encode (c : RsCode) (msg : List Nat) : List Nat := msg ++ c.unpack (c.divide msg)

/-- The remainder of a received word by the generator, highest power first; zero exactly for a codeword. -/
def RsCode.remainder (c : RsCode) (word : List Nat) : List Nat :=
  List.zipWith (fun a b => a ^^^ b) (c.unpack (c.divide (word.take c.k))) (word.drop c.k)

/-- A word of n symbols that the generator divides. -/
def RsCode.isCodeword (c : RsCode) (word : List Nat) : Bool :=
  word.length == c.n && word.all (· < 2 ^ c.m) && (c.remainder word).all (· == 0)

/-- The search for the shortest recurrence of the syndromes. -/
structure Recur where
  loc : List Nat := [1]
  prev : List Nat := [1]
  len : Nat := 0
  gap : Nat := 1
  last : Nat := 1

/-- One step of the search, at syndrome i. -/
def Recur.step (c : RsCode) (syn : List Nat) (r : Recur) (i : Nat) : Recur :=
  let d := (List.range (r.len + 1)).foldl (fun a j => a ^^^ c.mul (r.loc.getD j 0) (syn.getD (i - j) 0)) 0
  if d = 0 then { r with gap := r.gap + 1 }
  else
    let f := c.mul d (c.inv r.last)
    let loc := polyAdd r.loc (List.replicate r.gap 0 ++ r.prev.map (c.mul f))
    if 2 * r.len ≤ i then { loc := loc, prev := r.loc, len := i + 1 - r.len, gap := 1, last := d }
    else { r with loc := loc, gap := r.gap + 1 }

/-- The value of the error whose locator is X, given the inverse of X. -/
def RsCode.errorAt (c : RsCode) (loc omega : List Nat) (x xi : Nat) : Nat :=
  let deriv := loc.zipIdx.drop 1 |>.map (fun ai => if ai.2 % 2 = 1 then ai.1 else 0)
  c.mul x (c.mul (c.eval xi omega.reverse) (c.inv (c.eval xi deriv.reverse)))

/-- The word that the search for errors leads to, from the syndromes of a word. -/
def RsCode.repair (c : RsCode) (word syn : List Nat) : List Nat :=
  let r := (List.range c.checks).foldl (Recur.step c syn) {}
  let omega := (List.range c.checks).map (fun i =>
    (List.range (i + 1)).foldl (fun a j => a ^^^ c.mul (r.loc.getD j 0) (syn.getD (i - j) 0)) 0)
  -- the powers of α by symbol, first symbol first, and their inverses
  let xs := (c.powers 1 c.n).reverse
  let invs := ((c.powers 1 (2 ^ c.m)).drop (2 ^ c.m - c.n)).take c.n
  ((word.zip xs).zip invs).map (fun axi =>
    if c.eval axi.2 r.loc.reverse = 0 then axi.1.1 ^^^ c.errorAt r.loc omega axi.1.2 axi.2 else axi.1.1)

/-- The symbols, by index, in which two words differ. -/
def diffAt (a b : List Nat) : List Nat :=
  (a.zip b).zipIdx.filterMap (fun x => if x.1.1 = x.1.2 then none else some x.2)

/-- What a received word decodes to: the codeword within `fix` symbols of it and the indexes of the corrected symbols,
or none. The word found is checked against the code, so nothing else is ever answered. -/
def RsCode.decode (c : RsCode) (word : List Nat) : Option (List Nat × List Nat) :=
  if c.isCodeword word then some (word, [])
  else
    let rem := c.remainder word
    let fixed := c.repair word ((c.powers 1 c.checks).map (fun x => c.eval x rem))
    let at_ := diffAt word fixed
    if c.isCodeword fixed && decide (at_.length ≤ c.fix) && decide (word.length = c.n) then some (fixed, at_) else none

/-! The code of SRAM words (10 R374) -/

/-- Ones of a byte. -/
def ones8 (b : BitVec 8) : Nat := ((List.range 8).filter (fun i => bit b i)).length

/-- Columns that make a Hsiao code of 64 data bits: odd, no two alike, none of a single bit. -/
def hsiaoOk (cs : List (BitVec 8)) : Bool :=
  cs.length == 64 && cs.all (fun b => ones8 b % 2 == 1 && decide (1 < ones8 b)) && decide cs.Nodup

/-- The first columns of weight 3, then of weight 5, in rising order. -/
def hsiaoPlain : List (BitVec 8) :=
  let all := (List.range 256).map (BitVec.ofNat 8)
  (all.filter (fun b => ones8 b == 3) ++ all.filter (fun b => ones8 b == 5)).take 64

/-- The columns of data bits 0 to 63. The rule leaves them open but for what `hsiaoOk` says; a free table that
breaks it stands for the plain one. -/
def hsiaoColumns : List (BitVec 8) :=
  let cs := (List.range 64).map Config.hsiaoColumn
  if hsiaoOk cs then cs else hsiaoPlain

/-- The column of a bit of the 72-bit codeword: check bit 64 + c has the column of bit c. -/
def hsiaoColumn (i : Nat) : BitVec 8 := if i < 64 then hsiaoColumns.getD i 0 else BitVec.ofNat 8 (1 <<< (i - 64))

/-- The check bits of a data word. -/
def checkBits (d : BitVec 64) : BitVec 8 :=
  (List.range 64).foldl (fun a i => if bit d i then a ^^^ hsiaoColumn i else a) 0

/-- The syndrome of bits in error. -/
def errorSyndrome (bits : List Nat) : BitVec 8 := bits.foldl (fun a i => a ^^^ hsiaoColumn i) 0

/-- What a decoder says of a word or block (10 R374, R378). -/
inductive EccRead where
  | clean | corrected | poisoned | uncorrectable
  deriving DecidableEq, Repr

def EccRead.ok : EccRead → Bool
  | .clean | .corrected => true
  | _ => false

/-- The class of a syndrome (10 R374). -/
def syndromeClass (y : BitVec 8) : EccRead :=
  if y = 0 then .clean
  else if (List.range 72).any (fun i => hsiaoColumn i == y) then .corrected
  else if y = 0xFF then .poisoned
  else .uncorrectable

/-- The pattern that poisons an HBM block: 0x5A in each of its 8 check symbols (10 R378). -/
def hbmPoisonPat : BitVec 64 := 0x5A5A5A5A5A5A5A5A

/-- The class of a block whose check symbols differ from the right ones by a pattern: the poison pattern is
compared first (10 R378). -/
def blockClass (d : BitVec 64) : EccRead :=
  if d = 0 then .clean
  else if d = hbmPoisonPat then .poisoned
  else if (hbmCode.decode (List.replicate 64 0 ++ (toBytesLE 8 d.toNat).map BitVec.toNat)).isSome then .corrected
  else .uncorrectable

end Sys2Proof.Machine
end

