-- ==== Sys2Proof/Machine/Crypto.lean ====
section
/-! DEFINITION. The codes and ciphers the spec names by their public standards: CRC-64/XZ (R519), CRC-32 (R456),
CRC-16 (R657), Philox-4×32-10 (R211), SHA-384 and ECDSA P-384 (R626 to R635), AES-XTS-256 (R382). -/
namespace Sys2Proof.Machine

/-! CRCs -/

/-- One bit of a reflected CRC. -/
def crcRefBit (poly c : Nat) : Nat := if c % 2 = 1 then (c >>> 1) ^^^ poly else c >>> 1

def iter {α : Type} (f : α → α) : Nat → α → α
  | 0, a => a
  | n + 1, a => iter f n (f a)

/-- A reflected CRC over bytes. -/
def crcRef (poly init : Nat) (bs : List Byte) : Nat :=
  bs.foldl (fun c b => iter (crcRefBit poly) 8 (c ^^^ b.toNat)) init

/-- The reversal of an n-bit number. -/
def bitRev (n v : Nat) : Nat := (List.range n).foldl (fun a i => a * 2 + (v >>> i) % 2) 0

/-- CRC-64/XZ (R519). -/
def crc64 (bs : List Byte) : Nat :=
  crcRef (bitRev 64 0x42F0E1EBA9EA3693) (2 ^ 64 - 1) bs ^^^ (2 ^ 64 - 1)

/-- CRC-32 of a flit (R456). -/
def crc32 (bs : List Byte) : Nat :=
  crcRef (bitRev 32 0x04C11DB7) (2 ^ 32 - 1) bs ^^^ (2 ^ 32 - 1)

/-- CRC-16 of a management frame (R657): polynomial 0x1021, initial 0xFFFF, no reflection, no final XOR. -/
def crc16 (bs : List Byte) : Nat :=
  bs.foldl (fun c b => iter (fun c => if c ≥ 0x8000 then ((c * 2) % 0x10000) ^^^ 0x1021 else c * 2) 8
    (c ^^^ (b.toNat * 256))) 0xFFFF

/-! Philox (R211) -/

/-- One round of Philox on (c0, c1, c2, c3, k0, k1). -/
def philoxRound : Nat × Nat × Nat × Nat × Nat × Nat → Nat × Nat × Nat × Nat × Nat × Nat
  | (c0, c1, c2, c3, k0, k1) =>
    let p0 := 0xD2511F53 * c0
    let p1 := 0xCD9E8D57 * c2
    ((p1 >>> 32) ^^^ c1 ^^^ k0, p1 % 2 ^ 32, (p0 >>> 32) ^^^ c3 ^^^ k1, p0 % 2 ^ 32,
      (k0 + 0x9E3779B9) % 2 ^ 32, (k1 + 0xBB67AE85) % 2 ^ 32)

/-- Output word x0 of Philox-4×32-10. -/
def philox (c0 c1 c2 c3 k0 k1 : Nat) : Nat :=
  (iter philoxRound 10 (c0 % 2 ^ 32, c1 % 2 ^ 32, c2 % 2 ^ 32, c3 % 2 ^ 32, k0 % 2 ^ 32, k1 % 2 ^ 32)).1

/-! SHA-384 (FIPS 180-4). Its constants are computed as that standard defines them: the first 64 bits behind the binary
point of roots of primes. -/

/-- Lists cut into runs of n, with at most `fuel` runs. -/
def chunks {α : Type} (n : Nat) : Nat → List α → List (List α)
  | 0, _ => []
  | f + 1, l => match l with
    | [] => []
    | _ => l.take n :: chunks n f (l.drop n)

/-- The first n primes of the candidates from p on, tried against the primes found so far. -/
def primesFrom (found : List Nat) : Nat → Nat → List Nat
  | _, 0 => found
  | p, fuel + 1 => primesFrom (if found.all (fun q => p % q ≠ 0) then found ++ [p] else found) (p + 1) fuel

/-- The 80 primes below 410. -/
def shaPrimes : List Nat := primesFrom [] 2 408

/-- The greatest r whose power k is at most n, found bit by bit from bit b - 1 down. -/
def rootBits (k n : Nat) : Nat → Nat → Nat
  | 0, r => r
  | b + 1, r => rootBits k n b (if (r + 2 ^ b) ^ k ≤ n then r + 2 ^ b else r)

/-- The first 64 bits behind the binary point of the k-th root of p. -/
def rootFraction (k p : Nat) : BitVec 64 := BitVec.ofNat 64 (rootBits k (p * 2 ^ (64 * k)) 70 0)

/-- One constant per step: cube roots of the first 80 primes. -/
def shaSteps : List (BitVec 64) := shaPrimes.map (rootFraction 3)

/-- The eight chained words before the first block: square roots of the ninth to the sixteenth prime. -/
def shaStart : List (BitVec 64) := ((shaPrimes.drop 8).take 8).map (rootFraction 2)

/-- The exclusive or of a word turned right by each of some distances. -/
def turns (ds : List Nat) (x : BitVec 64) : BitVec 64 := ds.foldl (fun y d => y ^^^ x.rotateRight d) 0

/-- The compression of one block: the chained words as they are worked on, and the next sixteen message words. -/
structure ShaRun where
  vars : List (BitVec 64)
  ahead : List (BitVec 64)

/-- One step: the oldest message word is used up, and the word sixteen places on is formed. -/
def ShaRun.step (r : ShaRun) (k : BitVec 64) : ShaRun :=
  let v (i : Nat) := r.vars.getD i 0
  let m (i : Nat) := r.ahead.getD i 0
  let choose := v 6 ^^^ (v 4 &&& (v 5 ^^^ v 6))
  let most := (v 0 &&& (v 1 ||| v 2)) ||| (v 1 &&& v 2)
  let mixed := m 0 + k + v 7 + choose + turns [14, 18, 41] (v 4)
  { vars := (mixed + most + turns [28, 34, 39] (v 0)) :: (r.vars.take 7).modify 3 (· + mixed)
    ahead := r.ahead.drop 1
      ++ [m 0 + m 9 + (turns [1, 8] (m 1) ^^^ m 1 >>> 7) + (turns [19, 61] (m 14) ^^^ m 14 >>> 6)] }

/-- The chained words after one more block of 128 bytes. -/
def shaCompress (chained : List (BitVec 64)) (block : List Byte) : List (BitVec 64) :=
  let words := (chunks 8 16 block).map (fun b => BitVec.ofNat 64 (ofBytesBE b))
  List.zipWith (· + ·) chained (shaSteps.foldl ShaRun.step { vars := chained, ahead := words }).vars

/-- The message followed by a 1 bit, zeros, and its length in bits, to whole blocks of 128 bytes. -/
def shaPadded (msg : List Byte) : List Byte :=
  let used := (msg.length + 17) % 128
  msg ++ 0x80 :: List.replicate ((128 - used) % 128) 0 ++ toBytesBE 16 (8 * msg.length)

/-- SHA-384 of a byte string, as 48 bytes. -/
def sha384 (msg : List Byte) : List Byte :=
  let padded := shaPadded msg
  let out := (chunks 128 (padded.length / 128) padded).foldl shaCompress shaStart
  (out.take 6).flatMap (fun w => toBytesBE 8 w.toNat)

/-! AES-256 and XTS -/

/-- Multiplication by x in GF(2^8) with the AES polynomial. -/
def gfX (a : Nat) : Nat := if a ≥ 128 then ((a * 2) % 256) ^^^ 0x1B else a * 2

/-- Multiplication in GF(2^8). -/
def gfMul (a b : Nat) : Nat :=
  ((List.range 8).foldl (fun (p : Nat × Nat) i =>
    (if (b >>> i) % 2 = 1 then p.1 ^^^ p.2 else p.1, gfX p.2)) (0, a)).1

/-- The inverse in GF(2^8), a^254; 0 for 0. -/
def gfInv (a : Nat) : Nat :=
  let a2 := gfMul a a
  let a3 := gfMul a2 a
  let a6 := gfMul a3 a3
  let a12 := gfMul a6 a6
  let a15 := gfMul a12 a3
  let a30 := gfMul a15 a15
  let a60 := gfMul a30 a30
  let a120 := gfMul a60 a60
  let a126 := gfMul a120 a6
  let a127 := gfMul a126 a
  gfMul a127 a127

def aesSub (a : Nat) : Nat :=
  let b := gfInv a
  let rot (k : Nat) := ((b <<< k) ||| (b >>> (8 - k))) % 256
  b ^^^ rot 1 ^^^ rot 2 ^^^ rot 3 ^^^ rot 4 ^^^ 0x63

def aesInvSub (s : Nat) : Nat :=
  let rot (k : Nat) := ((s <<< k) ||| (s >>> (8 - k))) % 256
  gfInv (rot 1 ^^^ rot 3 ^^^ rot 6 ^^^ 0x05)

def xorL (a b : List Nat) : List Nat := (a.zip b).map (fun p => p.1 ^^^ p.2)

/-- The AES-256 key schedule: words newest first, extended by one. -/
def aesKeyStep (i : Nat) (ws : List (List Nat)) : List (List Nat) :=
  let prev := ws.getD 0 []
  let t := if i % 8 = 0 then
      let r := (prev.drop 1 ++ prev.take 1).map aesSub
      xorL r [iter gfX (i / 8 - 1) 1, 0, 0, 0]
    else if i % 8 = 4 then prev.map aesSub
    else prev
  xorL (ws.getD 7 []) t :: ws

/-- The 15 round keys of a 32-byte key. -/
def aesKeys (key : List Nat) : List (List Nat) :=
  let w0 := (chunks 4 8 key).reverse
  let ws := ((List.range 52).foldl (fun w i => aesKeyStep (i + 8) w) w0).reverse
  (chunks 4 15 ws).map List.flatten

def aesShift (s : List Nat) : List Nat :=
  (List.range 16).map (fun i => s.getD ((i + 4 * (i % 4)) % 16) 0)

def aesInvShift (s : List Nat) : List Nat :=
  (List.range 16).map (fun i => s.getD ((i + 16 - 4 * (i % 4)) % 16) 0)

/-- One column times the circulant matrix with first row m. -/
def aesCol (m : List Nat) (c : List Nat) : List Nat :=
  (List.range 4).map (fun r =>
    (List.range 4).foldl (fun a j => a ^^^ gfMul (m.getD ((j + 4 - r) % 4) 0) (c.getD j 0)) 0)

def aesMix (m : List Nat) (s : List Nat) : List Nat := (chunks 4 4 s).flatMap (aesCol m)

/-- One block encrypted under the round keys. -/
def aesEnc (ks : List (List Nat)) (b : List Nat) : List Nat :=
  let s := xorL b (ks.getD 0 [])
  let s := (List.range 13).foldl (fun s i =>
    xorL (aesMix [2, 3, 1, 1] (aesShift (s.map aesSub))) (ks.getD (i + 1) [])) s
  xorL (aesShift (s.map aesSub)) (ks.getD 14 [])

/-- One block decrypted under the round keys. -/
def aesDec (ks : List (List Nat)) (b : List Nat) : List Nat :=
  let s := xorL b (ks.getD 14 [])
  let s := (List.range 13).foldl (fun s i =>
    aesMix [14, 11, 13, 9] (xorL ((aesInvShift s).map aesInvSub) (ks.getD (13 - i) []))) s
  xorL ((aesInvShift s).map aesInvSub) (ks.getD 0 [])

/-- The tweak times α in GF(2^128) (IEEE 1619), taken little-endian. -/
def xtsAlpha (t : Nat) : Nat :=
  let d := t * 2
  if d ≥ 2 ^ 128 then (d % 2 ^ 128) ^^^ 0x87 else d

/-- XTS over one 64-byte data unit with block function f (R382): key 1 for data, key 2 for the tweak. -/
def xtsUnit (enc : Bool) (key : BitVec 512) (tweak : Nat) (d : List Byte) : List Byte :=
  let kb := (toBytesLE 64 key.toNat).map BitVec.toNat
  let k1 := aesKeys (kb.take 32)
  let k2 := aesKeys (kb.drop 32)
  let t0 := ofBytesLE ((aesEnc k2 ((toBytesLE 16 tweak).map BitVec.toNat)).map (BitVec.ofNat 8))
  let blocks := chunks 16 4 (d.map BitVec.toNat)
  let step (p : Nat × List Nat) (b : List Nat) : Nat × List Nat :=
    let tb := (toBytesLE 16 p.1).map BitVec.toNat
    let x := xorL b tb
    let y := if enc then aesEnc k1 x else aesDec k1 x
    (xtsAlpha p.1, p.2 ++ xorL y tb)
  ((blocks.foldl step (t0, [])).2).map (BitVec.ofNat 8)

/-! ECDSA P-384 -/

def p384P : Nat := 2 ^ 384 - 2 ^ 128 - 2 ^ 96 + 2 ^ 32 - 1
def p384N : Nat :=
  0xffffffffffffffffffffffffffffffffffffffffffffffffc7634d81f4372ddf581a0db248b0a77aecec196accc52973
def p384B : Nat :=
  0xb3312fa7e23ee7e4988e056be3f82d19181d9c6efe8141120314088f5013875ac656398d8a2ed19d2a85c8edd3ec2aef
def p384G : Nat × Nat :=
  (0xaa87ca22be8b05378eb1c71ef320ad746e1d3b628ba79b9859f741e082542a385502f25dbf55296c3a545e3872760ab7,
   0x3617de4a96262c6f5d9e98bf9292dc29f8f41dbd289a147ce9da3113b5f0b8c00a60b1ce1d7e819d7a431d7c90ea0e5f)

/-- b^e mod m by squaring, over the 384 bits of e from the top. -/
def powMod (m b e : Nat) : Nat :=
  (List.range 384).foldl (fun a i =>
    let a := a * a % m
    if e.testBit (383 - i) then a * b % m else a) 1

def invMod (m a : Nat) : Nat := powMod m (a % m) (m - 2)

/-- The sum of two points of the curve; none is the point at infinity. -/
def p384Add : Option (Nat × Nat) → Option (Nat × Nat) → Option (Nat × Nat)
  | none, q => q
  | p, none => p
  | some (x1, y1), some (x2, y2) =>
    if x1 = x2 ∧ (y1 + y2) % p384P = 0 then none
    else
      let l := if x1 = x2 then (3 * x1 * x1 + (p384P - 3)) * invMod p384P (2 * y1) % p384P
        else (y2 + p384P - y1) * invMod p384P (x2 + p384P - x1) % p384P
      let x3 := (l * l + 2 * p384P - x1 - x2) % p384P
      some (x3, (l * (x1 + p384P - x3) + p384P - y1) % p384P)

/-- Doubles a point in Jacobian coordinates (x / z^2, y / z^3); z = 0 is the point at infinity. -/
def p384JacDouble : Nat × Nat × Nat → Nat × Nat × Nat
  | (x, y, z) =>
    let zz := z * z % p384P
    let m := 3 * (x + (p384P - zz)) * (x + zz) % p384P
    let yy := y * y % p384P
    let v := 4 * x * yy % p384P
    let x3 := (m * m + 2 * (p384P - v)) % p384P
    (x3, (m * (v + (p384P - x3)) + 8 * yy * (p384P - yy)) % p384P, 2 * y * z % p384P)

/-- Adds the point q to one in Jacobian coordinates. -/
def p384JacAdd (q : Nat × Nat) : Nat × Nat × Nat → Nat × Nat × Nat
  | (x, y, z) =>
    if z = 0 then (q.1, q.2, 1)
    else
      let zz := z * z % p384P
      let h := (q.1 * zz + (p384P - x)) % p384P
      let r := (q.2 * (zz * z % p384P) + (p384P - y)) % p384P
      if h = 0 then (if r = 0 then p384JacDouble (x, y, z) else (1, 1, 0))
      else
        let hh := h * h % p384P
        let v := x * hh % p384P
        let h3 := hh * h % p384P
        let x3 := (r * r + (p384P - h3) + 2 * (p384P - v)) % p384P
        (x3, (r * (v + (p384P - x3)) + y * (p384P - h3)) % p384P, z * h % p384P)

def p384Mul (k : Nat) (p : Nat × Nat) : Option (Nat × Nat) :=
  let (x, y, z) := (List.range 384).foldl (fun a i =>
    let a := p384JacDouble a
    if k.testBit (383 - i) then p384JacAdd p a else a) (1, 1, 0)
  if z = 0 then none
  else
    let w := invMod p384P z
    some (x * (w * w % p384P) % p384P, y * (w * w % p384P * w % p384P) % p384P)

/-- ECDSA P-384 verification of (r, s) over a SHA-384 digest. -/
def ecdsaVerify (pub : Nat × Nat) (digest : Nat) (r s : Nat) : Bool :=
  let (x, y) := pub
  let onCurve := decide (x < p384P) && decide (y < p384P)
    && y * y % p384P == (x * x * x + (p384P - 3) * x + p384B) % p384P
  let inRange := decide (0 < r ∧ r < p384N ∧ 0 < s ∧ s < p384N)
  onCurve && inRange &&
    (let w := invMod p384N s
     match p384Add (p384Mul (digest * w % p384N) p384G) (p384Mul (r * w % p384N) pub) with
     | some (x1, _) => x1 % p384N == r
     | none => false)

end Sys2Proof.Machine
end

