-- ==== Sys2Proof/Machine/RegTable.lean ====
section
/-! DEFINITION. The register map: where each register lies, its fields and their types, its reset value and
its reserved encodings (00 R11 to R14, and the Registers section of each chapter of spec/). -/
namespace Sys2Proof.Machine

/-- Field types (00 R12). -/
inductive FTy where
  | ro | rw | wo | w1c | wl | cw
  deriving DecidableEq, Repr

/-- Bits [hi:lo] of a register and their type. Bits of no field are reserved (R13). -/
structure Field where
  hi : Nat
  lo : Nat
  ty : FTy
  deriving DecidableEq, Repr

/-- One register. `bad` lists reserved encodings: field [hi:lo], lowest and highest reserved value. -/
structure Reg where
  fields : List Field
  reset : Nat := 0
  bad : List (Nat × Nat × Nat × Nat) := []
  /-- The register is a complement twin (R14). -/
  isTwin : Bool := false
  /-- The register is staged: writes land in its shadow (16 R621). -/
  staged : Bool := false
  deriving DecidableEq, Repr

/-! Addresses (10 R370, 16 R603, 11 R435) -/

def tilePage (t off : Nat) : Nat := 0xF00100000000 + t * 0x1000 + off
def partPage (p off : Nat) : Nat := 0xF00200000000 + p * 0x10000 + off
def ringReg (g off : Nat) : Nat := partPage (g / 64) (0x1000 + (g % 64) * 0x40 + off)
def linkReg (k off : Nat) : Nat := 0xF00000020000 + k * 0x100 + off
def routeAddr (d : Nat) : Nat := 0xF00000100000 + 8 * d

def rMgtPartId : Nat := 0xF00000000000
def rFeSitStatus : Nat := 0xF00000010000
def rEnumCfg : Nat := 0xF00000030000
def rEnumStat : Nat := 0xF00000030008
def rEnumXid : Nat := 0xF00000030010
def rLnkCfg : Nat := 0xF00000030018
def rMboxH0 : Nat := 0xF00000030040
def rMboxH1 : Nat := 0xF00000030048
def rMboxData : Nat := 0xF00000030050
def rMboxRdata : Nat := 0xF00000030058
def rMboxStat : Nat := 0xF00000030060
def rTimCfg : Nat := 0xF00000040000
def rTimStatus : Nat := 0xF00000040008
def rTimNow : Nat := 0xF00000040010
def rTimFrac : Nat := 0xF00000040018
def rPwrLtr : Nat := 0xF00000050000
def rPwrJet : Nat := 0xF00000050010
def rPwrStatus : Nat := 0xF00000050020
def rPwrGovCnt : Nat := 0xF00000050028
def rRelCfg : Nat := 0xF00000060000
def rRelLogStat : Nat := 0xF00000060008
def rRelLogSel : Nat := 0xF00000060010
def rRelLogData (w : Nat) : Nat := 0xF00000060018 + 8 * w
def rRelCrimson (w : Nat) : Nat := 0xF00000060040 + 8 * w
def rRelCrimsonCtl : Nat := 0xF00000060060
def rRelSpare (e : Bool) : Nat := if e then 0xF00000060070 else 0xF00000060068
def rRelSpareCtl : Nat := 0xF00000060078
def rRelInjCtl : Nat := 0xF00000060080
def rRelInjAddr : Nat := 0xF00000060088
def rSecCfg : Nat := 0xF00000070000
def rSecLock : Nat := 0xF00000070008
def rSecBoot : Nat := 0xF00000070010
def rSecMap (p : Nat) : Nat := 0xF00000070100 + 8 * p
def rSecMapCommit : Nat := 0xF00000070180
def rMgtSerial : Nat := 0xF00000080000
def rMgtFwVer : Nat := 0xF00000080008
def rMgtBootStat : Nat := 0xF00000080010
def rMgtBootCfg : Nat := 0xF00000080018
def rMgtBootCtl : Nat := 0xF00000080020
def rMgtPartRel : Nat := 0xF00000080028
def rMgtPos : Nat := 0xF00000080030
def rMgtAlert : Nat := 0xF00000080038
def rMgtTlmSeq : Nat := 0xF00000080040
def rMgtFwCtl : Nat := 0xF00000080048
def rMgtFwStat : Nat := 0xF00000080050
def rMgtSens (n : Nat) : Nat := 0xF00000082000 + 8 * n

/-! Tile page offsets -/

def oNumFlags : Nat := 0x0040
def oChainStatus : Nat := 0x0048
def oTilTime : Nat := 0x0050
def oPackCfg : Nat := 0x0100
def oPackStatus : Nat := 0x0108
def oStallCnt (k : Nat) : Nat := 0x0110 + 8 * k
def oAccStatus : Nat := 0x0130
def oTruncCnt : Nat := 0x0138
def oQntCfg : Nat := 0x0200
def oDriftLog : Nat := 0x0208
def oDriftCnt : Nat := 0x0210
def oSclCommit : Nat := 0x0218
def oSfuStatus : Nat := 0x0300
def oSfuRowCnt : Nat := 0x0308
def oSfuSmpCnt : Nat := 0x0310
def oScl (k n : Nat) : Nat := 0x0400 + k * 0x80 + n * 0x10
def oHrdStatus : Nat := 0x0600
def oHrdExc : Nat := 0x0608
def oHrdExcPc : Nat := 0x0610
def oHrdExcInfo : Nat := 0x0618
def oHqStatus : Nat := 0x0620
def oQcfg : Nat := 0x0700
def oRtvStatus : Nat := 0x0708
def oRtvFault : Nat := 0x0710
def oRtvFaultVa : Nat := 0x0718
def oRtvCtl : Nat := 0x0720
def oRtvDlCnt : Nat := 0x0728
def oRtvStallCnt : Nat := 0x0730
def oDigCfg : Nat := 0x0800
def oDigStat : Nat := 0x0808
def oTileCnt : Nat := 0x0900

/-! Partition page offsets (16 R606) -/

def oPartLock : Nat := 0x0000
def oAdmit : Nat := 0x0008
def oViol : Nat := 0x0010
def oPmr (w : Nat) : Nat := 0x0040 + 8 * w
def oPmrExt (w : Nat) : Nat := 0x0070 + 8 * w
def oPmrCtl : Nat := 0x00A0
def oPartFlags : Nat := 0x0100
def oPartBw : Nat := 0x0200
def oXltCfg : Nat := 0x0300
def oXltInv : Nat := 0x0308
def oXltFstat : Nat := 0x0310
def oCryptCtl : Nat := 0x0318
def oPartCtl : Nat := 0x0400
def oProgStat : Nat := 0x0408
def oHangLog : Nat := 0x0410
def oLtr : Nat := 0x0500
def oPwrStatus : Nat := 0x0510
def oWakeCnt : Nat := 0x0518
def oRelStatus : Nat := 0x0600
def oRelCnt : Nat := 0x0608

/-! Ring register offsets (11 R435 to R439) -/

def oRingBase : Nat := 0x00
def oRingBaseC : Nat := 0x08
def oRingCbase : Nat := 0x10
def oRingCfg : Nat := 0x18
def oRingGrp : Nat := 0x20
def oRingDb : Nat := 0x28
def oRingDone : Nat := 0x30
def oRingStat : Nat := 0x38

/-- The tile page (10 R370): each chapter's tile registers. -/
def tileReg (off : Nat) : Option Reg :=
  if off = oNumFlags then some { fields := [⟨3, 0, .w1c⟩] }                               -- 02 R64
  else if off = oChainStatus then some { fields := [⟨7, 7, .ro⟩, ⟨5, 0, .ro⟩] }           -- 04 R152
  else if off = oTilTime then some { fields := [⟨63, 0, .ro⟩] }                           -- 13 R525
  else if off = oPackCfg then some { fields := [⟨2, 2, .rw⟩, ⟨1, 0, .rw⟩], reset := 4 }   -- 03 R105
  else if off = oPackStatus then some { fields := [⟨10, 0, .ro⟩] }                        -- 03 R106
  else if 0x110 ≤ off ∧ off ≤ 0x128 then some { fields := [⟨63, 0, .rw⟩] }                -- 03 R107
  else if off = oAccStatus then some { fields := [⟨31, 0, .ro⟩] }                         -- 04 R150
  else if off = oTruncCnt then some { fields := [⟨63, 0, .rw⟩] }                          -- 04 R151
  else if off = oQntCfg then some { fields := [⟨7, 4, .rw⟩, ⟨3, 0, .rw⟩] }                -- 05 R184
  else if off = oDriftLog then
    some { fields := [⟨20, 20, .w1c⟩, ⟨19, 19, .w1c⟩, ⟨18, 0, .ro⟩] }                     -- 05 R185
  else if off = oDriftCnt then some { fields := [⟨63, 0, .rw⟩] }                          -- 05 R186
  else if off = oSclCommit then
    some { fields := [⟨11, 8, .ro⟩, ⟨7, 4, .wo⟩, ⟨3, 0, .wo⟩] }                           -- 16 R645
  else if off = oSfuStatus then
    some { fields := [⟨8, 8, .ro⟩, ⟨2, 0, .w1c⟩] }                                        -- 06 R218
  else if off = oSfuRowCnt ∨ off = oSfuSmpCnt then some { fields := [⟨63, 0, .rw⟩] }      -- 06 R219, R220
  else if 0x400 ≤ off ∧ off < 0x600 then                                                  -- 05 R157
    if off % 16 = 0 then
      some { fields := [⟨63, 0, .cw⟩], reset := 0x4000400040004000, staged := true }
    else some { fields := [⟨63, 0, .cw⟩], reset := 0xBFFFBFFFBFFFBFFF, isTwin := true, staged := true }
  else if off = oHrdStatus then
    some { fields := [⟨47, 16, .ro⟩, ⟨14, 10, .ro⟩, ⟨9, 0, .ro⟩] }                        -- 07 R262
  else if off = oHrdExc then
    some { fields := [⟨47, 16, .ro⟩, ⟨11, 11, .w1c⟩, ⟨10, 0, .ro⟩] }                      -- 07 R263
  else if off = oHrdExcPc then some { fields := [⟨14, 0, .ro⟩] }                          -- 07 R264
  else if off = oHrdExcInfo then some { fields := [⟨63, 0, .ro⟩] }                        -- 07 R265
  else if off = oHqStatus then some { fields := [⟨55, 48, .w1c⟩, ⟨47, 0, .ro⟩] }          -- 07 R266
  else if off = oQcfg then some { fields := [⟨47, 0, .rw⟩], reset := 0xFFFFFFFFFFFF }     -- 09 R361
  else if off = oRtvStatus then
    some { fields := [⟨41, 16, .ro⟩, ⟨8, 0, .ro⟩] }                                       -- 09 R362
  else if off = oRtvFault then
    some { fields := [⟨55, 8, .ro⟩, ⟨4, 4, .ro⟩, ⟨3, 3, .w1c⟩, ⟨2, 0, .ro⟩] }             -- 09 R363
  else if off = oRtvFaultVa then some { fields := [⟨63, 0, .ro⟩] }
  else if off = oRtvCtl then some { fields := [⟨15, 0, .wo⟩] }                            -- 09 R364
  else if off = oRtvDlCnt then some { fields := [⟨63, 0, .rw⟩] }                          -- 09 R365
  else if off = oRtvStallCnt then some { fields := [⟨47, 0, .rw⟩] }                       -- 09 R366
  else if off = oDigCfg then                                                              -- 13 R526
    some { fields := [⟨20, 5, .rw⟩, ⟨4, 1, .rw⟩, ⟨0, 0, .rw⟩], reset := 8,
           bad := [(4, 1, 0, 3), (4, 1, 13, 15)] }
  else if off = oDigStat then some { fields := [⟨63, 0, .ro⟩] }                           -- 13 R527
  else if off = oTileCnt then
    some { fields := [⟨63, 48, .ro⟩, ⟨47, 0, .rw⟩] }                                      -- 15 R602
  else none

/-- The registers of one ring of partition p (11 R435 to R439). -/
def ringRegInfo (p off : Nat) : Option Reg :=
  if off = oRingBase then                                       -- undefined after reset: 0 chosen, LOG2SIZE too
    some { fields := [⟨47, 12, .cw⟩, ⟨3, 0, .cw⟩], bad := [(3, 0, 0, 3)] }
  else if off = oRingBaseC then
    some { fields := [⟨47, 12, .cw⟩, ⟨3, 0, .cw⟩], reset := 0xFFFFFFFFF00F, isTwin := true }
  else if off = oRingCbase then some { fields := [⟨47, 12, .rw⟩] }
  else if off = oRingCfg then
    some { fields := [⟨25, 16, .rw⟩, ⟨4, 2, .rw⟩, ⟨0, 0, .rw⟩], bad := [(25, 16, 1001, 1023)] }
  else if off = oRingGrp then
    some { fields := [⟨21, 0, .rw⟩], reset := 0x2B800 + (3 * p) <<< 5 }
  else if off = oRingDb then some { fields := [⟨63, 0, .wo⟩] }
  else if off = oRingDone then some { fields := [⟨63, 0, .ro⟩] }
  else if off = oRingStat then
    some { fields := [⟨63, 32, .rw⟩, ⟨31, 16, .ro⟩, ⟨3, 2, .ro⟩, ⟨0, 0, .w1c⟩] }
  else none

/-- The partition page (16 R606). -/
def partReg (p off : Nat) : Option Reg :=
  if off = oPartLock then some { fields := [⟨5, 0, .wl⟩] }                                 -- 16 R642
  else if off = oAdmit then
    some { fields := [⟨45, 32, .rw⟩, ⟨31, 18, .rw⟩, ⟨16, 0, .rw⟩], reset := 0x3FFE00000000 + 1 <<< p }
  else if off = oViol then
    some { fields := [⟨51, 51, .w1c⟩, ⟨50, 50, .w1c⟩, ⟨49, 0, .ro⟩] }                      -- 16 R643
  else if 0x40 ≤ off ∧ off ≤ 0x68 then some { fields := [⟨63, 0, .ro⟩] }                   -- 16 R644
  else if 0x70 ≤ off ∧ off ≤ 0x98 then some { fields := [⟨63, 0, .wo⟩] }
  else if off = oPmrCtl then some { fields := [⟨1, 1, .ro⟩, ⟨0, 0, .wo⟩] }
  else if off = oPartFlags then some { fields := [⟨3, 0, .w1c⟩] }                          -- 02 R65
  else if off = oPartBw then                                                               -- 09 R367
    some { fields := [⟨21, 16, .rw⟩, ⟨13, 8, .rw⟩, ⟨5, 0, .rw⟩], reset := 0x080810 }
  else if off = oXltCfg then some { fields := [⟨47, 17, .rw⟩, ⟨0, 0, .rw⟩] }               -- 10 R398
  else if off = oXltInv then some { fields := [⟨1, 1, .ro⟩, ⟨0, 0, .wo⟩] }                 -- 10 R399
  else if off = oXltFstat then
    some { fields := [⟨63, 32, .rw⟩, ⟨26, 16, .ro⟩, ⟨7, 0, .ro⟩], reset := 0x7FF0000 }     -- 10 R400
  else if off = oCryptCtl then some { fields := [⟨0, 0, .rw⟩] }                            -- 10 R401
  else if off = oPartCtl then
    some { fields := [⟨4, 4, .ro⟩, ⟨3, 0, .rw⟩], reset := 2, bad := [(3, 0, 9, 15)] }      -- 11 R440
  else if off = oProgStat then
    some { fields := [⟨33, 33, .w1c⟩, ⟨32, 32, .w1c⟩, ⟨31, 16, .ro⟩, ⟨7, 0, .ro⟩] }        -- 11 R441
  else if off = oHangLog then
    some { fields := [⟨39, 39, .w1c⟩, ⟨38, 38, .w1c⟩, ⟨37, 24, .ro⟩, ⟨5, 0, .ro⟩],
           reset := 0x7FF <<< 24 }
  else if off = oLtr then some { fields := [⟨31, 0, .cw⟩] }                                -- 14 R561
  else if off = oLtr + 8 then some { fields := [⟨31, 0, .cw⟩], reset := 0xFFFFFFFF, isTwin := true }
  else if off = oPwrStatus then some { fields := [⟨47, 0, .ro⟩] }
  else if off = oWakeCnt then some { fields := [⟨63, 0, .rw⟩] }
  else if off = oRelStatus then some { fields := [⟨15, 8, .ro⟩, ⟨2, 0, .ro⟩] }             -- 15 R601
  else if off = oRelCnt then some { fields := [⟨63, 16, .rw⟩] }
  else if 0x1000 ≤ off ∧ off < 0x2000 then ringRegInfo p (off % 0x40)
  else none

/-- The registers of one link (12 R488 to R492). -/
def linkRegInfo (off : Nat) : Option Reg :=
  if off = 0x00 then
    some { fields := [⟨5, 4, .rw⟩, ⟨3, 3, .rw⟩, ⟨2, 2, .wo⟩, ⟨1, 1, .wo⟩, ⟨0, 0, .rw⟩], reset := 1,
           bad := [(5, 4, 2, 3)] }
  else if off = 0x08 then some { fields := [⟨43, 0, .ro⟩] }
  else if off = 0x10 then some { fields := [⟨51, 0, .ro⟩] }
  else if off = 0x18 then some { fields := [⟨49, 0, .ro⟩] }
  else if off = 0x20 then some { fields := [⟨63, 0, .rw⟩] }
  else if off = 0x28 then some { fields := [⟨63, 0, .rw⟩] }
  else none

/-- The module pages. -/
def moduleReg (a : Nat) : Option Reg :=
  if a = rMgtPartId then some { fields := [⟨63, 8, .ro⟩], reset := 0x0C4A480041013000 }     -- 00 R5
  else if a = rFeSitStatus then some { fields := [⟨63, 32, .ro⟩, ⟨1, 0, .ro⟩] }             -- 11 R442
  else if 0xF00000020000 ≤ a ∧ a < 0xF00000022400 then linkRegInfo (a % 0x100)
  else if a = rEnumCfg then                                                                 -- 12 R493
    some { fields := [⟨29, 16, .rw⟩, ⟨2, 2, .wo⟩, ⟨1, 0, .rw⟩], bad := [(29, 16, 0x3FFF, 0x3FFF)] }
  else if a = rEnumStat then some { fields := [⟨39, 0, .ro⟩], reset := 0x3FFF }             -- 12 R494
  else if a = rEnumXid then some { fields := [⟨14, 14, .rw⟩, ⟨13, 0, .rw⟩], reset := 0x3FFF }
  else if a = rLnkCfg then some { fields := [⟨5, 0, .rw⟩], reset := 0x0F, bad := [(5, 0, 0, 0)] }
  else if a = rMboxH0 ∨ a = rMboxH1 ∨ a = rMboxData then some { fields := [⟨63, 0, .rw⟩] }  -- 12 R495
  else if a = rMboxRdata then some { fields := [⟨63, 0, .ro⟩] }
  else if a = rMboxStat then some { fields := [⟨4, 2, .ro⟩, ⟨1, 1, .w1c⟩, ⟨0, 0, .ro⟩] }
  else if a = rTimCfg then                                                                  -- 13 R522
    some { fields := [⟨7, 2, .rw⟩, ⟨1, 0, .rw⟩], reset := 0xFC, bad := [(7, 2, 36, 62), (1, 0, 3, 3)] }
  else if a = rTimStatus then                                                               -- 13 R523
    some { fields := [⟨63, 32, .rw⟩, ⟨11, 8, .ro⟩, ⟨4, 4, .w1c⟩, ⟨3, 2, .ro⟩, ⟨0, 0, .ro⟩],
           reset := 0xF00 }
  else if a = rTimNow then some { fields := [⟨63, 0, .ro⟩] }                                -- 13 R524
  else if a = rTimFrac then some { fields := [⟨63, 32, .ro⟩, ⟨15, 0, .ro⟩] }
  else if a = rPwrLtr then some { fields := [⟨31, 0, .cw⟩] }                                -- 14 R562
  else if a = rPwrLtr + 8 then some { fields := [⟨31, 0, .cw⟩], reset := 0xFFFFFFFF, isTwin := true }
  else if a = rPwrJet then some { fields := [⟨0, 0, .cw⟩] }
  else if a = rPwrJet + 8 then some { fields := [⟨0, 0, .cw⟩], reset := 1, isTwin := true }
  else if a = rPwrStatus then
    some { fields := [⟨47, 16, .ro⟩, ⟨10, 0, .ro⟩], reset := 0x83 }                         -- 14 R563
  else if a = rPwrGovCnt then some { fields := [⟨63, 0, .rw⟩] }                             -- 14 R564
  else if a = rRelCfg then some { fields := [⟨1, 1, .rw⟩, ⟨0, 0, .wl⟩], reset := 2 }        -- 15 R596
  else if a = rRelLogStat then some { fields := [⟨63, 32, .rw⟩, ⟨31, 0, .ro⟩] }             -- 15 R597
  else if a = rRelLogSel then some { fields := [⟨8, 0, .rw⟩] }
  else if 0xF00000060018 ≤ a ∧ a ≤ 0xF00000060030 then some { fields := [⟨63, 0, .ro⟩] }
  else if 0xF00000060040 ≤ a ∧ a ≤ 0xF00000060058 then some { fields := [⟨63, 0, .ro⟩] }    -- 15 R598
  else if a = rRelCrimsonCtl then some { fields := [⟨1, 1, .wo⟩, ⟨0, 0, .w1c⟩] }
  else if a = rRelSpare false then
    some { fields := [⟨15, 14, .ro⟩, ⟨12, 8, .ro⟩, ⟨4, 0, .ro⟩], reset := 24 }              -- 15 R599
  else if a = rRelSpare true then
    some { fields := [⟨15, 14, .ro⟩, ⟨12, 8, .ro⟩, ⟨4, 0, .ro⟩] }
  else if a = rRelSpareCtl then some { fields := [⟨1, 0, .wo⟩] }
  else if a = rRelInjCtl then                                                               -- 15 R600
    some { fields := [⟨63, 32, .rw⟩, ⟨31, 31, .ro⟩, ⟨26, 16, .rw⟩, ⟨3, 0, .rw⟩], reset := 0x7FF0000,
           bad := [(3, 0, 9, 15)] }
  else if a = rRelInjAddr then some { fields := [⟨47, 0, .rw⟩] }
  else if a = rSecCfg then some { fields := [⟨1, 1, .wl⟩, ⟨0, 0, .wl⟩] }                    -- 16 R638
  else if a = rSecLock then some { fields := [⟨7, 0, .wl⟩] }
  else if a = rSecBoot then                                                                 -- 16 R639
    some { fields := [⟨23, 17, .ro⟩, ⟨16, 16, .wo⟩, ⟨0, 0, .rw⟩] }
  else if 0xF00000070100 ≤ a ∧ a < 0xF00000070180 then                                      -- 16 R640
    some { fields := [⟨31, 16, .rw⟩, ⟨11, 6, .rw⟩, ⟨5, 0, .rw⟩], staged := true,
           reset := 1 <<< (16 + (a % 0x80) / 8) + 3 <<< 6 + 3 * ((a % 0x80) / 8) }
  else if a = rSecMapCommit then
    some { fields := [⟨2, 2, .ro⟩, ⟨1, 1, .w1c⟩, ⟨0, 0, .wo⟩] }                             -- 16 R641
  else if a = rMgtSerial ∨ a = rMgtTlmSeq then some { fields := [⟨63, 0, .ro⟩] }            -- 17 R666, R669
  else if a = rMgtFwVer then some { fields := [⟨47, 0, .ro⟩] }
  else if a = rMgtBootStat then some { fields := [⟨31, 17, .ro⟩, ⟨2, 0, .ro⟩] }             -- 17 R667
  else if a = rMgtBootCfg then some { fields := [⟨3, 0, .rw⟩] }
  else if a = rMgtBootCtl then some { fields := [⟨1, 0, .wo⟩] }                             -- 17 R668
  else if a = rMgtPartRel then some { fields := [⟨15, 0, .wo⟩] }
  else if a = rMgtPos then some { fields := [⟨12, 0, .ro⟩] }
  else if a = rMgtAlert then some { fields := [⟨5, 0, .w1c⟩] }                              -- 17 R669
  else if a = rMgtFwCtl then                                                                -- 17 R670
    some { fields := [⟨63, 32, .rw⟩, ⟨7, 6, .rw⟩, ⟨2, 0, .wo⟩], bad := [(7, 6, 0, 0), (2, 0, 0, 0), (2, 0, 6, 7)] }
  else if a = rMgtFwStat then some { fields := [⟨17, 14, .ro⟩, ⟨7, 0, .ro⟩] }
  else if 0xF00000081000 ≤ a ∧ a < 0xF00000082000 then some { fields := [⟨63, 0, .rw⟩] }
  else if 0xF00000082000 ≤ a ∧ a < 0xF00000082200 then                                      -- 17 R671
    some { fields := [⟨34, 34, .ro⟩, ⟨33, 33, .w1c⟩, ⟨32, 0, .ro⟩] }
  else if 0xF00000100000 ≤ a ∧ a < 0xF00000120000 then                                      -- 12 R470
    some { fields := [⟨63, 0, .rw⟩], reset := 0xFFFFFFFF00000000 }
  else none

/-- The register at an 8-byte-aligned device-physical address, if one lies there (10 R370). The alias page
of a herder is resolved by the herder's own access. -/
def findReg (a : Nat) : Option Reg :=
  if a % 8 ≠ 0 then none
  else if 0xF00000000000 ≤ a ∧ a < 0xF00010000000 then moduleReg a
  else if 0xF00100000000 ≤ a ∧ a < 0xF00100000000 + 1152 * 0x1000 then tileReg (a % 0x1000)
  else if 0xF00200000000 ≤ a ∧ a < 0xF00200100000 then partReg ((a / 0x10000) % 16) (a % 0x10000)
  else none

/-- The value of a register after reset. -/
def regReset (a : Nat) : Word :=
  match findReg a with
  | some r => BitVec.ofNat 64 r.reset
  | none => 0

/-- The mask of a register's fields of the given types. -/
def Reg.mask (r : Reg) (want : FTy → Bool) : Word :=
  r.fields.foldl (fun m f => if want f.ty then m ||| maskOf 64 f.hi f.lo else m) 0

/-- The mask of every field: what is not reserved. -/
def Reg.live (r : Reg) : Word := r.mask (fun _ => true)

/-- A value places a non-zero value in a reserved field or a reserved encoding in an enumerated one (R13). -/
def Reg.rejects (r : Reg) (v : Word) : Bool :=
  decide (v &&& ~~~ r.live ≠ 0)
  || r.bad.any (fun b => decide (b.2.2.1 ≤ fld v b.1 b.2.1 ∧ fld v b.1 b.2.1 ≤ b.2.2.2))

/-- The effect of a write by field types (R12): RW takes the value, W1C clears written ones, WL keeps ones,
RO keeps, WO holds no value. CW fields are written by R14 and keep theirs here. -/
def Reg.merge (r : Reg) (old v : Word) : Word :=
  let rw := r.mask (fun t => t == .rw)
  let w1c := r.mask (fun t => t == .w1c)
  let wl := r.mask (fun t => t == .wl)
  ((old &&& ~~~ rw) ||| (v &&& rw)) &&& ~~~ (v &&& w1c) ||| (v &&& wl)

/-- What a read of the stored value returns: WO fields read zero (R12). -/
def Reg.shown (r : Reg) (v : Word) : Word := v &&& r.mask (fun t => t != .wo)

/-- The mask of CW fields. -/
def Reg.cwMask (r : Reg) : Word := r.mask (fun t => t == .cw)

end Sys2Proof.Machine
end

