-- ==== Sys2Proof/Machine/SfuReal.lean ====
section
/-! DEFINITION. The element functions of 06 R189 at exact arguments, as enclosures of their real values in dyadic
interval arithmetic with outward rounding: what the bounds and the monotonicity of R192 and R193 are held against. -/
namespace Sys2Proof.Machine

def pow2 (e : Int) : Dy := ⟨1, e⟩

/-! Intervals -/

/-- A closed interval that holds a real value. -/
structure Iv where
  lo : Dy
  hi : Dy
  deriving DecidableEq, Repr

/-- The p leading bits of a value, rounded down, and up. -/
def Dy.down (p : Nat) (a : Dy) : Dy :=
  let k := Nat.log2 a.m.natAbs + 1 - p
  ⟨a.m / (2 : Int) ^ k, a.e + (k : Int)⟩
def Dy.up (p : Nat) (a : Dy) : Dy := (a.neg.down p).neg

def Dy.min (a b : Dy) : Dy := if b.lt a then b else a
def Dy.max (a b : Dy) : Dy := if a.lt b then b else a

def Iv.of (a : Dy) : Iv := ⟨a, a⟩
def Iv.cut (p : Nat) (x : Iv) : Iv := ⟨x.lo.down p, x.hi.up p⟩
def Iv.neg (x : Iv) : Iv := ⟨x.hi.neg, x.lo.neg⟩
def Iv.add (p : Nat) (x y : Iv) : Iv := Iv.cut p ⟨x.lo.add y.lo, x.hi.add y.hi⟩
def Iv.sub (p : Nat) (x y : Iv) : Iv := x.add p y.neg
def Iv.scale (x : Iv) (k : Int) : Iv := ⟨x.lo.scale k, x.hi.scale k⟩

def Iv.mul (p : Nat) (x y : Iv) : Iv :=
  let ps := [x.lo.mul y.hi, x.hi.mul y.lo, x.hi.mul y.hi]
  let a := x.lo.mul y.lo
  Iv.cut p ⟨ps.foldl Dy.min a, ps.foldl Dy.max a⟩

/-- The quotient of two values rounded down to p bits or more; the divisor is positive. -/
def Dy.divDown (p : Nat) (a b : Dy) : Dy :=
  let k := p + Nat.log2 b.m.natAbs + 1
  ⟨shlInt a.m k / b.m, a.e - b.e - (k : Int)⟩
def Dy.divUp (p : Nat) (a b : Dy) : Dy := (a.neg.divDown p b).neg

/-- The quotient by a positive interval. -/
def Iv.div (p : Nat) (x y : Iv) : Iv :=
  Iv.cut p ⟨x.lo.divDown p (if x.lo.m < 0 then y.lo else y.hi), x.hi.divUp p (if x.hi.m < 0 then y.hi else y.lo)⟩

def Iv.divNat (p : Nat) (x : Iv) (n : Nat) : Iv := x.div p (Iv.of (Dy.ofInt n))

/-- The integer square root, bit by bit from bit i - 1 down. -/
def isqrtFrom (n : Nat) : Nat → Nat → Nat
  | 0, r => r
  | i + 1, r => let c := r + 2 ^ i; isqrtFrom n i (if c * c ≤ n then c else r)
def isqrt (n : Nat) : Nat := isqrtFrom n (Nat.log2 n / 2 + 1) 0

/-- The square root of a value that is not negative. -/
def sqrtIv (p : Nat) (a : Dy) : Iv :=
  let k := 2 * p + (a.e % 2).toNat
  let n := a.m.natAbs <<< k
  let r := isqrt n
  let e := (a.e - (k : Int)) / 2
  ⟨⟨r, e⟩, ⟨if r * r = n then r else r + 1, e⟩⟩

/-- f 1 (f 2 (… (f n tail))): a series evaluated from its last term. -/
def horner (f : Nat → Iv → Iv) : Nat → Iv → Iv
  | 0, acc => acc
  | n + 1, acc => horner f n (f (n + 1) acc)

def ivOne : Iv := Iv.of (pow2 0)
/-- [0, 2]: the tail of a series whose terms fall by at least one half. -/
def ivTail : Iv := ⟨.zero, pow2 1⟩

/-! Constants -/

/-- The hyperbolic arc tangent of a small interval, |t| ≤ 1/3. -/
def atanhIv (p : Nat) (t : Iv) : Iv :=
  let q := t.mul p t
  t.mul p (horner (fun n acc => (ivOne.divNat p (2 * n - 1)).add p (q.mul p acc)) (p / 3 + 10) ivTail)

def ln2Iv (p : Nat) : Iv := (atanhIv p (ivOne.divNat p 3)).scale 1

/-- The arc tangent of 1/n. -/
def atanInv (p n : Nat) : Iv :=
  let t := ivOne.divNat p n
  let q := t.mul p t
  t.mul p (horner (fun k acc => (ivOne.divNat p (2 * k - 1)).sub p (q.mul p acc)) (p / 4 + 10) ivTail)

/-- π, by Machin's formula. -/
def piIv (p : Nat) : Iv :=
  ((Iv.of (Dy.ofInt 16)).mul p (atanInv p 5)).sub p ((Iv.of (Dy.ofInt 4)).mul p (atanInv p 239))

/-! Exponentials and logarithms -/

def Dy.floor (a : Dy) : Int := if 0 ≤ a.e then shlInt a.m a.e.toNat else a.m / (2 : Int) ^ (-a.e).toNat
/-- The nearest integer. -/
def Dy.round (a : Dy) : Int := (a.add (pow2 (-1))).floor

/-- (e^r - 1) ÷ r for |r| ≤ 1/2. -/
def expTail (p : Nat) (r : Iv) : Iv :=
  horner (fun n acc => if n = 1 then acc else ivOne.add p ((r.mul p acc).divNat p n)) (p / 3 + 10) ivTail
def expSmall (p : Nat) (r : Iv) : Iv := ivOne.add p (r.mul p (expTail p r))

/-- e^x. -/
def expIv (p : Nat) (x : Iv) : Iv :=
  let l := ln2Iv p
  let k := (x.lo.divDown p l.lo).round
  (expSmall p (x.sub p (l.mul p (Iv.of (Dy.ofInt k))))).scale k

/-- e^-x for x ≥ 0. Past 500 the value is below 2^-721, which every posit of 34 bits rounds alike. -/
def expNeg (p : Nat) (x : Iv) : Iv :=
  if (Dy.ofInt 500).lt x.lo then ⟨pow2 (-4000), pow2 (-721)⟩ else expIv p x.neg

/-- 2^x. -/
def exp2Iv (p : Nat) (x : Dy) : Iv :=
  let k := x.round
  (expSmall p ((ln2Iv p).mul p (Iv.of (x.sub (Dy.ofInt k))))).scale k

/-- x as m × 2^k with m from 2/3 to 4/3. -/
def lnSplit (x : Dy) : Dy × Int :=
  let k := x.expo
  let m := x.scale (-k)
  if (Dy.ofInt 4).lt ((Dy.ofInt 3).mul m) then (m.scale (-1), k + 1) else (m, k)

/-- ln x for a positive value. -/
def lnIv (p : Nat) (x : Dy) : Iv :=
  let (m, k) := lnSplit x
  let t := (Iv.of (m.sub (pow2 0))).div p (Iv.of (m.add (pow2 0)))
  ((atanhIv p t).scale 1).add p ((ln2Iv p).mul p (Iv.of (Dy.ofInt k)))

def log2Iv (p : Nat) (x : Dy) : Iv :=
  let (m, k) := lnSplit x
  if m.eq (pow2 0) then Iv.of (Dy.ofInt k) else (lnIv p x).div p (ln2Iv p)

/-- ln (1 + t) for t from 0 to 1. -/
def ln1pIv (p : Nat) (t : Iv) : Iv := (atanhIv p (t.div p ((Iv.of (pow2 1)).add p t))).scale 1

/-! The other functions, for positive arguments first -/

def tanhIv (p : Nat) (x : Dy) : Iv :=
  let y := Iv.of (x.scale 1)
  if x.lt (pow2 (-2)) then
    let e := y.mul p (expTail p y)
    e.div p (e.add p (Iv.of (pow2 1)))
  else
    let t := expNeg p y
    (ivOne.sub p t).div p (ivOne.add p t)

/-- 1 ÷ (1 + e^-y) where y has the magnitude a and the given sign. -/
def sigmoidIv (p : Nat) (neg : Bool) (a : Iv) : Iv :=
  let t := expNeg p a
  (if neg then t else ivOne).div p (ivOne.add p t)

/-- The normal distribution function at z ≥ 0, and at -z. -/
def normalIv (p : Nat) (neg : Bool) (z : Dy) : Iv :=
  let q := Iv.of (z.mul z)
  let t := expNeg p (q.scale (-1))
  if (Dy.ofInt 16).le z then (if neg then ⟨pow2 (-4000), t.hi⟩ else ⟨(pow2 0).sub t.hi, (pow2 0).sub (pow2 (-4000))⟩)
  else
    let s := horner (fun n acc => ivOne.add p ((q.mul p acc).divNat p (2 * n + 1))) 700 ivTail
    let r := (piIv p).scale 1
    let d : Iv := ⟨(sqrtIv p r.lo).lo, (sqrtIv p r.hi).hi⟩
    let h := ((t.mul p (Iv.of z)).mul p s).div p d
    (Iv.of (pow2 (-1))).add p (if neg then h.neg else h)

/-- √(2/π) × (|x| + 0.044715 |x|³), doubled. -/
def geluArg (p : Nat) (x : Dy) : Iv :=
  let c := (Iv.of (Dy.ofInt 44715)).divNat p 1000000
  let y := (Iv.of x).add p (c.mul p (Iv.of (x.mul (x.mul x))))
  let r := (Iv.of (pow2 1)).div p (piIv p)
  (y.mul p ⟨(sqrtIv p r.lo).lo, (sqrtIv p r.hi).hi⟩).scale 1

/-- sin (r + k π/2) for |r| ≤ π/4. -/
def sinArc (p : Nat) (k : Int) (r : Iv) : Iv :=
  let q := r.mul p r
  let v :=
    if k % 2 = 0 then r.mul p (horner (fun n acc => ivOne.sub p ((q.mul p acc).divNat p (2 * n * (2 * n + 1)))) (p / 3) ivTail)
    else horner (fun n acc => ivOne.sub p ((q.mul p acc).divNat p ((2 * n - 1) * (2 * n)))) (p / 3) ivTail
  if k % 4 = 0 ∨ k % 4 = 1 then v else v.neg

/-- sin (x + j π/2), with exact argument reduction (06 R192). -/
def sinIv (p j : Nat) (x : Dy) : Iv :=
  let h := (piIv p).scale (-1)
  let k := (x.divDown p h.lo).round
  sinArc p (k + j) ((Iv.of x).sub p (h.mul p (Iv.of (Dy.ofInt k))))

/-- The function of a code at an exact argument of its domain (06 R189), to about 300 bits; a value too small for any
posit may be held by bounds that are only too small as well. -/
def sfuEnclose (fn : Nat) (x : Dy) : Iv :=
  let neg := decide (x.m < 0)
  let a := x.abs
  let sgn (v : Iv) : Iv := if neg then v.neg else v
  match fn with
  | 0x1 => expIv 400 (Iv.of x)
  | 0x2 => exp2Iv 400 x
  | 0x3 => lnIv 400 x
  | 0x4 => log2Iv 400 x
  | 0x5 => sgn (ivOne.div 400 (Iv.of a))
  | 0x6 => ⟨ (pow2 0).divDown 400 (sqrtIv 400 a).hi, (pow2 0).divUp 400 (sqrtIv 400 a).lo ⟩
  | 0x7 => sqrtIv 400 a
  | 0x8 => sgn (tanhIv 400 a)
  | 0x9 => sigmoidIv 400 neg (Iv.of a)
  | 0xA => (Iv.of x).mul 5000 (normalIv 600 neg a)
  | 0xB => (Iv.of x).mul 5000 (sigmoidIv 400 neg (geluArg 400 a))
  | 0xC => (Iv.of x).mul 5000 (sigmoidIv 400 neg (Iv.of a))
  | 0xD => let l := ln1pIv 400 (expNeg 400 (Iv.of a)); if neg then l else (Iv.of a).add 1000 l
  | 0xE => sinIv 800 0 x
  | 0xF => sinIv 800 1 x
  | _ => Iv.of .zero

/-! Bounds and arcs (06 R191 to R193) -/

/-- The exponent of the spacing of P16 values whose binary exponent is E: E less the fraction bits there (06 R191). -/
def ulp16Exp (E : Int) : Int := E - max 0 (13 - (if 0 ≤ E then E / 4 + 2 else 1 - E / 4))

/-- ulp16 of a value, its magnitude clamped to the range of P16. -/
def ulp16Of (y : Dy) : Dy := if y.isZero then pow2 (-56) else pow2 (ulp16Exp (max (-56) (min 56 y.expo)))

/-- The bound of a function at an input, in P16 ulps, and its floor (06 R192). -/
def sfuBoundOf (fn : Nat) (x : Dy) : Nat × Dy :=
  let below (i : Int) : Bool := x.lt (Dy.ofInt i)
  match fn with
  | 0x1 => (if x.abs.le (Dy.ofInt 8) then 1 else 2, .zero)
  | 0x3 | 0x4 => (if (pow2 (-1)).le x && x.le (pow2 1) then 2 else 1, .zero)
  | 0x8 | 0xD => (2, .zero)
  | 0x9 => (if below (-16) then 2 else 1, .zero)
  | 0xA | 0xB => (3, if below (-4) then pow2 (-30) else .zero)
  | 0xC => (2, if below (-16) then pow2 (-30) else .zero)
  | 0xE | 0xF => (2, pow2 (-24))
  | _ => (1, .zero)

/-- A posit value keeps a bound: it lies so near both ends of the enclosure, or it is the correctly rounded value, where
the format has no nearer one. -/
def Iv.keeps (f : Iv) (n : Nat) (b : Nat × Dy) (r : Dy) : Bool :=
  let tol := ((Dy.ofInt b.1).mul (Dy.min (ulp16Of f.lo) (ulp16Of f.hi))).add b.2
  let best := (positVal n (roundPosit n .nearestEven f.lo).word).getD .zero
  ((r.sub f.lo).abs.le tol && (r.sub f.hi).abs.le tol)
    || (r.eq best && (roundPosit n .nearestEven f.lo).word == (roundPosit n .nearestEven f.hi).word)

/-- The arguments of the minima of GELU_ERF, GELU_TANH and SILU in units of 2^-64, rounded down; no P32 value lies
between one and the true one. -/
def sfuMinAt (fn : Nat) : Int := if fn = 0xA then -13868105852806078189 else if fn = 0xB then -13880463278283580770 else -23583508227625629668

/-- The number of the monotonic arc of a function on which an argument lies (06 R193), and whether the function rises
there. An argument that ends two arcs counts to the upper one. -/
def sfuArc (fn : Nat) (x : Dy) : Int × Bool :=
  match fn with
  | 0x5 => (if x.m < 0 then 0 else 1, false)
  | 0x6 => (0, false)
  | 0xA | 0xB | 0xC => if x.le ⟨sfuMinAt fn, -64⟩ then (0, false) else (1, true)
  | 0xE => let k := ((x.divDown 800 (piIv 800).lo).add (pow2 (-1))).floor; (k, k % 2 = 0)
  | 0xF => let k := (x.divDown 800 (piIv 800).lo).floor; (k, k % 2 = 1)
  | _ => (0, true)

/-- The function is monotonic between two neighbouring arguments x < y: whether it rises there. -/
def sfuRises (fn : Nat) (x y : Dy) : Option Bool :=
  let a := sfuArc fn x
  if a.1 = (sfuArc fn y).1 ∨ (fn = 0xF ∧ y.isZero) then some a.2 else none

end Sys2Proof.Machine
end

