-- ==== Sys2Proof/Machine/SfuCalc.lean ====
section
/-! DEFINITION. What the SFU and the pointer compute (06_special_functions_and_pointer.md, 04 R146 to R149):
element functions, row statistics, softmax and normalisation, top-k order and the sampler's draws. The core of
an ordinary element-function result is a free value within the bounds of R191 to R193 (R73). -/
namespace Sys2Proof.Machine

def p32One : Nat := 0x40000000
def p32NaR : Nat := 0x80000000

/-- Functions whose ordinary results are positive (R189): the free core is read as a positive posit. -/
def fnPositive (fn : Nat) : Bool :=
  fn == 1 || fn == 2 || fn == 6 || fn == 7 || fn == 9 || fn == 0xD

/-- The free core as a 34-bit posit that is never NaR, positive where the function is (R190). -/
def freeCore (fn x : Nat) : Nat :=
  let w := (Config.sfuCore fn (BitVec.ofNat 32 x)).toNat
  if fnPositive fn then (if w % 2 ^ 33 = 0 then 1 else w % 2 ^ 33)
  else if w = 2 ^ 33 then 0 else w

/-- The real value of the function, rounded to odd (R190): a core that keeps every promise of R191 to R193. -/
def roundedCore (fn x : Nat) : Nat :=
  match positVal 32 x with
  | some v =>
    let f := sfuEnclose fn v
    (roundPosit 34 .toOdd ((f.lo.add f.hi).scale (-1))).word
  | none => positNaR 34

/-- An element function's result before its output rounding (R190, R194): NaR, an exact value with the flags
the function itself sets, or a core intermediate. -/
inductive SfuRes where
  | nar (nv : Bool)
  | exact (v : Dy) (fl : Flags)
  | core (w : Nat)
  deriving DecidableEq, Repr

def nxOnly : Flags := { nx := true }
def ofNx : Flags := { of := true, nx := true }
def ufNx : Flags := { uf := true, nx := true }

/-- 120 × ln 2 in units of 2^-64, rounded down (R192). -/
def exp120ln2 : Int := 1534357037424318679174

/-- The function fn of an input with maximum exponent mx (24, 56 or 120 by the input format), by R192 and
R194, over a core. `x` is the input widened to P32 (R41). EXP and EXP2 at ±maxpos of a P8 or P16 input give that
format's maxpos or minpos by R194, where R192 and R193 ask for those of P32 (DEDUCED, log entry 27). -/
def sfuOver (core : Nat → Nat → Nat) (fn : Nat) (mx : Int) (x : Nat) : SfuRes :=
  let one : Dy := pow2 0
  let maxp : Dy := pow2 mx
  let minp : Dy := pow2 (-mx)
  match positVal 32 x with
  | none => .nar false
  | some v =>
    let neg := decide (v.m < 0)
    let isMax := v.eq maxp
    let isMin := v.eq maxp.neg
    if v.isZero then
      match fn with
      | 1 | 2 | 0xF => .exact one {}
      | 3 | 4 | 5 | 6 => .nar true
      | 9 => .exact (pow2 (-1)) {}
      | 0xD => .core (core fn x)
      | _ => .exact .zero {}
    else
      match fn with
      | 1 =>
        if isMax then .exact maxp ofNx
        else if isMin then .exact minp ufNx
        else if (Dy.mk exp120ln2 (-64)).lt v then .exact (pow2 120) ofNx
        else if v.lt (Dy.mk (-exp120ln2) (-64)) then .exact (pow2 (-120)) ufNx
        else .core (core fn x)
      | 2 =>
        if isMax then .exact maxp ofNx
        else if isMin then .exact minp ufNx
        else if (Dy.ofInt 120).lt v then .exact (pow2 120) ofNx
        else if v.lt (Dy.ofInt (-120)) then .exact (pow2 (-120)) ufNx
        else .core (core fn x)
      | 3 | 4 | 6 | 7 => if neg then .nar true else .core (core fn x)
      | 5 =>
        if isMax then .exact minp {}
        else if isMin then .exact minp.neg {}
        else if v.eq minp then .exact maxp {}
        else if v.eq minp.neg then .exact maxp.neg {}
        else .core (core fn x)
      | 8 => if isMax then .exact one nxOnly else if isMin then .exact one.neg nxOnly
             else .core (core fn x)
      | 9 => if isMax then .exact one nxOnly else if isMin then .exact minp ufNx
             else .core (core fn x)
      | 0xA | 0xB | 0xC =>
        if isMax then .exact maxp nxOnly else if isMin then .exact minp.neg ufNx
        else .core (core fn x)
      | 0xD => if isMax then .exact maxp nxOnly else if isMin then .exact minp ufNx
               else .core (core fn x)
      | _ => .core (core fn x)

/-- The stage-5 input of a function result: the value that the output rounding rounds. -/
def SfuRes.val : SfuRes → Option Dy
  | .nar _ => none
  | .exact v _ => some v
  | .core w => positVal 34 w

/-- The flags of the function itself: NX always for a core result (R195). -/
def SfuRes.flags : SfuRes → Flags
  | .nar nv => { nv := nv }
  | .exact _ f => f
  | .core _ => nxOnly

/-- The result rounded to a posit of n bits (R190). -/
def SfuRes.toPosit (r : SfuRes) (n : Nat) : Rounded :=
  let o := roundPosit? n .nearestEven r.val
  ⟨o.word, r.flags.or o.fl⟩

/-- The word rounded to n bits keeps the bound of R192, in P32 and, where the core value lies within ±maxpos of P16, in
P16 too (R191). -/
def coreAccurate (fn x w : Nat) : Bool :=
  match positVal 32 x with
  | none => true
  | some v =>
    let f := sfuEnclose fn v
    let b := sfuBoundOf fn v
    let at_ (n : Nat) : Dy := (positVal n (roundPosit? n .nearestEven (positVal 34 w)).word).getD .zero
    f.keeps 32 b (at_ 32) && (!(at_ 32).abs.le (pow2 56) || f.keeps 16 b (at_ 16))

/-- One result is at most another in every output format. -/
def SfuRes.le (a b : SfuRes) : Bool :=
  [8, 16, 32].all (fun n => decide (positKey n (a.toPosit n).word ≤ positKey n (b.toPosit n).word))

/-- A core keeps the promises of R191 to R193 at a P32 word and toward the next one. -/
def coreKeepsAt (core : Nat → Nat → Nat) (fn x : Nat) : Bool :=
  let y := (x + 1) % 2 ^ 32
  let a := sfuOver core fn 120 x
  let b := sfuOver core fn 120 y
  (match a with | .core w => coreAccurate fn x w | _ => true)
    && (match positVal 32 x, positVal 32 y with
      | some u, some v =>
        a.val.isNone || b.val.isNone ||
        (match sfuRises fn u v with
         | some true => a.le b
         | some false => b.le a
         | none => true)
      | _, _ => true)

/-- A property of every number below a bound. -/
def allBelow (p : Nat → Bool) : Nat → Bool
  | 0 => true
  | n + 1 => p n && allBelow p n

/-- A core keeps every promise of R191 to R193. -/
def coreKeeps (core : Nat → Nat → Nat) (fn : Nat) : Bool :=
  allBelow (fun i => coreKeepsAt core fn ((i + p32One + 1) % 2 ^ 32)) (2 ^ 32)

/-- The core intermediate of an ordinary input (R190): the free core of the implementation, which R192 and R193 bind; one
that broke them would be none the spec allows, and the rounded real value stands in its place. -/
def sfuCoreWord (fn x : Nat) : Nat := if coreKeeps freeCore fn then freeCore fn x else roundedCore fn x

/-- The function fn of an input, over the core of this part. -/
def sfuFn (fn : Nat) (mx : Int) (x : Nat) : SfuRes := sfuOver sfuCoreWord fn mx x

/-- The P32 core value of a function at a P32 input. -/
def sfuP32 (fn x : Nat) : Nat := ((sfuFn fn 120 x).toPosit 32).word

/-- The exponent of maxpos of a posit format. -/
def Fmt.maxExp (f : Fmt) : Int := 4 * (f.positBits : Int) - 8

/-- A posit word widened to P32 (R41). -/
def widen32 (f : Fmt) (w : Nat) : Nat := w <<< (32 - f.positBits)

/-- An element function from format to format (R190). -/
def sfuElement (fn : Nat) (src dst : Fmt) (w : Nat) : Rounded :=
  (sfuFn fn src.maxExp (widen32 src (w % 2 ^ src.width))).toPosit dst.positBits

/-! Values, order and masks -/

/-- The exact value of an input element; none is NaR. -/
def elemVal (f : Fmt) (w : Nat) : Option Dy :=
  if f.isPosit then positVal f.positBits w else some (Dy.ofInt (f.intVal w))

/-- The integer that orders elements of a format (R146): posits by R40, NaR lowest. -/
def elemKey (f : Fmt) (w : Nat) : Int := if f.isPosit then toSigned f.width w else f.intVal w

/-- Masked by value: a posit that is −2^56 or below (R199). -/
def maskedByValue (f : Fmt) (w : Nat) : Bool :=
  f.isPosit && (match positVal f.positBits w with
    | some v => v.le (pow2 56).neg
    | none => false)

/-- One element of a row with its place and whether it is masked. -/
structure Elem where
  i : Nat
  w : Nat
  masked : Bool
  deriving DecidableEq, Repr

/-- The masks of R199: mode bit 0 causal, bit 1 bitmap. -/
def maskElems (f : Fmt) (mode i0 cb r : Nat) (bitmap : List Byte) (ws : List Nat) : List Elem :=
  ws.zipIdx.map (fun (w, i) =>
    let causal := mode.testBit 0 && decide (i0 + i > cb + r)
    let bm := mode.testBit 1 && ((bitmap.getD (i / 8) 0).getLsbD (i % 8))
    ⟨i, w, maskedByValue f w || causal || bm⟩)

/-! Entries and top-k (04 R146 to R149) -/

/-- A top-k entry: value word in the entry's format and index. -/
structure TkEntry where
  w : Nat
  idx : Nat
  deriving DecidableEq, Repr

/-- x precedes y (R146). -/
def TkEntry.before (f : Fmt) (x y : TkEntry) : Bool :=
  decide (elemKey f y.w < elemKey f x.w) || (decide (elemKey f x.w = elemKey f y.w) && decide (x.idx < y.idx))

def tkInsert (f : Fmt) (e : TkEntry) : List TkEntry → List TkEntry
  | [] => [e]
  | x :: xs => if e.before f x then e :: x :: xs else x :: tkInsert f e xs

/-- The first k of a list in the order of R146. -/
def tkSelect (f : Fmt) (k : Nat) (es : List TkEntry) : List TkEntry :=
  es.foldl (fun acc e => (tkInsert f e acc).take k) []

/-- The fill entry of R148. -/
def tkFill (f : Fmt) : TkEntry :=
  ⟨match f with | .S8 => 0x80 | .U8 => 0 | .S32 => 0x80000000 | f => positNaR f.positBits, 0xFFFFFFFF⟩

def tkPad (f : Fmt) (k : Nat) (es : List TkEntry) : List TkEntry :=
  es ++ List.replicate (k - es.length) (tkFill f)

/-- An entry as its 8 bytes: the value from bit 32 on, the index below (R147). -/
def tkWord (f : Fmt) (e : TkEntry) : BitVec 64 :=
  BitVec.ofNat 64 ((e.w % 2 ^ f.width) <<< 32 + e.idx % 2 ^ 32)
def tkOfWord (f : Fmt) (w : BitVec 64) : TkEntry := ⟨fld w (32 + f.width - 1) 32, fld w 31 0⟩

/-! Row statistics (R200 to R204) -/

/-- What is gathered of one row. -/
structure RowStats where
  n : Nat
  best : Option Elem
  nar : Bool
  sum : Dy
  sumsq : Dy
  anyMasked : Bool
  deriving DecidableEq, Repr

/-- The statistics of a row of index base i0; of equal values the one of the lowest index is best (04 R146). -/
def rowStats (f : Fmt) (i0 : Nat) (es : List Elem) : RowStats :=
  es.foldl (fun a e =>
    if e.masked then { a with anyMasked := true }
    else
      let better := match a.best with
        | none => true
        | some b => (TkEntry.mk e.w ((i0 + e.i) % 2 ^ 32)).before f ⟨b.w, (i0 + b.i) % 2 ^ 32⟩
      let a := { a with n := a.n + 1, best := if better then some e else a.best }
      match elemVal f e.w with
      | none => { a with nar := true }
      | some v => { a with sum := a.sum.add v, sumsq := a.sumsq.add (v.mul v) })
    ⟨0, none, false, .zero, .zero, false⟩

/-- The rounded quotient of an exact value by a positive count. -/
def roundQuot (n : Nat) (mode : RMode) (a : Dy) (d : Nat) : Rounded :=
  if a.isZero then ⟨0, {}⟩
  else
    let (q, st) := divSticky a (Dy.ofInt d) 80
    roundPosit n mode q st

/-- n² × VAR, exact. -/
def RowStats.var2 (r : RowStats) : Dy := ((Dy.ofInt r.n).mul r.sumsq).sub (r.sum.mul r.sum)

/-- A MAX value converted to a posit format. -/
def maxOut (f dst : Fmt) (w : Nat) : Rounded := roundPosit? dst.positBits .nearestEven (elemVal f w)

/-- The value outputs MAX, SUM, SUMSQ, MEAN and VAR (operation codes 1, 3, 4, 5, 6) of a row (R200, R201,
R204). -/
def rowValue (op : Nat) (f dst : Fmt) (r : RowStats) : Rounded :=
  let nar : Rounded := ⟨positNaR dst.positBits, {}⟩
  match r.best with
  | none => ⟨0, {}⟩
  | some b =>
    if op = 1 then maxOut f dst b.w
    else if r.nar then nar
    else match op with
      | 3 => roundPosit dst.positBits .nearestEven r.sum
      | 4 => roundPosit dst.positBits .nearestEven r.sumsq
      | 5 => roundQuot dst.positBits .nearestEven r.sum r.n
      | _ => roundQuot dst.positBits .nearestEven r.var2 (r.n * r.n)

/-- The row status word (R205). -/
def rowStatusWord (n : Nat) (narRow anyMasked maskedRow : Bool) : Nat :=
  (n <<< 11) + (if narRow then 4 else 0) + (if anyMasked then 2 else 0) + (if maskedRow then 1 else 0)

/-- The exponentials of a row about its maximum (R202): P32 core values, 0 for masked elements. -/
def expTerms (f : Fmt) (scale : Dy) (mx : Dy) (es : List Elem) : List Dy :=
  es.map (fun e =>
    if e.masked then .zero
    else match elemVal f e.w with
      | none => .zero
      | some v =>
        let arg := scale.mul (v.sub mx)
        let a32 := (roundPosit 32 .toOdd arg).word
        (positVal 32 (sfuP32 1 a32)).getD .zero)

/-- SOFTMAX of a row (R202). -/
def softmaxRow (f dst : Fmt) (scale : Dy) (es : List Elem) (r : RowStats) : List Rounded :=
  let nar : Rounded := ⟨positNaR dst.positBits, {}⟩
  match r.best with
  | none => es.map (fun _ => ⟨0, {}⟩)
  | some b =>
    if r.nar then es.map (fun _ => nar)
    else
      let terms := expTerms f scale ((elemVal f b.w).getD .zero) es
      let den := terms.foldl Dy.add .zero
      (es.zip terms).map (fun (e, t) =>
        if e.masked then ⟨0, {}⟩
        else
          let o : Rounded :=
            if t.isZero then ⟨0, {}⟩
            else
              let (q, st) := divSticky t den 80
              roundPosit dst.positBits .nearestEven q st
          ⟨o.word, o.fl.or nxOnly⟩)

/-- RMSNORM (center false) and LAYERNORM (center true) of a row (R203): outputs and whether the quantity under
the root was zero. γ and β are P16 words. -/
def normRow (center : Bool) (f dst : Fmt) (eps : Dy) (gamma beta : List Nat) (es : List Elem)
    (r : RowStats) : List Rounded × Bool :=
  let nar : Rounded := ⟨positNaR dst.positBits, {}⟩
  if r.n = 0 then (es.map (fun _ => ⟨0, {}⟩), false)
  else if r.nar then (es.map (fun _ => nar), false)
  else
    let num := if center then r.var2.add ((Dy.ofInt (r.n * r.n)).mul eps)
               else r.sumsq.add ((Dy.ofInt r.n).mul eps)
    let den := if center then r.n * r.n else r.n
    if num.isZero then (es.map (fun _ => ⟨positNaR dst.positBits, { nv := true }⟩), true)
    else
      let arg := (roundQuot 32 .toOdd num den).word
      let rho := (positVal 32 (sfuP32 6 arg)).getD .zero
      (es.map (fun e =>
        if e.masked then ⟨0, {}⟩
        else
          let g := positVal 16 (gamma.getD e.i 0)
          let b := if center then positVal 16 (beta.getD e.i 0) else some .zero
          match elemVal f e.w, g, b with
          | some x, some g, some b =>
            let o :=
              if center then
                let nx := ((Dy.ofInt r.n).mul x).sub r.sum
                roundQuot dst.positBits .nearestEven
                  (((nx.mul rho).mul g).add ((Dy.ofInt r.n).mul b)) r.n
              else roundPosit dst.positBits .nearestEven ((x.mul rho).mul g)
            ⟨o.word, o.fl.or nxOnly⟩
          | _, _, _ => nar), false)

/-- MASK of a row: masked positions take −2^56 (R199, R204); an unmasked NaR makes every output NaR (R201). -/
def maskRow (f dst : Fmt) (es : List Elem) (r : RowStats) : List Rounded :=
  es.map (fun e =>
    if r.nar then ⟨positNaR dst.positBits, {}⟩
    else if e.masked then roundPosit dst.positBits .nearestEven (pow2 56).neg
    else roundPosit? dst.positBits .nearestEven (elemVal f e.w))

/-! The sampler (R209 to R217) -/

/-- The uniform variate of a draw (R211, R212). -/
def uniform (seed step c0 c1 : Nat) : Dy :=
  let x0 := philox c0 c1 (step % 2 ^ 32) (step / 2 ^ 32 % 2 ^ 32) (seed % 2 ^ 32) (seed / 2 ^ 32 % 2 ^ 32)
  ⟨((2 * (x0 / 512) + 1 : Nat) : Int), -24⟩

/-- Gumbel noise: −LN(−LN(u)), each LN a P32 core value (R213); none is NaR. -/
def gumbel (u : Dy) : Option Dy :=
  let l1 := sfuP32 3 (roundPosit 32 .nearestEven u).word
  let l2 := sfuP32 3 (positNeg 32 l1)
  positVal 32 (positNeg 32 l2)

/-- The result of a draw: value as a P32 word and index, or none (NO_CANDIDATE). -/
abbrev Draw := Option (Nat × Nat)

/-- The P32 value of a chosen logit: a posit widened by R41; an integer rounded by R54, without a flag (R216 names R41
alone; DESIGN CHOICE, log entry 94). -/
def drawnVal (f : Fmt) (w : Nat) : Nat := if f.isPosit then widen32 f w else (dyTo .P32 (Dy.ofInt (f.intVal w))).word

def drawGreedy (f : Fmt) (i0 : Nat) (es : List Elem) : Draw :=
  let live := es.filter (fun e => !e.masked && (elemVal f e.w).isSome)
  match (tkSelect f 1 (live.map (fun e => ⟨e.w, (i0 + e.i) % 2 ^ 32⟩))) with
  | [x] =>
    some (drawnVal f x.w, x.idx)
  | _ => none

def drawGumbel (f : Fmt) (i0 : Nat) (rtemp : Dy) (seed step : Nat) (es : List Elem) : Draw :=
  let live := es.filterMap (fun e =>
    if e.masked then none
    else (elemVal f e.w).map (fun v =>
      let idx := (i0 + e.i) % 2 ^ 32
      let s := (gumbel (uniform seed step idx 1)).map (fun g => (v.mul rtemp).add g)
      TkEntry.mk (roundPosit? 32 .nearestEven s).word idx))
  match tkSelect .P32 1 live with
  | [x] => some (x.w, x.idx)
  | _ => none

/-- Running sums of a list of weights. -/
def runSums (acc : Dy) : List Dy → List Dy
  | [] => []
  | w :: ws => let a := acc.add w; a :: runSums a ws

/-- TOPK (top-p false) and TOPP (true) over a candidate list (R214). -/
def drawList (f : Fmt) (topp : Bool) (rtemp topP : Dy) (seed step : Nat) (es : List TkEntry) : Draw :=
  let valid := es.filter (fun e => decide (e.idx ≠ 0xFFFFFFFF) && (elemVal f e.w).isSome
    && !maskedByValue f e.w)
  match tkSelect f 1 valid with
  | [b] =>
    let m := (elemVal f b.w).getD .zero
    let w := valid.map (fun e =>
      let arg := rtemp.mul (((elemVal f e.w).getD .zero).sub m)
      (positVal 32 (sfuP32 1 (roundPosit 32 .toOdd arg).word)).getD .zero)
    let tot := w.foldl Dy.add .zero
    let kept : Nat :=
      if topp then
        min valid.length (((runSums .zero w).takeWhile (fun r => r.lt (topP.mul tot))).length + 1)
      else valid.length
    let sums := runSums .zero (w.take kept)
    let t := (uniform seed step 0 2).mul (sums.getLastD .zero)
    match (valid.take kept).zip sums |>.find? (fun (_, r) => t.lt r) with
    | some (e, _) =>
      some (drawnVal f e.w, e.idx)
    | none => none
  | _ => none

end Sys2Proof.Machine
end

