-- ==== Sys2Proof/Machine/DrainCalc.lean ====
section
/-! DEFINITION. What the drain path computes (05_quantisation_and_drain.md R164 to R181): the drain control block,
channel records, the five stages, the statistics and the drift tests. -/
namespace Sys2Proof.Machine

/-- The drain control block (R170). -/
structure Dcb where
  outFmt : Nat
  actFn : Nat
  stage1 : Bool
  stats : Bool
  chanTest : Bool
  driftAct : Nat
  layer : Nat
  t : Nat
  tC : Nat
  fb : Nat
  fbC : Nat
  clipThr : Nat
  errThr : Nat
  chrecOff : Nat
  fbDest : Nat
  statDest : Nat
  /-- The byte offset of the first byte with a non-zero reserved bit, if any. -/
  rsv : Option Nat
  deriving DecidableEq, Repr

/-- The DCB of 64 bytes read as one number. -/
def Dcb.ofNat (v : Nat) : Dcb where
  outFmt := nfld v 3 0
  actFn := nfld v 9 4
  stage1 := v.testBit 10
  stats := v.testBit 11
  chanTest := v.testBit 12
  driftAct := nfld v 14 13
  layer := nfld v 31 16
  t := nfld v 63 32
  tC := nfld v 95 64
  fb := nfld v 127 96
  fbC := nfld v 159 128
  clipThr := nfld v 175 160
  errThr := nfld v 223 192
  chrecOff := nfld v 244 224
  fbDest := nfld v 303 256
  statDest := nfld v 367 320
  rsv :=
    if v.testBit 15 then some 0x01
    else if nfld v 191 176 ≠ 0 then some 0x16
    else if nfld v 255 245 ≠ 0 then some 0x1E
    else if nfld v 319 304 ≠ 0 then some 0x26
    else if nfld v 383 368 ≠ 0 then some 0x2E
    else if nfld v 511 384 ≠ 0 then some 0x30
    else none

/-- A channel record (R172). -/
structure ChRec where
  mult : Int
  multC : Nat
  multW : Nat
  bias : Nat
  shift : Nat
  shiftC : Nat
  rsv : Bool
  deriving DecidableEq, Repr

def ChRec.ofNat (v : Nat) : ChRec where
  mult := toSigned 32 (nfld v 31 0)
  multW := nfld v 31 0
  multC := nfld v 63 32
  bias := nfld v 95 64
  shift := nfld v 101 96
  shiftC := nfld v 107 102
  rsv := decide (nfld v 127 108 ≠ 0)

/-- X of R165: the magnitude exponent bound of a source format. -/
def srcX : Fmt → Nat
  | .S32 => 31 | .QP8 => 79 | _ => 143

/-- The LSB exponent of a source format (R164). -/
def srcLsb : Fmt → Int
  | .S32 => 0 | .QP8 => -48 | _ => -112

/-- The value of a source element; none is NaR. -/
def srcVal (f : Fmt) (w : Nat) : Option Dy :=
  match f with
  | .S32 => some (Dy.ofInt (toSigned 32 w))
  | f => quireVal f.quireOf w

/-- Stage 1: multiply and shift, truncated toward zero to a multiple of the LSB; whether it discarded a
non-zero part (R164, R165). -/
def stage1 (f : Fmt) (r : ChRec) (v : Dy) : Dy × Bool :=
  let p := (v.mul (Dy.ofInt r.mult)).scale (-(r.shift : Int))
  let l := srcLsb f
  let i := (p.scale (-l)).truncInt
  let q : Dy := ⟨i, l⟩
  (q, !(q.eq p))

/-- Stage 4's conversion to P32 with round to odd, and the flags of its one flagged case (R167). -/
def toStage4 (v : Dy) : Nat × Flags :=
  let w := (roundPosit 32 .toOdd v).word
  (w, if (pow2 120).lt v.abs then ofNx else {})

/-- One drained element. -/
structure Drained where
  word : Nat
  fl : Flags
  /-- Stage 5 input and delivered value; none for a NaR element. -/
  vq : Option (Dy × Dy)
  clipped : Bool
  deriving DecidableEq, Repr

/-- The value of a delivered word of an output format. -/
def outVal (f : Fmt) (w : Nat) : Dy :=
  if f.isPosit then (positVal f.positBits w).getD .zero
  else if f.isIeee then
    match ieeeDecode f w with
    | .normal v => v
    | _ => .zero
  else Dy.ofInt (f.intVal w)

/-- The stages of R164 for one element: source word, format, T, the channel's record, STAGE1_EN, ACT_FN and
OUT_FMT. -/
def drainElem (src dst : Fmt) (t : Nat) (s1 : Bool) (fn : Nat) (r : ChRec) (w : Nat) : Drained :=
  let nar (f : Flags) : Drained :=
    let o := narTo dst
    ⟨o.word, f.or o.fl, none, false⟩
  match srcVal src w, positVal 32 t, positVal 32 r.bias with
  | some x, some tv, some b =>
    let (x1, nx1) := if s1 then stage1 src r x else (x, false)
    let v3 := (x1.mul tv).add b
    let f1 : Flags := { nx := nx1 }
    if fn = 0 then
      let o := dyTo dst v3
      ⟨o.word, f1.or o.fl, some (v3, outVal dst o.word), o.fl.of⟩
    else
      let (p, f4) := toStage4 v3
      let res := sfuFn fn 120 p
      let ff := (f1.or f4).or res.flags
      match res.val with
      | none => nar ff
      | some v =>
        let o := dyTo dst v
        ⟨o.word, ff.or o.fl, some (v, outVal dst o.word), o.fl.of⟩
  | _, _, _ => nar {}

/-- Statistics of a channel or of the whole `drn` (R177). -/
structure DStat where
  count : Nat := 0
  clip : Nat := 0
  sig : Dy := .zero
  sse : Dy := .zero
  deriving DecidableEq, Repr

/-- The square of a value rounded to odd into P32 (R177). -/
def oddSquare (v : Dy) : Dy :=
  let r := (positVal 32 (roundPosit 32 .toOdd v).word).getD .zero
  r.mul r

def DStat.add (s : DStat) (d : Drained) : DStat :=
  match d.vq with
  | none => s
  | some (v, q) =>
    { count := s.count + 1, clip := s.clip + (if d.clipped then 1 else 0),
      sig := s.sig.add (oddSquare v), sse := s.sse.add (oddSquare (q.sub v)) }

/-- The clip test and the error test of R180. -/
def DStat.clipTest (s : DStat) (thr : Nat) : Bool :=
  decide (s.count ≠ 0) && decide (s.clip * 65536 > thr * s.count)

def DStat.errTest (s : DStat) (thr : Nat) : Bool :=
  decide (s.count ≠ 0) && !s.sig.isZero
    && (match positVal 32 thr with
        | some e => (e.mul s.sig).lt s.sse
        | none => false)

/-- SSE or SIG as P32 in the record, nearest even (R179). -/
def statP32 (v : Dy) : Nat := (roundPosit 32 .nearestEven v).word

/-- A 16-byte entry of the statistics record (R179). -/
def DStat.entry (s : DStat) : Nat :=
  s.count % 2 ^ 32 + (s.clip % 2 ^ 32) <<< 32 + statP32 s.sse <<< 64 + statP32 s.sig <<< 96

end Sys2Proof.Machine
end

