-- ==== Sys2Proof/Machine/HerderTypes.lean ====
section
/-! DEFINITION. The herder's state (07_herder_programming_model.md): two contexts, the shared scoreboard and
park buffer, handle queues, the outbound buffer, and what a stalled instruction waits for. -/
namespace Sys2Proof.Machine

/-- What the next instruction of a context waits for, or why the context does not issue (R237, R244, R251,
R254, R262, R272, R283, R320). -/
inductive Wait where
  /-- Nothing: the context issues. -/
  | none
  /-- A scoreboard entry, an outbound-buffer slot, a dep slot, an interlock, or exit's conditions: the
  instruction has not issued and issues again when the cause is gone (R272, R284). -/
  | issue
  /-- `hget` on an empty queue; the queue and the destination register (R251). -/
  | hget (q sd : Nat)
  /-- `at`: the count waited for (R254). -/
  | time (count : Nat)
  /-- `wait`: the awaited ticket and the status destination (R237). -/
  | ticket (tk sd : Nat)
  /-- `wait.all` and `wait.cls`: the class mask, and the serial number below which instructions count. -/
  | classes (mask serial : Nat)
  /-- `fence`: the scopes and the serial number below which instructions count (R244). -/
  | fence (scope serial : Nat)
  /-- `rqsc` until every user stream has halted (R320). -/
  | quiesce
  deriving DecidableEq, Repr

/-- Whether a context holds a task, and how it stopped (R262). -/
inductive CtxSt where
  | idle | run | haltedExc | haltedLockstep | draining
  deriving DecidableEq, Repr

/-- The task a context runs: its ring and its packet's count. -/
structure TaskRef where
  ring : Nat := 0
  count : Nat := 0
  deriving DecidableEq, Repr

/-- A `dep` (R242): consumers issued at or after `serial` wait for the producers. One whose producers have completed
names none; it keeps its place while an older one is unsatisfied (08 R318). -/
structure Dep where
  serial : Nat
  cmask : Nat
  prods : List Nat
  deriving DecidableEq, Repr

/-- One register context (R221, R224). Registers that hold zero are unlisted. -/
structure Ctx where
  st : CtxSt := .idle
  wait : Wait := .none
  level : Level := .u
  task : Option TaskRef := none
  persist : Bool := false
  /-- The program in this context's region of the instruction memory, one word per entry (R227, R420). -/
  prog : List (BitVec 64) := []
  s : SMap Word := []
  a : SMap (BitVec 48) := []
  p : SMap Bool := []
  t : SMap (BitVec 256) := []
  q : BitVec 512 := 0
  pc : Nat := 0
  /-- The last ticket issued; 0 before the first (R233). -/
  ticket : Nat := 0
  /-- The tickets have wrapped since task start (R237). -/
  wrapped : Bool := false
  /-- Tensor instructions issued by the context since task start. -/
  serial : Nat := 0
  /-- Status words of the last 64 tickets, by ticket mod 64 (R238). -/
  status : SMap Word := []
  deps : List Dep := []
  /-- An exception was recorded and the front end has not been told yet (R260, R394). -/
  signal : Bool := false
  /-- How the context halted, and the code of the exception: what STATE and the completion record show while the
  context drains (R230, R260, R262). -/
  excHalt : Bool := false
  lockHalt : Bool := false
  excCode : Nat := 0
  deriving DecidableEq, Repr

/-- How far a scoreboard entry has come: issued, handed to (or accepted by) its engine, or faulted and
waiting for its completion (R284, R286, R287). -/
inductive Phase where
  | issued | begun | done
  deriving DecidableEq, Repr

/-- One issued tensor instruction with the operands it read in its issue cycle (R232). -/
structure Entry where
  kctx : Bool := false
  serial : Nat := 0
  ticket : Nat := 0
  pc : Nat := 0
  cls : Cls := .pack
  word : BitVec 64 := 0
  /-- t-register operands, in the order of the word's fields. -/
  t1 : BitVec 256 := 0
  t2 : BitVec 256 := 0
  t3 : BitVec 256 := 0
  t4 : BitVec 256 := 0
  /-- Scalar and address operands. -/
  x1 : Word := 0
  x2 : Word := 0
  a1 : BitVec 48 := 0
  a2 : BitVec 48 := 0
  phase : Phase := .issued
  /-- An asynchronous fault detected: exception code and HRD_EXC_INFO (R258, R287). -/
  fault : Option (Exc × Nat) := none
  /-- Status bits [7:0] gathered so far, DONE and FAULT apart (R239). -/
  bits : Nat := 0
  deriving DecidableEq, Repr

/-- A handle in the outbound buffer, where it stays until its queue has accepted it (R248, R249). -/
structure OutHandle where
  kctx : Bool := false
  target : Word := 0
  q : Nat := 0
  handle : Word := 0
  pc : Nat := 0
  /-- REL: 1 for release mode NONE. -/
  relNone : Bool := false
  /-- Tensor instructions of the context with a lower serial gate the release (R248). -/
  serial : Nat := 0
  /-- The handle has left the buffer for its target and no answer has come yet. -/
  sent : Bool := false
  /-- The last attempt was refused and the handle is resent every 64 cycles (R249). -/
  refused : Bool := false
  /-- The tag of the request that carries it to another module (12 R464). -/
  tag : Nat := 0
  deriving DecidableEq, Repr

/-- A program and register values on their way to a tile (R422). -/
structure Launch where
  kctx : Bool := false
  task : TaskRef := {}
  rank : Nat := 0
  size : Nat := 1
  arg : Word := 0
  prog : List (BitVec 64) := []
  persist : Bool := false
  deriving DecidableEq, Repr

/-- The herder of one tile. -/
structure Herder where
  user : Ctx := {}
  kern : Ctx := { level := .k }
  /-- The kernel context issues (R262 KCTX). -/
  kctx : Bool := false
  /-- The user context is stopped for a kernel task (R255). -/
  preempted : Bool := false
  board : List Entry := []
  park : List Entry := []
  hq : SMap (List Word) := []
  out : List OutHandle := []
  launches : List Launch := []
  /-- Global time of the task's last advance, per context: what the stall timer counts from (R427). -/
  advU : Nat := 0
  advK : Nat := 0
  deriving DecidableEq, Repr

end Sys2Proof.Machine
end

