-- ==== Sys2Proof/Machine/FrontTypes.lean ====
section
/-! DEFINITION. The front end's state (11_command_front_end.md): rings with their counts and packets, the
stored-program table, translation-cache contents, sit mode, and the messages sent to the host. -/
namespace Sys2Proof.Machine

/-- How far a fetched packet has come. -/
inductive PktSt where
  /-- Read from the ring, not yet validated (R408). -/
  | fetched
  /-- Validated; waits for dispatch or execution (R411). -/
  | valid
  /-- A dispatched task (R417). -/
  | running
  /-- A running task that is drained, with its cause code of FE_HANG_LOG and the drain's start (R429). -/
  | draining (cause start : Nat)
  /-- A command whose effect is under way (PART_STOP, PART_RESET, CANCEL, SIT). -/
  | busy
  /-- Ended: its record is written and it waits for its turn to retire (R424). -/
  | ended
  deriving DecidableEq, Repr

/-- The results of a completion record (R423). -/
inductive TaskRes where
  | ok | fault | hung | killed | cancelled | sit | rejected | partReset
  deriving DecidableEq, Repr

def TaskRes.code : TaskRes → Nat
  | .ok => 0 | .fault => 1 | .hung => 2 | .killed => 3 | .cancelled => 4 | .sit => 5 | .rejected => 6
  | .partReset => 7

/-- One fetched packet and its task's progress. -/
structure Pkt where
  count : Nat := 0
  /-- The 64 bytes as eight words. -/
  words : List Word := []
  st : PktSt := .fetched
  /-- Position in validation order (R408). -/
  order : Nat := 0
  /-- The program's byte ranges as translated at validation (R388, R413, R421). -/
  prog : List (Nat × Nat) := []
  version : Nat := 0
  start : Nat := 0
  started : Bool := false
  missed : Bool := false
  preempted : Bool := false
  result : TaskRes := .ok
  code : Nat := 0
  tile : Nat := 0x7FF
  /-- Global time of the end, and whether the record has been written (R423). -/
  endAt : Nat := 0
  recorded : Bool := false
  /-- Global time of the doorbell that covered the packet (R434). -/
  dbAt : Nat := 0
  deriving DecidableEq, Repr

/-- One version of a stored program (R421). -/
structure ProgVer where
  id : Nat
  version : Nat
  addr : Nat
  plen : Nat
  current : Bool
  live : Nat
  deriving DecidableEq, Repr

/-- The front end's own state of one ring (R404). FE_RING_* values lie in the register file. -/
structure Ring where
  tail : Nat := 0
  fetched : Nat := 0
  done : Nat := 0
  /-- The stored complements of TAIL, FETCHED and DONE (R404). -/
  tailC : Nat := 0xFFFFFFFF
  fetchedC : Nat := 0xFFFFFFFF
  doneC : Nat := 0xFFFFFFFF
  /-- FE_RING_BASE and FE_RING_CBASE have been written since reset (R436). -/
  baseWritten : Bool := false
  cbaseWritten : Bool := false
  /-- A pair of the ring failed its check: no fetching, no dispatching (15 R588). -/
  broken : Bool := false
  /-- The accepted doorbells that cover packets not yet fetched: their TAIL and their global time (R434). -/
  bells : List (Nat × Nat) := []
  pkts : List Pkt := []
  deriving DecidableEq, Repr

/-- The turn of a scheduling set, named by its bound group's FE_RING_GRP value (R415, R418). -/
structure Turn where
  part : Nat
  grp : Nat
  holder : Option Nat
  since : Nat
  /-- The last holder with RT = 0. -/
  lastNon : Nat
  deriving DecidableEq, Repr

/-- One cached translation: the virtual page and the table entry that maps it (10 R392). -/
structure XltEntry where
  part : Nat
  page : Nat
  big : Bool
  base : Nat
  w : Bool
  pin : Bool
  deriving DecidableEq, Repr

/-- What the block reports to the host or the chain, oldest first (11 R426, 15 R571, 18 R682). -/
inductive HostMsg where
  | msix (vector : Nat)
  | aerFatal
  | aerUR (fn bar off : Nat)
  deriving DecidableEq, Repr

/-- What the last host read got (18 R685): its data, Unsupported Request, or no data because the memory does not read
(10 R375). -/
inductive HostRead where
  | none
  | data (bytes : List (BitVec 8))
  | unsupported
  | noData
  deriving DecidableEq, Repr

/-- Progress of SIT (R431, R432). -/
structure SitState where
  on : Bool := false
  done : Bool := false
  lat : Nat := 0
  began : Nat := 0
  /-- The ring whose SIT packet runs, and its count. -/
  cmd : Option TaskRef := none
  /-- Tiles the broadcast has not reached. -/
  toReach : List Nat := []
  /-- Tiles that have not reported. -/
  toReport : List Nat := []
  deriving DecidableEq, Repr

structure FrontEnd where
  rings : SMap Ring := []
  progs : SMap (List ProgVer) := []
  /-- The newest version number of an ID, by 256 × partition + ID (R421). -/
  progLast : SMap Nat := []
  turns : List Turn := []
  /-- The user ring served last by the round robin (R408). -/
  lastUser : Nat := 1023
  /-- Packets validated so far. -/
  order : Nat := 0
  /-- Partitions with PART_STOP in effect (R440). -/
  stopped : List Nat := []
  cache : List XltEntry := []
  sit : SitState := {}
  /-- Fetching stopped by a Crimson error (15 R571). -/
  halted : Bool := false
  deriving DecidableEq, Repr

end Sys2Proof.Machine
end

