-- ==== Sys2Proof/Machine/PackTypes.lean ====
section
/-! DEFINITION. The pack's state (03_tile_and_pack.md, 04_accumulation.md, 05_quantisation_and_drain.md R153 to
R163): weight blocks, passes, vectors in flight, feeders and scale companions, in-cell registers. -/
namespace Sys2Proof.Machine

/-- A weight block as loaded (R77, R96): its place and shape, and its columns of weight words. The row sums,
column sums and weight maxima that the load unit records are functions of these words. -/
structure Block where
  base : Nat
  fmt : Fmt
  n : Nat
  k : Nat
  gang : Nat
  cols : List (List Nat)
  deriving DecidableEq, Repr

/-- One column's result of one vector: the promoted partial (none for NaR), the unscaled partial U, and the
column's part of the bound T (R123, 15 R574, R577). -/
structure ColRes where
  part : Option Dy
  u : Dy
  t : Dy
  deriving DecidableEq, Repr

/-- One vector of one stream on its way through the array: its columns, its checksum columns, whether it is compared at all (15 R578), its truncation NX (R120, R121), and a failed scale pair (R159). -/
structure StreamRes where
  cols : List ColRes
  /-- The checksum columns' U and T, one for each 32 product columns (four in WIDE). -/
  chks : List (Dy × Dy)
  compared : Bool
  nx : Bool
  badScale : Bool
  deriving DecidableEq, Repr

/-- Vector m of a pass, in the rows or the column drain: its elements, one list per stream (R82). -/
structure Flight where
  m : Nat
  elems : List (List Nat)
  deriving DecidableEq, Repr

/-- An entry of a streamed scale tensor and the address it was read from (R158). -/
structure ScaleEnt where
  entry : BitVec 32
  addr : Nat
  deriving DecidableEq, Repr

/-- A copy of one vector of one stream and of the companion entries it used (R101). -/
structure ReplayVec where
  m : Nat
  stream : Nat
  elems : List Nat
  scales : List ScaleEnt
  deriving DecidableEq, Repr

/-- One pass (R85 to R91): the `mma` it belongs to, by serial and context, and its operands. -/
structure Pass where
  serial : Nat := 0
  kctx : Bool := false
  word : BitVec 64 := 0
  tw : BitVec 256 := 0
  tq : BitVec 256 := 0
  z : Int := 0
  gang : Nat := 0
  /-- QNT_CFG bits of the governing array at issue (R155). -/
  scaleSrc : Bool := false
  layout : Bool := false
  /-- The block, once loaded or taken from the front plane. -/
  block : Option Block := none
  loaded : Bool := false
  /-- Channel scales copied in cycle S, one P16 word per column, with failed pairs (R156). -/
  scales : List Nat := []
  scaleBad : List Bool := []
  /-- The per-pass record of a streamed scale tensor, in entry order (R158). -/
  record : List ScaleEnt := []
  /-- Vectors entered. -/
  entered : Nat := 0
  flight : List Flight := []
  drained : Nat := 0
  /-- Vectors that failed their comparison, as 4 × vector + stream (15 R580). -/
  failed : List Nat := []
  flags : Flags := {}
  /-- Vectors whose window truncation set NX, for ARR_TRUNC_CNT (R151). -/
  truncs : Nat := 0
  rerun : Bool := false
  /-- The vectors a re-run writes, as in `failed` (R101). -/
  only : List Nat := []
  replay : List ReplayVec := []
  /-- An injected checksum error met this pass (15 R594 code 4). -/
  inj : Bool := false
  fault : Option (Exc × Nat) := none
  deriving DecidableEq, Repr

/-- One array, or the logical array of a gang in place of array 0 (R82). -/
structure Arr where
  front : Option Block := none
  queue : List Pass := []
  /-- Re-runs waiting for the loading slot (R101). -/
  reruns : List Pass := []
  loading : Option Pass := none
  streaming : Option Pass := none
  /-- Passes whose vectors have all entered, oldest first, until their report. -/
  flying : List Pass := []
  /-- The oldest vector in flight has come to a tap or to stage 29 that it could not pass: while its cause holds, the
  array is frozen (R93). -/
  due : Bool := false
  /-- Unscaled checksum sums of a P8 group: (stream, vector), the checksum column's and the columns' (15 R574). -/
  csum : List ((Nat × Nat) × (Dy × Dy)) := []
  deriving DecidableEq, Repr

/-- One vector waiting in a feeder (R89, 09 R341); none is a pad mark (R103, 09 R342). -/
abbrev FeedVec := List (Option Nat)

/-- A configuration write that waits for older `mma` instructions (08 R292) or for an idle pack (R84). -/
structure CfgWrite where
  addr : Nat
  value : Word
  /-- `mma` instructions of the user and kernel contexts with a lower serial come first. -/
  serialU : Nat
  serialK : Nat
  deriving DecidableEq, Repr

structure Pack where
  /-- The gang mode in effect (R106 GANG_ACTIVE). -/
  gang : Nat := 0
  /-- A written GANG waits for the pack to go idle. -/
  gangPend : Option Nat := none
  cfgWrites : List CfgWrite := []
  /-- Passes of `mma` instructions that a `dep` keeps from reaching their arrays, in issue order (07 R242). -/
  held : List Pass := []
  arrs : SMap Arr := []
  feed : SMap (List FeedVec) := []
  comp : SMap (List ScaleEnt) := []
  /-- In-cell registers with FULL set: key (array × 8 + register) × 32 + column (04 R129). -/
  icr : SMap (BitVec 32) := []
  /-- The herder's pending-full states, keyed as the registers are (04 R131). -/
  pendFull : List Nat := []
  /-- User passes withdrawn for a kernel task (07 R255), and re-runs among them with their bitmaps. -/
  parked : List Pass := []
  /-- Arrays whose scale commit waits for its boundary (16 R623). -/
  sclPend : List Nat := []
  deriving DecidableEq, Repr

/-- One 64-byte beat of a running-sum or top-k chain (04 R140, R149). -/
structure Beat where
  /-- The sending tile, and its device when that is another module. -/
  src : Nat
  srcDev : Option Nat := none
  /-- The tile it goes to, and that tile's device when it is another module. -/
  dst : Nat
  dstDev : Option Nat := none
  /-- The beat lies on the return leg (R144). -/
  ret : Bool := false
  list : Bool := false
  /-- The address of its elements: at the destination, and on the return leg at the sender. -/
  addr : Nat := 0
  fmt : Nat := 0
  last : Bool := false
  poison : Bool := false
  /-- Of a beat that came over a link: what its response names (12 R464). -/
  part : Nat := 0
  tag : Nat := 0
  at_ : Nat := 0
  bytes : List (BitVec 8) := []
  deriving DecidableEq, Repr

/-- A chain stage of a `red`, or of a chain `topk`, that has been handed over (04 R139 to R149). -/
structure Stage where
  serial : Nat := 0
  kctx : Bool := false
  list : Bool := false
  /-- The stage accepts beats (R141). -/
  armed : Bool := false
  /-- The bytes of its elements or its list, and those of the next stage with its device (R139). -/
  lo : Nat := 0
  hi : Nat := 0
  nlo : Nat := 0
  nhi : Nat := 0
  ndev : Option Nat := none
  /-- ROLE, 1 HEAD, 2 MID, 3 TAIL, and the return-leg flag. -/
  role : Nat := 0
  ret : Bool := false
  fmt : Fmt := .S32
  /-- Forward beats handled, by a HEAD sent, and beats of the return leg handled. -/
  next : Nat := 0
  retNext : Nat := 0
  /-- The source of the forward beats, where the return leg goes: device and tile. -/
  from_ : Option (Option Nat × Nat) := none
  /-- Beats to be sent that wait for a tag or for room downstream (R141). -/
  outq : List Beat := []
  /-- The fault of the stage: a poisoned beat was written or sent (R696), or a route failed. -/
  bad : Option (Exc × Nat) := none
  /-- The stage's own top-k list, once selected (06 R208), and what has come of the incoming one. -/
  own : List (BitVec 64) := []
  got : List (BitVec 64) := []
  gotBad : Bool := false
  merged : Bool := false
  deriving DecidableEq, Repr

/-- Beats still to come for an abandoned stage: they are discarded (11 R429). Once the drain is complete nothing on
this module sends to it any more, and only beats of other modules are waited for (`far`). -/
structure Drop where
  far : Bool := false
  ret : Bool
  list : Bool
  dev : Option Nat
  lo : Nat
  hi : Nat
  n : Nat
  deriving DecidableEq, Repr

/-- The chain stages of a tile, oldest first, and the beats of abandoned stages. -/
structure Chain where
  stages : List Stage := []
  drops : List Drop := []
  deriving DecidableEq, Repr

end Sys2Proof.Machine
end

