-- ==== Sys2Proof/Machine/RetrTypes.lean ====
section
/-! DEFINITION. The retriever's state (09_retriever_streams.md): queues of streams, the tensors and descriptors they
work on, their requests and converted elements, bursts, faults, and the sled chain. -/
namespace Sys2Proof.Machine

/-- What a stream does (08 R296, R294, 09 R334, R349). -/
inductive SKind where
  | feed | copy | desc | ldwCopy | ldwHead | ldwMember | ldwTail
  deriving DecidableEq, Repr

/-- What one unit of a stream moves (R334). -/
inductive WKind where
  | copy | feed | conv | scale
  deriving DecidableEq, Repr

/-- The tensor or descriptor a stream works on: formats, six counts, strides, addresses and position (R337,
R338). -/
structure Work where
  id : Nat := 0
  kind : WKind := .copy
  /-- The descriptor's address; 0 without descriptors (R363). -/
  desc : Nat := 0
  sfmt : Fmt := .P8
  dfmt : Fmt := .P8
  cnt : List Nat := []
  src : Nat := 0
  /-- Source strides of dimensions 1 to 5. -/
  sstr : List Int := []
  dst : Nat := 0
  /-- Destination strides of the dimension that is not contiguous there, and of dimensions 2 to 5. -/
  dstr : List Int := []
  trans : Bool := false
  /-- The module a remote side lies on. -/
  rsrc : Option Nat := none
  rdst : Option Nat := none
  /-- The feeder and companion buffer fed: the array, in SHARE the stream (R341). -/
  feeder : Nat := 0
  /-- The geometry of a CONV (R342). -/
  geom : Word := 0
  /-- Next element to read, in iteration order, and whether the first half of it has been asked for. -/
  pos : Nat := 0
  half : Bool := false
  /-- Next element to deliver or write. -/
  done : Nat := 0
  /-- Converted elements not yet delivered: index and word; none is a pad mark. -/
  buf : List (Nat × Option Nat) := []
  /-- The half that has come of an element that two requests carry. -/
  frag : List (Nat × List (BitVec 8)) := []
  deriving DecidableEq, Repr

/-- A read request on its way: the elements it carries and where it reads (R325, R326). `part` is 0 for whole
elements, 1 or 2 for half of one. -/
structure RdReq where
  work : Nat
  first : Nat
  n : Nat
  part : Nat := 0
  /-- The address of the stream, and the device-physical one. -/
  va : Nat
  addr : Nat := 0
  bytes : Nat
  dev : Option Nat := none
  /-- A remote request's transaction tag (12 R464). -/
  tag : Nat := 0
  /-- The burst of a descriptor fetch, whose word `first` it reads (R344). -/
  blk : Option Nat := none
  /-- Its place among the requests the retriever has issued (01 R23). -/
  seq : Nat := 0
  /-- What a register page has answered (R324). -/
  got : Option (List (BitVec 8)) := none
  deriving DecidableEq, Repr

/-- A write request, waiting or on its way: byte runs of one 64-byte block. -/
structure WrReq where
  work : Nat
  /-- The descriptor it belongs to; 0 without descriptors (R363). -/
  desc : Nat := 0
  /-- The block's address in the stream, and the device-physical one. -/
  va : Nat
  addr : Nat := 0
  segs : List (Nat × List (BitVec 8))
  dev : Option Nat := none
  tag : Nat := 0
  seq : Nat := 0
  /-- Nothing more joins it. -/
  closed : Bool := false
  /-- The write has been performed at its target; it is not while it is held for a sleeping tile or on a link. -/
  arrived : Bool := false
  deriving DecidableEq, Repr

/-- A halted stream's fault (R354). -/
structure StrFault where
  desc : Nat
  va : Nat
  write : Bool
  reported : Bool := false
  deriving DecidableEq, Repr

/-- One beat of a sled chain: the header or 64 bytes of the block (R349), from a tile of this or another module. -/
structure SledBeat where
  src : Nat
  srcDev : Option Nat := none
  /-- The sending `ldw`, to which the last beat's acceptance is reported. -/
  kctx : Bool := false
  serial : Nat := 0
  dst : Nat
  dstDev : Option Nat := none
  header : Bool := false
  fmt : Nat := 0
  /-- The block's bytes. -/
  count : Nat := 0
  /-- Of a beat that came over a link: what its response names (12 R464). -/
  part : Nat := 0
  tag : Nat := 0
  headDev : Nat := 0
  headTile : Nat := 0
  last : Bool := false
  bytes : List (BitVec 8) := []
  deriving DecidableEq, Repr

/-- A word of a burst: fetched, to be asked for, asked for, or outside the partition's reach (R336, R344). -/
inductive BurstWord where
  | data (v : BitVec 512)
  | want
  | wait
  | outside
  deriving DecidableEq, Repr

structure Strm where
  serial : Nat := 0
  kctx : Bool := false
  kind : SKind := .feed
  qid : Nat := 0
  /-- The stream issues (R323). -/
  started : Bool := false
  /-- Its last request has issued. -/
  issued : Bool := false
  /-- Open descriptors, oldest first: the last one issues. -/
  works : List Work := []
  /-- Descriptors taken up so far. -/
  taken : Nat := 0
  /-- The next descriptor must be a SCALE for this feeder (R343). -/
  needScale : Option Nat := none
  /-- Next descriptor address, the bursts held by block address, and the wait at a MARK (R344, R346). -/
  next : Nat := 0
  bursts : List (Nat × List BurstWord) := []
  mark : Bool := false
  /-- Nothing follows the open descriptors. -/
  listEnd : Bool := false
  reads : List RdReq := []
  /-- Reads cancelled by quiescence, to be issued again first (R357). -/
  again : List RdReq := []
  wq : List WrReq := []
  wout : List WrReq := []
  fault : Option StrFault := none
  quiesced : Bool := false
  /-- The stream stops: nothing more is issued and returning data is discarded (08 R287, 11 R429). -/
  stopping : Bool := false
  /-- Sled chain: the header has been handled and disagrees with TD, the sender, bytes sent on or written, the bytes
  not yet sent, beats that wait for a tag, and the next stage's acceptance of the last beat (R349 to R351). -/
  header : Bool := false
  badHeader : Bool := false
  from_ : Option (Option Nat × Nat) := none
  total : Nat := 0
  sent : Nat := 0
  sledBuf : List (BitVec 8) := []
  sledOut : List SledBeat := []
  acceptPend : Bool := false
  deriving DecidableEq, Repr

/-- Beats still to come for an abandoned `ldw`: they are discarded (11 R429); `far` as for a chain stage. -/
structure SledDrop where
  /-- The sender, once a header has come. -/
  from_ : Option (Option Nat × Nat)
  /-- Bytes of the block still to come. -/
  left : Nat
  far : Bool := false
  deriving DecidableEq, Repr

structure Retr where
  /-- The streams of all queues, in acceptance order. -/
  strms : List Strm := []
  /-- The queue the mesh port served last (R330). -/
  lastQ : Nat := 7
  /-- Requests issued so far. -/
  seq : Nat := 0
  /-- Requests issued in the running window: read, write, remote (R329). -/
  winR : Nat := 0
  winW : Nat := 0
  winX : Nat := 0
  /-- RTV_STATUS.QUIESCED (R362). -/
  quiesced : Bool := false
  /-- The tile's translation cache, oldest entry first (10 R392). -/
  cache : List XltEntry := []
  sledDrop : List SledDrop := []
  /-- The router's sled buffer (R350). -/
  sled : List SledBeat := []
  /-- Blocks of discarded writes of a draining partition, with their module: a partition reset poisons them (10
  R396). -/
  unsent : List (Nat × Option Nat) := []
  deriving DecidableEq, Repr

end Sys2Proof.Machine
end

