-- ==== Sys2Proof/Machine/LinkTypes.lean ====
section
/-! DEFINITION. The state of the Hiric links (12_hiric_links.md): training, flits, replay, credits, the
transactions of R464, outstanding requests of this module, and enumeration. -/
namespace Sys2Proof.Machine

/-- Link states (R449). -/
inductive LnkSt where
  | disabled | detect | equalize | align | caps | measure | active | narrow | down
  deriving DecidableEq, Repr

def LnkSt.code : LnkSt → Nat
  | .disabled => 0 | .detect => 1 | .equalize => 2 | .align => 3 | .caps => 4 | .measure => 5
  | .active => 6 | .narrow => 7 | .down => 8

/-- DOWN_REASON (R489). -/
inductive DownReason where
  | none | disabled | train | loss | lanes | caps | fw | self | long | signal | ladder | partner
  deriving DecidableEq, Repr

def DownReason.code : DownReason → Nat
  | .none => 0 | .disabled => 1 | .train => 2 | .loss => 3 | .lanes => 4 | .caps => 5 | .fw => 6
  | .self => 7 | .long => 8 | .signal => 9 | .ladder => 10 | .partner => 11

/-- Virtual channels (R458). -/
inductive VC where
  | req | rsp | sled | chain | msg
  deriving DecidableEq, Repr

def VC.code : VC → Nat
  | .req => 0 | .rsp => 1 | .sled => 2 | .chain => 3 | .msg => 4

def VC.ofCode : Nat → Option VC
  | 0 => some .req | 1 => some .rsp | 2 => some .sled | 3 => some .chain | 4 => some .msg | _ => none

/-- Receive-buffer slots of a virtual channel (R458). -/
def VC.slots : VC → Nat
  | .req => 512 | .rsp => 512 | .sled => 256 | .chain => 256 | .msg => 64

/-- Transaction types (R465). -/
inductive TType where
  | rd | wr | aadd | qadd | list | hput | doorbell | time | enum | rdr | wra | aadr | qaa | hpa
  deriving DecidableEq, Repr

def TType.code : TType → Nat
  | .rd => 0x01 | .wr => 0x02 | .aadd => 0x03 | .qadd => 0x04 | .list => 0x05 | .hput => 0x06
  | .doorbell => 0x08 | .time => 0x09 | .enum => 0x0A | .rdr => 0x11 | .wra => 0x12 | .aadr => 0x13
  | .qaa => 0x14 | .hpa => 0x15

def TType.ofCode : Nat → Option TType
  | 0x01 => some .rd | 0x02 => some .wr | 0x03 => some .aadd | 0x04 => some .qadd | 0x05 => some .list
  | 0x06 => some .hput | 0x08 => some .doorbell | 0x09 => some .time | 0x0A => some .enum
  | 0x11 => some .rdr | 0x12 => some .wra | 0x13 => some .aadr | 0x14 => some .qaa | 0x15 => some .hpa
  | _ => none

def TType.isResp : TType → Bool
  | .rdr | .wra | .aadr | .qaa | .hpa => true
  | _ => false

/-- The response type of a request (R465). -/
def TType.answer : TType → TType
  | .rd => .rdr | .aadd => .aadr | .qadd => .qaa | .list => .qaa | .hput => .hpa | _ => .wra

/-- STATUS of a response (R466). -/
inductive TStat where
  | ok | refused | denied | noRoute | lost | poison
  deriving DecidableEq, Repr

def TStat.code : TStat → Nat
  | .ok => 0 | .refused => 1 | .denied => 2 | .noRoute => 3 | .lost => 4 | .poison => 5

def TStat.ofCode : Nat → TStat
  | 1 => .refused | 2 => .denied | 3 => .noRoute | 4 => .lost | 5 => .poison | _ => .ok

/-- A transaction: the header fields of R464 and the data bytes it carries. -/
structure Txn where
  type : TType := .rd
  hops : Nat := 0
  dst : Nat := 0x3FFF
  src : Nat := 0x3FFF
  srcTile : Nat := 0x7FF
  part : Nat := 0
  tag : Nat := 0
  addr : Nat := 0
  /-- LEN: for RD the bytes asked for, else the bytes carried; 1 to 64. -/
  len : Nat := 1
  fmt : Nat := 0
  status : Nat := 0
  vc : VC := .req
  data : List (BitVec 8) := []
  deriving DecidableEq, Repr

/-- A transaction in a receive buffer, with its last flit's TXT and its receive time in units of 2^-16 ns. -/
structure RxTxn where
  txn : Txn
  txt : Nat := 0
  stamp : Nat := 0
  /-- This module's own: it came over no link and took no slots of the buffer. -/
  own : Bool := false
  deriving DecidableEq, Repr

/-- One 16-byte slot of a flit: whether it begins a transaction, and its content (R454). -/
structure Slot where
  start : Bool
  word : BitVec 128
  deriving DecidableEq, Repr

/-- A received 257-bit block, with its codeword's mark as uncorrectable (R446, R448). -/
structure RxBlock where
  bits : BitVec 257
  bad : Bool := false
  deriving DecidableEq, Repr

/-- A DATA flit in the replay buffer: its SEQ, its slots and the transactions with a slot in it (R460). -/
structure KeptFlit where
  seq : Nat
  slots : List Slot
  txns : List Txn
  deriving DecidableEq, Repr

/-- A command of a link-control flit, with its argument, device ID and capability record (R459). -/
structure LcfCmd where
  cmd : Nat := 0
  arg : Nat := 0
  id : Nat := 0
  caps : List (BitVec 8) := []
  deriving DecidableEq, Repr

/-- What the partner's capability record said (R453, R491). -/
structure Partner where
  id : Nat := 0x3FFF
  link : Nat := 0
  serial : Nat := 0
  rates : Nat := 0
  lanes : Nat := 0
  msgset : Nat := 0
  mcf : Nat := 0
  hcf : Nat := 0
  deriving DecidableEq, Repr

/-- One link. LNK_CTL, LNK_ERR_CNT and LNK_FEC_CNT lie in the register file. -/
structure Link where
  st : LnkSt := .disabled
  reason : DownReason := .none
  /-- Returns to DETECT in a row (R450). -/
  returns : Nat := 0
  /-- The link has been ACTIVE since the module reset (R478). -/
  wasActive : Bool := false
  /-- A lane that an injection keeps from transmitting until the link retrains (15 R594). -/
  mute : Option Nat := none
  routed : Bool := false
  narrow : Bool := false
  slow : Bool := false
  lanes : Nat := 0
  /-- The lanes that aligned at this end, as its capability record reports them (R453). -/
  aligned : Nat := 0
  loss : Nat := 0
  ploss : Nat := 0
  rtt : Nat := 0
  flight : Nat := 0
  partner : Partner := {}
  /-- Flit position since ACTIVE (R457). -/
  pos : Nat := 0
  /-- Transactions queued for the port, and slots of the transaction whose first slots have left. -/
  txq : List Txn := []
  cut : Option (Txn × List Slot) := none
  /-- SEQ of the next new DATA flit, and the unacknowledged flits, oldest first (R460). -/
  nextSeq : Nat := 0
  kept : List KeptFlit := []
  /-- A replay is in progress: flits of `kept` still to be resent (R462). -/
  replay : Option Nat := none
  attempts : Nat := 0
  /-- A recovery episode: the highest SEQ sent before it began, and the lane counts at its start (R476). -/
  episode : Option (Nat × List Nat × List Nat) := none
  /-- Global time at which the running or last episode began (15 R591). -/
  epAt : Nat := 0
  /-- SEQ of the last DATA flit accepted in order, 0xFFF before the first; NAK to be sent (R461). -/
  ack : Nat := 0xFFF
  nak : Bool := false
  /-- Slots of a transaction whose last slot has not arrived (R467). -/
  part : List Slot := []
  rx : List RxTxn := []
  /-- By VC code: slots freed here, slots the partner freed, slots sent (R458). -/
  freed : SMap Nat := []
  granted : SMap Nat := []
  sentSlots : SMap Nat := []
  /-- Corrected symbols per lane of this receiver, and as the partner reports its own (R459). -/
  corr : List Nat := []
  pcorr : List Nat := []
  /-- The command of the LCFs sent, and the last command received and not yet acted on. -/
  lcfOut : LcfCmd := {}
  /-- The device ID to report in every LCF that carries no other command (R459, R486). -/
  idOut : Option Nat := none
  lcfIn : Option LcfCmd := none
  /-- NARROW_REQ sent and not answered: the half asked for. -/
  narrowReq : Option Nat := none
  /-- The half of NARROW (R477). -/
  half : Nat := 0
  /-- The last flit sent, the blocks of the flit stream that fill no codeword yet, and the codewords that the last
  transmission completed, as symbols in the order sent (R446, R447). -/
  flit : List (BitVec 8) := []
  blocks : List (BitVec 257) := []
  wire : List (List (BitVec 10)) := []
  /-- Received blocks of flits not yet taken, and whether the receiver has locked on an F bit (R446, R449). -/
  rxBlocks : List RxBlock := []
  rxLock : Bool := false
  deriving DecidableEq, Repr

/-- What an outstanding request of this module was for (R466). -/
inductive Purpose where
  /-- A read or a write of the stream of a tile's queue, named by context and serial. -/
  | rtvRead (tile : Nat) (kctx : Bool) (serial : Nat)
  | rtvWrite (tile : Nat) (kctx : Bool) (serial : Nat)
  /-- An output write of a `drn`. -/
  | drnWrite (tile : Nat) (kctx : Bool) (serial : Nat)
  /-- A handle of a tile's outbound buffer; its tag names it. -/
  | handle (tile : Nat)
  /-- A chain beat of a `red` or `topk`, or a sled beat of an `ldw`. -/
  | chainBeat (tile : Nat) (kctx : Bool) (serial : Nat)
  | sledBeat (tile : Nat) (kctx : Bool) (serial : Nat) (last : Bool)
  /-- A poison write of a partition reset (10 R396). -/
  | poison (part : Nat)
  /-- The link mailbox (R495). -/
  | mailbox
  deriving DecidableEq, Repr

/-- One outstanding request: its source tile and tag, and its purpose (R464). -/
structure Outst where
  tile : Nat
  tag : Nat
  what : Purpose
  /-- The link whose port it was sent through (15 R591). -/
  port : Nat
  deriving DecidableEq, Repr

/-- Enumeration at this module (R483 to R486). -/
structure EnumSt where
  started : Bool := false
  root : Bool := false
  rootId : Nat := 0
  devid : Nat := 0x3FFF
  next : Nat := 0
  parent : Option Nat := none
  /-- The link visited, whose token has not come back. -/
  waiting : Option Nat := none
  /-- The module holds the token and has not returned it. -/
  holding : Bool := false
  done : Bool := false
  fail : Bool := false
  cause : Nat := 0
  nextOut : Nat := 0
  xmismatch : Bool := false
  deriving DecidableEq, Repr

/-- The link layer of the module. -/
structure LinkUnit where
  links : SMap Link := []
  outst : List Outst := []
  /-- Responses that found no live port: they wait for one, since every request is answered (R467). -/
  stuck : List Txn := []
  en : EnumSt := {}
  deriving DecidableEq, Repr

end Sys2Proof.Machine
end

