-- ==== Sys2Proof/Machine/SecTypes.lean ====
section
/-! DEFINITION. Partitions, locks, keys, attestation, and the reliability state (15 and 16): what the registers
do not hold themselves. -/
namespace Sys2Proof.Machine

/-- REL_PART_STATUS.STATE (15 R601). -/
inductive PartSt where
  | normal | drain | reset | held | failed
  deriving DecidableEq, Repr

def PartSt.code : PartSt → Nat
  | .normal => 0 | .drain => 1 | .reset => 2 | .held => 3 | .failed => 4

/-- One partition's state outside its registers. -/
structure Part where
  st : PartSt := .normal
  /-- Released since module reset (17 R650). -/
  released : Bool := false
  /-- Time of the running Rust sequence's detection (15 R570). -/
  rustAt : Nat := 0
  /-- A Rust sequence (true) or a PART_RESET / FLR (false) runs; none when neither does. -/
  seqRust : Bool := false
  seqOn : Bool := false
  /-- The running sequence is an FLR: it ends in HELD (16 R610). -/
  seqFlr : Bool := false
  /-- The running sequence is in its step 3: the reset itself (15 R569). -/
  resetting : Bool := false
  /-- A tile of the partition was marked for retirement: HELD becomes FAILED (15 R584). -/
  retire : Bool := false
  /-- Poison writes for other modules that wait for a tag: tile, device and block address (10 R396). -/
  poison : List (Nat × Nat × Nat) := []
  /-- The encryption key, 512 bits: data key in the low half, tweak key in the high half (16 R636). -/
  key : BitVec 512 := 0
  /-- SEC_PMR, 48 bytes (16 R635). -/
  pmr : List (BitVec 8) := []
  pmrBusy : Bool := false
  /-- The stored complement of the partition's lock bits (16 R619). -/
  lockC : Nat := 0x3F
  /-- A failed lock pair: every group of the partition counts as locked (16 R619). -/
  lockBroken : Bool := false
  /-- MEM_XLT_INV.BUSY (10 R399). -/
  invBusy : Bool := false
  deriving DecidableEq, Repr

/-- What an SPDM request is answered with (16 R632, R634). -/
inductive SpdmResp where
  /-- VERSION: the one version 1.2. -/
  | version (v : Nat)
  /-- CAPABILITIES: signed measurements, challenge and certificates; no sessions. -/
  | capabilities (certs chal meas sessions : Bool)
  /-- ALGORITHMS: the base asymmetric and hash algorithms chosen. -/
  | algorithms (ecdsaP384 sha384 : Bool)
  /-- DIGESTS: one SHA-384 digest per populated slot. -/
  | digests (slots : List (Nat × List (BitVec 8)))
  /-- CERTIFICATE: bytes of the chain of a slot. -/
  | certificate (slot off : Nat) (bytes : List (BitVec 8))
  /-- CHALLENGE_AUTH: slot, nonce and signature. -/
  | challengeAuth (slot : Nat) (nonce sig : Nat)
  /-- MEASUREMENTS: blocks of index and digest, and a signature when asked. -/
  | measurements (blocks : List (Nat × List (BitVec 8))) (nonce : Nat) (sig : Option Nat)
  /-- MEASUREMENTS in answer to index 0: how many indices there are. -/
  | measCount (n nonce : Nat) (sig : Option Nat)
  /-- ERROR. -/
  | error
  deriving DecidableEq, Repr

/-- The negotiation of one function's DOE mailbox (16 R632). -/
structure Spdm where
  gotVersion : Bool := false
  gotCaps : Bool := false
  gotAlgs : Bool := false
  resp : List SpdmResp := []
  deriving DecidableEq, Repr

/-- One armed error injection (15 R594, R600). -/
structure Inject where
  armed : Bool := false
  /-- The injected event has been triggered and its log entry is being written (INJ = 1). -/
  active : Bool := false
  /-- DATA flits still to be sent with a bad CRC (code 7); the re-run still to be offset (code 4). -/
  left : Nat := 0
  deriving DecidableEq, Repr

/-- The module's security and reliability state outside its registers. -/
structure SecState where
  parts : SMap Part := []
  /-- The stored complement of SEC_LOCK (16 R619). -/
  lockC : Nat := 0xFF
  lockBroken : Bool := false
  /-- A map commit is zeroing (16 R625). -/
  mapBusy : Bool := false
  /-- Fused minimum security versions by object type 1, 2, 3, and the root-key hash (16 R627). -/
  minSvn : SMap Nat := []
  rootHash : List (BitVec 8) := []
  /-- RAISE was written: the minimums rise at the next module reset (16 R631). -/
  raise : Bool := false
  spdm : SMap Spdm := []
  log : SMap LogEntry := []
  logNext : Nat := 0
  /-- SEQ of the newest Amber entry (15 R567). -/
  lastAmber : Option Nat := none
  inj : Inject := {}
  /-- A Crimson error holds the module, since this time; whether it was RAIL or THERMAL (15 R571, R572). -/
  crimson : Bool := false
  crimsonAt : Nat := 0
  crimsonPower : Bool := false
  deriving DecidableEq, Repr

end Sys2Proof.Machine
end

