-- ==== Sys2Proof/Machine/State.lean ====
section
/-! DEFINITION. The state of one module as plain data, its reset, and the reasons a command can stop. -/
namespace Sys2Proof.Machine

/-- The `drn` in the drain path (05 R164 to R181): its scoreboard entry, the blocks it read at the start, and
its progress. -/
structure DrnRun where
  kctx : Bool := false
  serial : Nat := 0
  dcb : Nat := 0
  recs : List Nat := []
  /-- The next group, and whether this is the re-drain (R181). -/
  next : Nat := 0
  redrain : Bool := false
  /-- Statistics by channel, and NaR elements (R177). -/
  stats : List DStat := []
  nar : Nat := 0
  drift : Bool := false
  redrained : Bool := false
  /-- Bytes of the digest so far, and elements delivered (13 R519). -/
  digest : List (BitVec 8) := []
  elems : Nat := 0
  /-- The hold buffer: in-cell values read, by register and channel (R176). -/
  hold : SMap Nat := []
  flags : Flags := {}
  /-- The last word delivered, for a byte that two groups share (R36). -/
  lastWord : Nat := 0
  /-- Output writes to another module that wait for a tag, and that module. -/
  outq : List (Nat × List Byte) := []
  dev : Nat := 0
  /-- The tests and records are done; completion follows (R175). -/
  finished : Bool := false
  deriving DecidableEq, Repr

/-- The instruction in the SFU (06 R207): its scoreboard entry and, for `smp`, the SPB and SSR read at
handover. -/
structure SfuRun where
  kctx : Bool := false
  serial : Nat := 0
  spb : Nat := 0
  ssr : Nat := 0
  deriving DecidableEq, Repr

/-- One tile: its herder, its engines, its router's buffers and its power state. -/
structure Tile where
  herder : Herder := {}
  pack : Pack := {}
  retr : Retr := {}
  chain : Chain := {}
  /-- The router's chain buffer (04 R141). -/
  held : List Beat := []
  /-- The `drn` in the drain path and the instruction in the SFU: at most one of each context, since those of a
  preempted user context pause and keep their state (07 R255). -/
  drn : List DrnRun := []
  sfu : List SfuRun := []
  /-- A TIL_DIG_CFG write that waits for the running `drn` (13 R526). -/
  digPend : Option Word := none
  pwr : TilePwr := {}
  deriving DecidableEq, Repr

/-- Why a command stops the machine with a fault. No meaning raises one: every error the spec describes is an
effect on the state. -/
inductive Fault where
  /-- Raised by nothing; the type is inhabited so that it can be named. Safe. -/
  | none
  deriving DecidableEq, Repr

/-- Why a command is refused. -/
inductive Refusal where
  /-- A command of the table without a meaning yet: raised by Dispatch alone. Safe. -/
  | notModelled (mnemonic : String)
  deriving DecidableEq, Repr

/-- The whole module. -/
structure State where
  /-- Commands waiting, first in first out. -/
  pending : List Sys2Proof.Instr
  /-- The model's own counter behind the free values; no register of the part. -/
  freeCtr : Nat
  /-- Registers as stored, by address; unlisted ones hold their reset value. -/
  regs : SMap Word
  /-- Pending values of CW registers (00 R14), by address. -/
  cwPend : SMap Word
  /-- Shadows of staged registers (16 R621), by address. -/
  shadow : SMap Word
  /-- SRAM and HBM. -/
  mem : Memory
  /-- The stored check bits of a 64-bit SRAM word XOR the right ones, by address ÷ 8; unlisted ones are zero
  (10 R374). -/
  eccW : SMap (BitVec 8)
  /-- The stored check symbols of a 64-byte HBM block XOR the right ones, by address ÷ 64; unlisted ones are zero
  (10 R377). -/
  eccB : SMap (BitVec 64)
  tiles : SMap Tile
  /-- Chain beats on the mesh, oldest first (01 R23). -/
  beats : List Beat
  /-- Sled beats on the mesh, oldest first (09 R349). -/
  sleds : List SledBeat
  fe : FrontEnd
  sec : SecState
  link : LinkUnit
  time : TimeUnit
  power : PowerUnit
  mgt : MgtUnit
  /-- Messages to the host and the chain head, oldest first. -/
  host : List HostMsg
  /-- What the last host read got (18 R683 to R685). -/
  hostData : HostRead
  /-- The MSI-X tables by function and 32-bit word: 0x2000 × function + word (18 R683, R684). -/
  msixTab : SMap (BitVec 32)
  deriving DecidableEq, Repr

/-- The module right after reset: 54 V has been applied, nothing is stored, start-up is in POWER (17 R646,
R647), every tile is in Slate (14 R543), and every register holds its reset value. -/
def State.reset : State where
  pending := []
  freeCtr := 0
  regs := []
  cwPend := []
  shadow := []
  mem := []
  eccW := []
  eccB := []
  tiles := []
  beats := []
  sleds := []
  fe := {}
  sec := {}
  link := {}
  time := {}
  power := {}
  mgt := {}
  host := []
  hostData := .none
  msixTab := []

end Sys2Proof.Machine
end

