-- ==== Sys2Proof/Machine/Ops.lean ====
section
/-! DEFINITION. The named operations over tiles, registers, time, the error log, ownership and raw memory that
the meanings share. -/
namespace Sys2Proof.Machine

/-! Tiles, rings, partitions -/

def State.tile (s : State) (t : Nat) : Tile := SMap.get {} s.tiles t
def State.setTile (s : State) (t : Nat) (x : Tile) : State := { s with tiles := SMap.set s.tiles t x }
def State.modTile (s : State) (t : Nat) (f : Tile → Tile) : State := s.setTile t (f (s.tile t))
def State.herder (s : State) (t : Nat) : Herder := (s.tile t).herder
def State.setHerder (s : State) (t : Nat) (h : Herder) : State :=
  s.modTile t (fun x => { x with herder := h })
def State.modHerder (s : State) (t : Nat) (f : Herder → Herder) : State := s.setHerder t (f (s.herder t))
def Herder.ctx (h : Herder) (k : Bool) : Ctx := if k then h.kern else h.user
def Herder.setCtx (h : Herder) (k : Bool) (c : Ctx) : Herder :=
  if k then { h with kern := c } else { h with user := c }
def State.ctx (s : State) (t : Nat) (k : Bool) : Ctx := (s.herder t).ctx k
def State.setCtx (s : State) (t : Nat) (k : Bool) (c : Ctx) : State :=
  s.modHerder t (fun h => h.setCtx k c)

def State.ring (s : State) (g : Nat) : Ring := SMap.get {} s.fe.rings g
def State.setRing (s : State) (g : Nat) (r : Ring) : State :=
  { s with fe := { s.fe with rings := SMap.set s.fe.rings g r } }
def State.modRing (s : State) (g : Nat) (f : Ring → Ring) : State := s.setRing g (f (s.ring g))
def State.part (s : State) (p : Nat) : Part := SMap.get {} s.sec.parts p
def State.setPart (s : State) (p : Nat) (x : Part) : State :=
  { s with sec := { s.sec with parts := SMap.set s.sec.parts p x } }
def State.modPart (s : State) (p : Nat) (f : Part → Part) : State := s.setPart p (f (s.part p))

/-! Registers as stored -/

/-- The stored value of a register; its reset value until something sets it. -/
def State.reg (s : State) (a : Nat) : Word := SMap.get (regReset a) s.regs a
def State.setReg (s : State) (a : Nat) (v : Word) : State := { s with regs := SMap.set s.regs a v }
def State.regF (s : State) (a hi lo : Nat) : Nat := fld (s.reg a) hi lo
def State.setRegF (s : State) (a hi lo v : Nat) : State := s.setReg a (setFld (s.reg a) hi lo v)

/-- Adds to a counter field, which stops at its largest value. -/
def State.addRegF (s : State) (a hi lo d : Nat) : State :=
  s.setRegF a hi lo (satAdd (2 ^ (hi + 1 - lo) - 1) (s.regF a hi lo) d)

/-! Time -/

/-- The bytes of a management frame, with its CRC (17 R657). -/
def Frame.bytes (f : Frame) : List Byte :=
  let b := toBytesLE 2 f.dst ++ toBytesLE 2 f.src
    ++ [BitVec.ofNat 8 f.cmd, BitVec.ofNat 8 f.tag, BitVec.ofNat 8 f.payload.length, BitVec.ofNat 8 f.status]
    ++ f.payload
  b ++ toBytesLE 2 (crc16 b)

/-- Global time in ns (13 R496). -/
def State.now (s : State) : Nat := s.time.ctr / 2 ^ 48 % 2 ^ 64

/-- One cycle of domain 15: the counter advances by 1 ns + RATE × 2^-32 ns (13 R497), and the oldest own frame
of the management chain finds its gap (17 R660). -/
def State.tick (s : State) : State :=
  { s with
    time := { s.time with ctr := (s.time.ctr + ((2 ^ 48 : Int) + s.time.rate * 2 ^ 16).toNat) % 2 ^ 112 }
    mgt := { s.mgt with upq := s.mgt.upq.drop 1, up := s.mgt.up ++ (s.mgt.upq.take 1).map Frame.bytes } }

/-! Free values -/

/-- The next free word; the counter behind it advances. -/
def State.free (s : State) : BitVec 64 × State :=
  (Config.freeWord s.freeCtr, { s with freeCtr := s.freeCtr + 1 })

/-! Partitions and ownership (16 R603) -/

def State.colFirst (s : State) (p : Nat) : Nat := s.regF (rSecMap p) 5 0
def State.nCol (s : State) (p : Nat) : Nat := s.regF (rSecMap p) 11 6
def State.chSets (s : State) (p : Nat) : Nat := s.regF (rSecMap p) 31 16

def State.ownsTile (s : State) (p t : Nat) : Bool :=
  decide (t < 1152) && decide (s.colFirst p ≤ t % 48) && decide (t % 48 < s.colFirst p + s.nCol p)

def State.ownsSet (s : State) (p cs : Nat) : Bool :=
  decide (0 < s.nCol p) && decide (cs < 16) && (s.chSets p).testBit cs

/-- The partition that owns a tile. -/
def State.tilePart (s : State) (t : Nat) : Option Nat := (List.range 16).find? (fun p => s.ownsTile p t)
/-- The partition that owns a channel set. -/
def State.setPartOf (s : State) (cs : Nat) : Option Nat := (List.range 16).find? (fun p => s.ownsSet p cs)
/-- The tiles of a partition, in rising order. -/
def State.partTiles (s : State) (p : Nat) : List Nat := (List.range 1152).filter (fun t => s.ownsTile p t)

/-! The address map (10 R368, R371, R380) -/

def hbmTop : Nat := 0x6000000000
def tileBase (t : Nat) : Nat := 0x800000000000 + t * 0x200000
def tileSize : Nat := 0x1A0000
def wsSize : Nat := 0x140000
def actOff : Nat := 0x140000
def quireOff : Nat := 0x160000
def virtBase : Nat := 0x400000000000
def virtTop : Nat := 0x500000000000
def setBytes : Nat := 0x600000000

/-- Where an address lies (10 R368). -/
inductive Region where
  | hbm (set : Nat) | virt | sram (tile off : Nat) | reg | none
  deriving DecidableEq, Repr

def regionOf (a : Nat) : Region :=
  if a < hbmTop then .hbm (a / setBytes)
  else if virtBase ≤ a ∧ a < virtTop then .virt
  else if 0x800000000000 ≤ a ∧ a < 0x800000000000 + 1152 * 0x200000 then
    let o := a - 0x800000000000
    if o % 0x200000 < tileSize then .sram (o / 0x200000) (o % 0x200000) else .none
  else if 0xF00000000000 ≤ a ∧ a < 0x1000000000000 then .reg
  else .none

/-- The channel of an HBM address (10 R380). -/
def hbmChannel (a : Nat) : Nat := 16 * (a / setBytes) + (a % setBytes) / 256 % 16

/-- The stack of an HBM address (10 R380). -/
def hbmStack (a : Nat) : Nat := hbmChannel a / 32

/-- The address within the channel of an HBM address (10 R380). -/
def hbmWithin (a : Nat) : Nat := a % setBytes / 4096 * 256 + a % 256

/-- The bytes [a, a + n) lie wholly in memory the partition owns: tile windows or channel sets. -/
def State.reach (s : State) (p a n : Nat) : Bool :=
  n == 0 ||
  match regionOf a, regionOf (a + n - 1) with
  | .sram t _, .sram t' _ => t == t' && s.ownsTile p t
  | .hbm c, .hbm c' => (List.range (c' + 1 - c)).all (fun i => s.ownsSet p (c + i))
  | _, _ => false

/-- The partition that owns an address of memory, if any. -/
def State.addrPart (s : State) (a : Nat) : Option Nat :=
  match regionOf a with
  | .sram t _ => s.tilePart t
  | .hbm c => s.setPartOf c
  | _ => none

/-- Level F and the physical function reach every populated byte (16 R604, R609). -/
def populated (a n : Nat) : Bool :=
  n == 0 ||
  match regionOf a, regionOf (a + n - 1) with
  | .sram t _, .sram t' _ => t == t'
  | .hbm _, .hbm _ => true
  | _, _ => false

/-! The error log (15 R567) -/

/-- Writes one entry, or merges an Amber event into the newest Amber entry (15 R567). -/
def State.log (s : State) (src : Source) (sev : Sev) (part : Option Nat) (unit info : Nat) : State :=
  let c := s.sec
  let old := c.lastAmber.bind (fun q =>
    if c.logNext ≤ q + 512 then (SMap.find c.log (q % 512)).map (fun e => (q, e)) else none)
  let merge : Option (Nat × LogEntry) :=
    if sev = .amber then
      old.filter (fun qe => decide (qe.2.source = src.code ∧ qe.2.unit = unit ∧ s.now ≤ qe.2.time + 1000000))
    else none
  let s := match merge with
    | some (q, e) =>
      { s with sec := { c with log := SMap.set c.log (q % 512) { e with count := e.count + 1 } } }
    | none =>
      let e : LogEntry :=
        { time := s.now, seq := c.logNext % 2 ^ 32, sev := sev, inj := c.inj.active, source := src.code,
          part := part, unit := unit, info := info }
      let full := (SMap.find c.log (c.logNext % 512)).isSome
      let s := { s with sec := { c with
        log := SMap.set c.log (c.logNext % 512) e, logNext := c.logNext + 1,
        lastAmber := if sev = .amber then some c.logNext else c.lastAmber } }
      if full then s.addRegF rRelLogStat 63 32 1 else s
  if sev = .amber then
    match part with
    | some p => s.addRegF (partPage p oRelCnt) 63 32 1
    | none => s
  else s

/-- A configuration error against a register (00 R13, 15 R566 CONFIG). -/
def State.config (s : State) (part : Option Nat) (addr : Nat) : State :=
  s.log .config .none part 0x7FF addr

/-- A complement mismatch of a twin write (00 R14, 15 R566 COMP_WRITE). -/
def State.compWrite (s : State) (part : Option Nat) (addr : Nat) : State :=
  s.log .compWrite .none part 0x7FF addr

/-! Messages to the host -/

def State.tell (s : State) (m : HostMsg) : State := { s with host := s.host ++ [m] }
def State.msix (s : State) (v : Nat) : State := s.tell (.msix v)

/-! Sticky flags (02 R62 to R64): OF bit 0, UF bit 1, NX bit 2, NV bit 3 -/

def Flags.word (f : Flags) : Word :=
  BitVec.ofNat 64 ((if f.of then 1 else 0) + (if f.uf then 2 else 0) + (if f.nx then 4 else 0)
    + (if f.nv then 8 else 0))

def State.setFlags (s : State) (t : Nat) (f : Flags) : State :=
  s.setReg (tilePage t oNumFlags) (s.reg (tilePage t oNumFlags) ||| f.word)

/-! Raw memory with encryption (10 R382): HBM of a partition with encryption on holds ciphertext -/

/-- The key a channel set is encrypted under, if its owner has encryption on. -/
def State.setKey (s : State) (cs : Nat) : Option (BitVec 512) :=
  match s.setPartOf cs with
  | some p => if s.regF (partPage p oCryptCtl) 0 0 = 1 then some (s.part p).key else none
  | none => none

/-- The plain bytes of the 64-byte HBM block of a block address. -/
def State.blockBytes (s : State) (a : Nat) : List Byte :=
  let raw := s.mem.readN a 64
  match s.setKey (a / setBytes) with
  | some k => xtsUnit false k (a / 64) raw
  | none => raw

def State.putBlock (s : State) (a : Nat) (bs : List Byte) : State :=
  let raw := match s.setKey (a / setBytes) with
    | some k => xtsUnit true k (a / 64) bs
    | none => bs
  { s with mem := s.mem.writeN a raw }

/-- n bytes of SRAM or HBM from an address on, without ECC. -/
def State.rawRead (s : State) (a n : Nat) : List Byte :=
  match regionOf a with
  | .hbm c =>
    match s.setKey c with
    | none => s.mem.readN a n
    | some _ =>
      let b0 := a / 64 * 64
      let blocks := (List.range ((a % 64 + n + 63) / 64)).flatMap (fun i => s.blockBytes (b0 + 64 * i))
      (blocks.drop (a % 64)).take n
  | _ => s.mem.readN a n

end Sys2Proof.Machine
end

