-- ==== Sys2Proof/Machine/Pages.lean ====
section
/-! DEFINITION. Register pages and the herder's access to them (10 R370; 11 R406; 16 R607). -/
namespace Sys2Proof.Machine

def State.ringCfg (s : State) (g : Nat) : Word := s.reg (ringReg g oRingCfg)
def State.ringKernel (s : State) (g : Nat) : Bool := bit (s.ringCfg g) 2

/-! Pages (10 R370) -/

/-- The register page an address lies in. -/
inductive Page where
  | module | tile (t : Nat) | part (p : Nat) | none
  deriving DecidableEq, Repr

def pageOf (a : Nat) : Page :=
  if 0xF00000000000 ≤ a ∧ a < 0xF00010000000 then .module
  else if 0xF00100000000 ≤ a ∧ a < 0xF00100480000 then .tile ((a - 0xF00100000000) / 0x1000)
  else if 0xF00200000000 ≤ a ∧ a < 0xF00200100000 then .part ((a - 0xF00200000000) / 0x10000)
  else .none

/-- The module registers that every reader of R607 reaches. -/
def sharedReg (a : Nat) : Bool :=
  a == rMgtPartId || a == rTimNow || a == rTimFrac || a == rTimStatus || a == rFeSitStatus

def isTimReg (a : Nat) : Bool := decide (0xF00000040000 ≤ a ∧ a < 0xF00000050000)
def isMgtReg (a : Nat) : Bool := a == rMgtPartId || decide (0xF00000080000 ≤ a ∧ a < 0xF00000090000)

/-- Registers of a partition page that are written at levels K and F only (10 before R398, 14 R561). -/
def levelKReg (off : Nat) : Bool := decide ((0x300 ≤ off ∧ off ≤ 0x318) ∨ (0x500 ≤ off ∧ off ≤ 0x518))

/-- What the management chain may write (17 R661). -/
def chainReg (a : Nat) : Bool :=
  a == rMgtBootCtl || a == rMgtBootCfg || a == rMgtAlert || a == rMgtFwCtl || a == rPwrJet || a == rPwrJet + 8
    || a == rRelCrimsonCtl || a == rEnumXid || decide (0xF00000081000 ≤ a ∧ a < 0xF00000082200)

/-! Access (R607) -/

/-- A doorbell of a ring of partition q (11 R406): whether a herder of partition q at a level may write it. -/
def State.bellAt (s : State) (q off : Nat) (l : Level) : Bool :=
  match l with
  | .u => !s.ringKernel (64 * q + (off - 0x1000) / 0x40)
  | _ => true

def isBell (off : Nat) : Bool := decide (0x1000 ≤ off ∧ off < 0x2000 ∧ off % 0x40 = oRingDb)

/-- A herder's access, by level. -/
def State.herderMay (s : State) (t : Nat) (l : Level) (a : Nat) (write : Bool) : Bool :=
  let own (q : Nat) : Bool := s.ownsTile q t
  match pageOf a with
  | .tile u =>
    l == .f || ((u == t || (s.tilePart t).any (fun q => s.ownsTile q u)) && !(write && l == .u && decide (a % 0x1000 = oRtvCtl)))
  | .part q =>
    let off := a % 0x10000
    if write && isBell off then own q && s.bellAt q off l
    else match l with
      | .f => true
      | .k => own q && !(write && decide (off = oAdmit))
      | .u => own q && !write
  | .module => if write then l == .f && !isTimReg a else l == .f || sharedReg a
  | .none => false

/-- The end of the register page an address lies in. -/
def pageTop (a : Nat) : Nat :=
  match pageOf a with
  | .module => 0xF00010000000
  | .tile t => tilePage t 0x1000
  | .part p => partPage p 0x10000
  | .none => a

end Sys2Proof.Machine
end

