-- ==== Sys2Proof/Machine/PackCalc.lean ====
section
/-! DEFINITION. What an array computes for one vector: chunk windows, bands and slices, promotion, the checksum
column and its bound (03 R77 to R79, R99, R100; 04 R108 to R126; 05 R154 to R161; 15 R574 to R578). -/
namespace Sys2Proof.Machine

/-- The array modes of R79. -/
inductive AMode where
  | p8 | p16 | int
  deriving DecidableEq, Repr

/-- The mode of a weight and activation pair, if R79 lists it. -/
def aMode (wf af : Fmt) : Option AMode :=
  if wf = .P8 ∧ af = .P8 then some .p8
  else if (wf = .P8 ∨ wf = .P16) ∧ (af = .P8 ∨ af = .P16) then some .p16
  else if (wf = .S8 ∨ wf = .U8 ∨ wf = .S4 ∨ wf = .U4) ∧ (af = .S8 ∨ af = .U8 ∨ af = .S4 ∨ af = .U4) then some .int
  else none

/-- The most vectors of a pass in a mode (R79). -/
def AMode.maxM : AMode → Nat
  | .p8 => 128 | .p16 => 64 | .int => 256

/-- The value of a weight or activation word; none is NaR. -/
def opVal (f : Fmt) (w : Nat) : Option Dy :=
  if f.isPosit then positVal f.positBits w else some (Dy.ofInt (f.intVal w))

/-- The significand of a P16-range value as a 12-bit field and the exponent of its bit 0 (R42). -/
def sig12 (v : Dy) : Nat × Int :=
  let e := v.expo
  let m := v.m.natAbs
  let lg := Nat.log2 m
  (if lg ≤ 11 then m <<< (11 - lg) else m >>> (lg - 11), e - 11)

/-- The high (true) or low slice of a value, with its sign (R42). -/
def slice (hi : Bool) (v : Dy) : Dy :=
  if v.isZero then .zero
  else
    let (g, e) := sig12 v
    let k : Nat := if hi then g / 16 * 16 else g % 16
    ⟨if v.m < 0 then -(k : Int) else (k : Int), e⟩

/-- The operands that a pass with index pidx multiplies: the slices of R99 in P16 mode. -/
def passW (md : AMode) (pidx : Nat) (v : Dy) : Dy := if md = .p16 then slice (pidx != 2) v else v
def passA (md : AMode) (pidx : Nat) (v : Dy) : Dy := if md = .p16 then slice (pidx != 1) v else v

/-- The largest exponent of the non-zero values of a list. -/
def maxExpo (l : List (Option Dy)) : Option Int :=
  l.foldl (fun a x =>
    match x with
    | some v => if v.isZero then a else match a with
      | none => some v.expo
      | some b => some (max b v.expo)
    | none => a) none

/-- The part of a product that a window keeps: the bits from 2^lo up to but not including 2^hi, with the
product's sign (R115); and whether a non-zero bit lies below 2^lo. -/
def keepBits (lo hi : Int) (p : Dy) : Dy × Bool :=
  if p.isZero then (.zero, false)
  else
    let m := p.m.natAbs
    -- magnitude in units of 2^lo
    let (q, low) :=
      if lo ≤ p.e then (m <<< (p.e - lo).toNat, false)
      else (m >>> (lo - p.e).toNat, decide (m % 2 ^ (lo - p.e).toNat ≠ 0))
    let k := if hi ≤ lo then 0 else q % 2 ^ (hi - lo).toNat
    (⟨if p.m < 0 then -(k : Int) else (k : Int), lo⟩, low)

/-- The parameters of a pass that its arithmetic depends on. -/
structure PassPar where
  mode : AMode
  wf : Fmt
  af : Fmt
  k : Nat
  n : Nat
  /-- Chunk length. -/
  c : Nat
  p : Nat
  pidx : Nat
  wide : Bool
  deriving DecidableEq, Repr

def PassPar.band (q : PassPar) : Int := if q.mode = .p8 then (q.pidx : Int) else 0
def PassPar.chunks (q : PassPar) : Nat := ceilDiv q.k q.c

/-- The rows of chunk ch of a list of row values. -/
def chunkOf {α : Type} (c ch : Nat) (l : List α) : List α := (l.drop (ch * c)).take c

/-- One column's window sum of one chunk: the sum, the NaR of a weight, the t of R577, and whether the
truncation NX condition of R120 or R121 holds in it. -/
structure WinSum where
  sum : Dy
  nar : Bool
  t : Dy
  trunc : Bool
  deriving DecidableEq, Repr

/-- The weight floor of an empty chunk's alignment (R112). -/
def AMode.emptyA : AMode → Int
  | .p8 => -48 | _ => -112

/-- The slice products that the group omits, tested in its last pass (R121). -/
def omitted (p : Nat) (w a : Dy) : Bool :=
  let wh := slice true w
  let wl := slice false w
  let ah := slice true a
  let al := slice false a
  let nz (x y : Dy) : Bool := !(x.isZero || y.isZero)
  nz wl al || (p ≤ 2 && nz wl ah) || (p ≤ 1 && nz wh al)

/-- The window of one chunk of one column (R111 to R117, R120, R121, R577). -/
def winSum (q : PassPar) (v : Option Int) (ws as : List (Option Dy)) : WinSum :=
  let nar := ws.any (fun w => w.isNone)
  let pairs := (ws.zip as).filterMap (fun wa =>
    match wa with
    | (some w, some a) => some (w, a)
    | _ => none)
  match q.mode with
  | .int => ⟨pairs.foldl (fun s wa => s.add (wa.1.mul wa.2)) .zero, nar, .zero, false⟩
  | md =>
    let a : Int := match maxExpo ws, v with
      | some w, some v => w + v
      | _, _ => md.emptyA
    let lo := a - 38 - 40 * q.band
    let hi := a + 2 - 40 * q.band
    let r := pairs.foldl (fun (s : Dy × Bool × Bool) wa =>
      let (kept, low) := keepBits lo hi ((passW md q.pidx wa.1).mul (passA md q.pidx wa.2))
      let om := md = .p16 && q.pidx + 1 == q.p && omitted q.p wa.1 wa.2
      (s.1.add kept, s.2.1 || low, s.2.2 || om)) (Dy.zero, false, false)
    let last := md = .p16 || q.pidx + 1 == q.p
    ⟨r.1, nar, if r.2.1 then pow2At lo else .zero, (last && r.2.1) || r.2.2⟩
where pow2At (e : Int) : Dy := ⟨1, e⟩

/-- The row sum of a row over the live weights of a group of columns: NaR counts as zero (R77). In P16 mode it
is the sum of the slices that the pass selects (R100). -/
def rowSum (q : PassPar) (row : List (Option Dy)) : Dy :=
  row.foldl (fun s w => match w with
    | some w => s.add (passW q.mode q.pidx w)
    | none => s) .zero

/-- The checksum column's window of one chunk (15 R575) and its t (R577). -/
def chkSum (q : PassPar) (v : Option Int) (sums : List Dy) (as : List (Option Dy)) : Dy × Dy :=
  let prods := (sums.zip as).filterMap (fun sa =>
    sa.2.map (fun a => sa.1.mul (passA q.mode q.pidx a)))
  match q.mode with
  | .int => (prods.foldl Dy.add .zero, .zero)
  | _ =>
    match maxExpo (sums.map some), v with
    | some w, some v =>
      let a := w + v
      let lo := a - 54 - 40 * q.band
      let hi := if q.band = 0 then a + 64 else lo + 40
      let r := prods.foldl (fun (s : Dy × Bool) p =>
        let (kept, low) := keepBits lo hi p
        (s.1.add kept, s.2 || low)) (Dy.zero, false)
      (r.1, if r.2 then ⟨1, lo⟩ else .zero)
    | _, _ => (.zero, .zero)

/-- Column j's entry of the column-sum vector (R77). -/
def colSum (wf : Fmt) (col : List Nat) : Dy :=
  col.foldl (fun s w => match opVal wf w with
    | some v => s.add v
    | none => s) .zero

/-- The scale g of (column, chunk): none for 1, or a P16 word with a failed pair (R154, R159). -/
abbrev ScaleOf := Nat → Nat → Option (Nat × Bool)

/-- One vector of one stream through the array: `cols` the block's columns, `elems` the vector. -/
def arrayVector (q : PassPar) (cols : List (List Nat)) (elems : List Nat) (scale : ScaleOf) : StreamRes :=
  let as := ((List.range q.k).map (fun i => opVal q.af (elems.getD i 0)))
  let wcols := (cols.take q.n).map (fun col => (col.take q.k).map (opVal q.wf))
  let aNar := as.any (fun a => a.isNone)
  let chs := List.range q.chunks
  let vs := chs.map (fun c => maxExpo (chunkOf q.c c as))
  let live (c : Nat) : Nat := min q.c (q.k - c * q.c)
  let res := wcols.zipIdx.map (fun (col, j) =>
    chs.foldl (fun (acc : ColRes × Bool × Bool) c =>
      let win := winSum q (vs.getD c none) (chunkOf q.c c col) (chunkOf q.c c as)
      let (g, bad) : Option Dy × Bool := match scale j c with
        | none => (some ⟨1, 0⟩, false)
        | some (w, b) => (positVal 16 w, b)
      let part := match acc.1.part, g with
        | some p, some g => if win.nar then none else some (p.add (win.sum.mul g))
        | _, _ => none
      let n : Dy := Dy.ofInt (live c)
      (⟨part, acc.1.u.add win.sum, acc.1.t.add (n.mul win.t)⟩, acc.2.1 || win.trunc, acc.2.2 || bad))
      (⟨if aNar then none else some .zero, .zero, .zero⟩, false, false))
  let groups := if q.wide then 4 else 1
  let chks := (List.range groups).map (fun g =>
    let gc := if q.wide then (wcols.drop (32 * g)).take 32 else wcols
    let sums := (List.range q.k).map (fun i => rowSum q (gc.map (fun col => col.getD i (some .zero))))
    chs.foldl (fun (acc : Dy × Dy) c =>
      let (u, t) := chkSum q (vs.getD c none) (chunkOf q.c c sums) (chunkOf q.c c as)
      (acc.1.add u, acc.2.add ((Dy.ofInt (live c)).mul t))) (Dy.zero, Dy.zero))
  let wNar := wcols.any (fun col => col.any (fun w => w.isNone))
  { cols := res.map (fun r => r.1)
    chks := chks
    compared := !(aNar || wNar)
    nx := res.any (fun r => r.2.1 && r.1.part.isSome)
    badScale := res.any (fun r => r.2.2) }

/-! Blocks and vectors in memory (R36, R290) -/

/-- Element i of a row of bytes in a format of 4, 8, 16 or more bits (02 R36). -/
def unpackElem (f : Fmt) (bs : List Byte) (i : Nat) : Nat :=
  if f.width = 4 then ((bs.getD (i / 2) 0).toNat >>> (4 * (i % 2))) % 16
  else ofBytesLE ((bs.drop (i * (f.width / 8))).take (f.width / 8))

def unpackRow (f : Fmt) (bs : List Byte) (n : Nat) : List Nat := (List.range n).map (unpackElem f bs)

/-- Bytes that n elements of a format take. -/
def rowBytes (f : Fmt) (n : Nat) : Nat := (n * f.width + 7) / 8

/-- The bytes of a row of elements; S4 and U4 two to a byte, the lower index low (02 R36). -/
def packRow (f : Fmt) (ws : List Nat) : List Byte :=
  if f.width = 4 then
    (List.range ((ws.length + 1) / 2)).map (fun i =>
      BitVec.ofNat 8 (ws.getD (2 * i) 0 % 16 + 16 * (ws.getD (2 * i + 1) 0 % 16)))
  else ws.flatMap (fun w => toBytesLE (f.width / 8) w)

end Sys2Proof.Machine
end

