-- ==== Sys2Proof/Machine/Operands.lean ====
section
/-! DEFINITION. The operand forms of herder instructions: tensor registers (07 R226), target words (08 R288), the
operand register of `sfu`, `topk` and `smp` (08 R303), handles (07 R247). -/
namespace Sys2Proof.Machine

/-- A t-register's fields (07 R226). Counts are the counts themselves; strides start with dimension 1. -/
structure TD where
  base : Nat
  devid : Nat
  remote : Bool
  fmtCode : Nat
  rank : Nat
  /-- The four CNT fields plus one. -/
  cnt : List Nat
  /-- The strides of dimensions 1 to 3. -/
  str : List Int
  rsv : Bool
  deriving DecidableEq, Repr

def TD.ofWord (w : BitVec 256) : TD where
  base := fld w 47 0
  devid := fld w 61 48
  remote := bit w 62
  fmtCode := fld w 67 64
  rank := fld w 69 68
  cnt := [fld w 87 72 + 1, fld w 103 88 + 1, fld w 119 104 + 1, fld w 135 120 + 1]
  str := [toSigned 32 (fld w 167 136), toSigned 32 (fld w 199 168), toSigned 32 (fld w 231 200)]
  rsv := bit w 63 || decide (fld w 71 70 ≠ 0) || decide (fld w 255 232 ≠ 0)

def TD.fmt (d : TD) : Option Fmt := Fmt.ofCode d.fmtCode

/-- The count of dimension i; a dimension above RANK counts as one (08 R295). -/
def TD.n (d : TD) (i : Nat) : Nat := if i ≤ d.rank then d.cnt.getD i 1 else 1

/-- The stride of dimension i ≥ 1; zero above RANK. -/
def TD.stride (d : TD) (i : Nat) : Int := if 1 ≤ i ∧ i ≤ d.rank then d.str.getD (i - 1) 0 else 0

/-- The number of elements. -/
def TD.elems (d : TD) : Nat := d.n 0 * d.n 1 * d.n 2 * d.n 3

/-- The same counts (08 R295). -/
def TD.sameShape (x y : TD) : Bool := (List.range 4).all (fun i => x.n i == y.n i)

/-- Bytes that a dimension-0 row of n elements takes. -/
def TD.rowLen (d : TD) (f : Fmt) : Nat := rowBytes f (d.n 0)

/-- The start of row r of the tensor, rows counted over dimensions 1 to 3, dimension 1 fastest. -/
def TD.rowAddr (d : TD) (r : Nat) : Int :=
  let i1 := r % d.n 1
  let i2 := r / d.n 1 % d.n 2
  let i3 := r / d.n 1 / d.n 2
  (d.base : Int) + i1 * d.stride 1 + i2 * d.stride 2 + i3 * d.stride 3

def TD.rows (d : TD) : Nat := d.n 1 * d.n 2 * d.n 3

/-- The lowest byte and the byte after the highest that the tensor spans (08 R285): each dimension's last index
adds its stride on the side of its sign. -/
def TD.span (d : TD) (f : Fmt) : Int × Int :=
  [1, 2, 3].foldl (fun (s : Int × Int) i =>
    let e := ((d.n i - 1 : Nat) : Int) * d.stride i
    if e < 0 then (s.1 + e, s.2) else (s.1, s.2 + e))
    ((d.base : Int), (d.base : Int) + d.rowLen f)

/-- The lowest byte of a range [lo, hi) that lies outside [a, b): the address the model reports for an ADDR
exception of a tensor operand (07 R265 says "faulting address"; DEDUCED, log entry 37). -/
def outside (lo hi a b : Int) : Option Nat :=
  if lo < a then some (lo.toNat) else if b < hi then some (max lo b).toNat else none

/-- A target word (08 R288). -/
structure Target where
  tile : Nat
  dev : Nat
  remote : Bool
  rsv : Bool
  deriving DecidableEq, Repr

def Target.ofWord (w : Word) : Target where
  tile := fld w 10 0
  dev := fld w 29 16
  remote := bit w 30
  rsv := decide (fld w 15 11 ≠ 0) || decide (fld w 63 31 ≠ 0)

/-- A target word that raises ADDR for a partition (08 R288). -/
def State.badTarget (s : State) (part : Option Nat) (w : Word) : Bool :=
  let t := Target.ofWord w
  decide (1151 < t.tile) || t.rsv || (t.remote && t.dev == 0x3FFF)
    || (!t.remote && !(match part with | some p => s.ownsTile p t.tile | none => false))

/-- The operand register of R303. -/
structure TO where
  i0 : Nat
  cb : Nat
  scale : Nat
  eps : Nat
  gamma : Nat
  beta : Nat
  bitmap : Nat
  status : Nat
  statusEn : Bool
  rsv : Bool
  deriving DecidableEq, Repr

def TO.ofWord (w : BitVec 256) : TO where
  i0 := fld w 31 0
  cb := fld w 63 32
  scale := fld w 95 64
  eps := fld w 127 96
  gamma := fld w 148 128
  beta := fld w 169 149
  bitmap := fld w 190 170
  status := fld w 211 191
  statusEn := bit w 212
  rsv := decide (fld w 255 213 ≠ 0)

/-- A handle's slice (07 R247): OFFSET, LEN in 64-byte units, and the bits reserved for the retriever. -/
def handleOff (h : Word) : Nat := fld h 16 0
def handleLen (h : Word) : Nat := fld h 28 17
def handleRsv (h : Word) : Nat := fld h 31 29

/-! The word of an `mma` (08 R289) -/

def mmaArr (w : BitVec 64) : Nat := fld w 31 30
def mmaAfmt (w : BitVec 64) : Nat := fld w 35 32
def mmaP (w : BitVec 64) : Nat := fld w 37 36
def mmaPidx (w : BitVec 64) : Nat := fld w 39 38
def mmaCsel (w : BitVec 64) : Nat := fld w 41 40
def mmaReuse (w : BitVec 64) : Bool := bit w 42 || bit w 43
def mmaFill (w : BitVec 64) : Bool := bit w 43
def mmaScaled (w : BitVec 64) : Bool := bit w 44
def mmaSet (w : BitVec 64) : Bool := bit w 45
def mmaIcr (w : BitVec 64) : Bool := bit w 46
def mmaIcrb (w : BitVec 64) : Nat := fld w 49 47

/-- K and N of the weight block: CNT0 = 0xFFFF encodes K = 0, and CNT1 is N - 1 whatever RANK says (08 R290). -/
def blockK (d : TD) : Nat := if d.cnt.getD 0 1 = 0x10000 then 0 else d.cnt.getD 0 1
def blockN (d : TD) : Nat := d.cnt.getD 1 1

/-- The in-cell registers of m vectors from register r0 on and of columns 0 to n - 1, of one array or, in SHARE and
WIDE, of the four, as keys (array × 8 + register) × 32 + column (04 R129, R131). -/
def mmaKeys (g : Nat) (w : BitVec 64) (m n : Nat) : List Nat :=
  let cols : List (Nat × Nat) :=
    if g = 3 then (List.range n).map (fun j => (j / 32, j % 32))
    else if g = 1 then [0, 1, 2, 3].flatMap (fun a => (List.range n).map (fun j => (a, j)))
    else (List.range n).map (fun j => (mmaArr w, j))
  (List.range m).flatMap (fun i => cols.map (fun aj => (aj.1 * 8 + mmaIcrb w + i) * 32 + aj.2))

/-- The array that takes a pass: array 0 of a gang (03 R82). -/
def Pass.array (p : Pass) : Nat := if p.gang = 0 then mmaArr p.word else 0

/-- A gang mode has been written that is not in effect: `mma` waits for it (03 R84). -/
def Pack.gangWaits (p : Pack) (t : Nat) : Bool :=
  p.gangPend.isSome || p.cfgWrites.any (fun c => c.addr == tilePage t oPackCfg)

/-- The key of channel ch of register row r that a `drn` of in-cell registers reads (08 R300, R301). -/
def drnKey (w : BitVec 64) (r ch : Nat) : Nat :=
  ((if ch < 32 then fld w 31 30 else ch / 32) * 8 + fld w 34 32 + r) * 32 + ch % 32

/-- The keys of every register and channel that a `drn` reads out. -/
def drnKeys (w : BitVec 64) (ts td : BitVec 256) : List Nat :=
  (List.range ((TD.ofWord ts).cnt.getD 0 1)).flatMap (fun r =>
    (List.range ((TD.ofWord td).n 0)).map (fun ch => drnKey w r ch))

/-- The place of element j of accumulator row m, for stream k of SHARE (04 R127, 08 R290): a byte offset in the
quire store, which may lie outside it. -/
def quireAddr (tile : Nat) (tq : TD) (f : Fmt) (wide : Bool) (k m j : Nat) : Int :=
  (tq.base : Int) + k * tq.str.getD 0 0 - (tileBase tile + quireOff)
    + ((m * (if wide then 128 else 32) + j) * (f.width / 8) : Nat)

end Sys2Proof.Machine
end

