-- ==== Sys2Proof/Machine/Abort.lean ====
section
/-! DEFINITION. Ending work: completion of tensor instructions, exceptions, draining of tasks, contained (Rust)
and fatal (Crimson) errors, and links going down (07 R237 to R239, R258 to R265; 11 R429; 15 R569 to R573; 12
R478 to R480). -/
namespace Sys2Proof.Machine

/-! Completion of tensor instructions -/

/-- The number of tickets in a cycle, 2^32 − 64 (07 R233). -/
def ticketPeriod : Nat := 0xFFFFFFC0

def nextTicket (t : Nat) : Nat := if t ≥ ticketPeriod then 1 else t + 1

/-- The age of an issued ticket (07 R238). -/
def Ctx.age (c : Ctx) (t : Nat) : Nat := (c.ticket + ticketPeriod - t) % ticketPeriod

/-- The status word of a completed entry (07 R239). -/
def Entry.statusWord (e : Entry) : Word :=
  BitVec.ofNat 64 (1 ||| (if e.fault.isSome then 2 else 0) ||| e.bits ||| (1 <<< (16 + e.cls.bit))
    ||| (match e.fault with | some (x, _) => x.code <<< 24 | none => 0))

/-- The status table slot of a ticket takes a word while the ticket is among the last 64 (07 R238). -/
def Ctx.putStatus (c : Ctx) (tk : Nat) (w : Word) : Ctx :=
  if c.age tk ≤ 63 then { c with status := SMap.set c.status (tk % 64) w } else c

def Entry.is (k : Bool) (serial : Nat) (e : Entry) : Bool := e.kctx == k && e.serial == serial

/-- The scoreboard entry of an instruction. -/
def Herder.entry (h : Herder) (k : Bool) (serial : Nat) : Option Entry := h.board.find? (Entry.is k serial)

def State.entry (s : State) (t : Nat) (k : Bool) (serial : Nat) : Option Entry := (s.herder t).entry k serial

/-- Changes one scoreboard entry. -/
def State.modEntry (s : State) (t : Nat) (k : Bool) (serial : Nat) (f : Entry → Entry) : State :=
  s.modHerder t (fun h => { h with board := h.board.map (fun e => if e.is k serial then f e else e) })

/-- The stream of an entry. -/
def State.stream (s : State) (t : Nat) (k : Bool) (serial : Nat) : Option Strm :=
  (s.tile t).retr.strms.find? (fun x => x.kctx == k && x.serial == serial)

/-- The writing instruction that a request to another module belongs to: its tile, context and serial (12 R466). -/
def Purpose.writer : Purpose → Option (Nat × Bool × Nat)
  | .rtvWrite t k n | .drnWrite t k n | .chainBeat t k n | .sledBeat t k n _ => some (t, k, n)
  | _ => none

/-- Writes to another module of the context's instructions below a serial number are not acknowledged (07 R244,
R248). -/
def State.owes (s : State) (t : Nat) (k : Bool) (serial : Nat) : Bool :=
  s.link.outst.any (fun o => match o.what.writer with
    | some (u, j, n) => u == t && j == k && decide (n < serial)
    | none => false)

/-- The `drn` has output writes outstanding on links. -/
def State.drnOut (s : State) (t : Nat) (k : Bool) (serial : Nat) : Bool :=
  s.link.outst.any (fun o => decide (o.what = .drnWrite t k serial))

/-- Entries whose fault may complete: the writes of a stream or a `drn` have completed at their targets. -/
def State.faultReady (s : State) (t : Nat) (e : Entry) : Bool :=
  e.fault.isSome && e.phase == .done && !s.drnOut t e.kctx e.serial
    && (match s.stream t e.kctx e.serial with | some x => x.wout.isEmpty | none => true)

/-- Removes an entry without completing it (11 R429). -/
def State.dropEntry (s : State) (t : Nat) (k : Bool) (serial : Nat) : State :=
  s.modHerder t (fun h => { h with board := h.board.filter (fun e => !e.is k serial) })

/-- The task of a context advances: its stall timer restarts (11 R427). -/
def State.advance (s : State) (t : Nat) (k : Bool) : State :=
  s.modHerder t (fun h => if k then { h with advK := s.now } else { h with advU := s.now })

/-- An instruction completes: its entry leaves the scoreboard and its status word enters the table (07 R234,
R238). -/
def State.complete (s : State) (t : Nat) (k : Bool) (serial : Nat) : State :=
  match s.entry t k serial with
  | none => s
  | some e =>
    let s := s.dropEntry t k serial
    s.setCtx t k ((s.ctx t k).putStatus e.ticket e.statusWord)

/-- An engine detects an asynchronous fault of an instruction (07 R258, 08 R287). The first one stands. -/
def State.faultEntry (s : State) (t : Nat) (k : Bool) (serial : Nat) (x : Exc) (info : Nat) : State :=
  s.modEntry t k serial (fun e =>
    { e with phase := .done, fault := if e.fault.isSome then e.fault else some (x, info) })

/-! Exceptions (07 R258 to R265) -/

def Level.code : Level → Nat
  | .u => 0 | .k => 1 | .f => 2

/-- Records an exception of a context and halts it; the herder has still to signal the front end (07 R260). A later
exception of the tile writes the registers again. -/
def State.raise (s : State) (t : Nat) (k : Bool) (precise : Bool) (x : Exc) (pc info ticket : Nat) : State :=
  let c := s.ctx t k
  let s := s.setReg (tilePage t oHrdExc) (BitVec.ofNat 64
    (ticket <<< 16 + 1 <<< 11 + c.level.code <<< 9 + (if precise then 1 <<< 8 else 0) + x.code))
  let s := s.setReg (tilePage t oHrdExcPc) (BitVec.ofNat 64 pc)
  let s := s.setReg (tilePage t oHrdExcInfo) (BitVec.ofNat 64 info)
  if c.st = .draining ∨ c.st = .idle then s
  else s.setCtx t k { c with st := .haltedExc, wait := .none, signal := true, excHalt := true, excCode := x.code }

/-! Poison (10 R376, R378) -/

/-- Poisons the 64-bit word or the 64-byte block that holds an address. -/
def State.poisonAt (s : State) (a : Nat) : State :=
  match regionOf a with
  | .sram _ _ => { s with eccW := SMap.set s.eccW (a / 8) 0xFF }
  | .hbm _ => { s with eccB := SMap.set s.eccB (a / 64) hbmPoisonPat }
  | _ => s

/-- Poisons the words or blocks of a range. -/
def State.poisonRange (s : State) (a n : Nat) : State :=
  (List.range ((n + 15) / 8)).foldl (fun s i =>
    let x := a / 8 * 8 + 8 * i
    if x < a + n then s.poisonAt x else s) s

/-! Abandoned passes (11 R429 step 4, 03 R84) -/

/-- Poisons the quire elements a pass targets, or clears its in-cell registers (11 R429). -/
def State.abandonTargets (s : State) (t : Nat) (p : Pass) : State :=
  let w := p.word
  let tq := TD.ofWord p.tq
  let tw := TD.ofWord p.tw
  let m := tq.n 0
  if mmaIcr w then
    let keys := mmaKeys p.gang w m (blockN tw)
    s.modTile t (fun x => { x with pack := { x.pack with
      icr := x.pack.icr.filter (fun kv => !keys.contains kv.1) } })
  else
    match tq.fmt with
    | none => s
    | some f =>
      let streams := if p.gang = 1 then 4 else 1
      (List.range streams).foldl (fun s k =>
        (List.range m).foldl (fun s v =>
          let a := quireAddr t tq f (p.gang == 3) k v 0
          s.poisonRange (tileBase t + quireOff + a.toNat) (blockN tw * (f.width / 8))) s) s

/-- Whether every vector of a pass has entered the array. -/
def Pass.allIn (p : Pass) : Bool := decide ((TD.ofWord p.tq).n 0 ≤ p.entered) && p.loaded

/-- Every pass of an array. -/
def Arr.passes (a : Arr) : List Pass := a.queue ++ a.reruns ++ a.loading.toList ++ a.streaming.toList ++ a.flying

/-- The pass whose vector leaves the rows next. -/
def Arr.draining (r : Arr) : Option Pass := (r.flying ++ r.streaming.toList).find? (fun p => !p.flight.isEmpty)

/-- The array without the passes that a test names. -/
def Arr.without (a : Arr) (p : Pass → Bool) : Arr :=
  { a with
    queue := a.queue.filter (fun x => !p x)
    reruns := a.reruns.filter (fun x => !p x)
    loading := a.loading.filter (fun x => !p x)
    streaming := a.streaming.filter (fun x => !p x)
    flying := a.flying.filter (fun x => !p x)
    due := a.due && !a.draining.any p }

/-- Abandons the passes of a tile that a test names: their targets are poisoned or cleared and their
instructions leave the scoreboard (11 R429). -/
def State.abandonPasses (s : State) (t : Nat) (p : Pass → Bool) : State :=
  let gone := (s.tile t).pack.arrs.flatMap (fun ka => ka.2.passes.filter p)
  let s := gone.foldl (fun s x => (s.abandonTargets t x).dropEntry t x.kctx x.serial) s
  s.modTile t (fun x => { x with pack := { x.pack with
    held := x.pack.held.filter (fun q => !p q)
    parked := x.pack.parked.filter (fun q => !p q)
    arrs := x.pack.arrs.map (fun ka => (ka.1, ka.2.without p)) } })

/-! Draining a context (11 R429) -/

/-- The role and return-leg bits of a `red` (08 R307). -/
def redRole (w : BitVec 64) : Nat := fld w 26 25
def redRet (w : BitVec 64) : Bool := bit w 27

/-- The beats of a stage: 64 bytes each (04 R140). -/
def Stage.beats (g : Stage) : Nat := (g.hi - g.lo + 63) / 64
def Stage.is (k : Bool) (serial : Nat) (g : Stage) : Bool := g.kctx == k && g.serial == serial

/-- What an abandoned stage would still have received. -/
def Stage.drops (g : Stage) : List Drop :=
  [ { ret := false, list := g.list, dev := none, lo := g.lo, hi := g.hi, n := if g.role = 1 then 0 else g.beats - g.next },
    { ret := true, list := false, dev := g.ndev, lo := g.nlo, hi := g.nhi,
      n := if g.ret && g.role != 3 then g.beats - g.retNext else 0 } ].filter (fun d => d.n != 0)

/-- The chain stage of an abandoned `red` or `topk` is cleared, and the beats it would still have received are
counted, to be discarded when they come (11 R429). -/
def State.dropStage (s : State) (t : Nat) (k : Bool) (serial : Nat) : State :=
  s.modTile t (fun x => { x with chain :=
    { stages := x.chain.stages.filter (fun g => !g.is k serial)
      drops := x.chain.drops ++ (x.chain.stages.filter (Stage.is k serial)).flatMap Stage.drops } })

/-- Requests of a stream on their way (09 R326). -/
def Strm.quiet (x : Strm) : Bool := x.reads.isEmpty && x.wout.isEmpty

/-- The block and module of a write that has not left the retriever. -/
def WrReq.place (w : WrReq) : Nat × Option Nat := (w.va, w.dev)

/-- What an abandoned MEMBER or TAIL would still have received (11 R429 step 6). -/
def Strm.sledLeft (x : Strm) : List SledDrop :=
  if (x.kind == .ldwMember || x.kind == .ldwTail) && !(x.header && x.sent == x.total) then
    [{ from_ := x.from_, left := x.total - x.sent }]
  else []

/-- A stream that issues nothing more; what has not issued is dropped. -/
def Strm.stop (x : Strm) : Strm :=
  { x with stopping := true, wq := [], again := [], fault := none, sledOut := [] }

/-- Stops the streams of a context: those with nothing outstanding end, the others issue nothing more and
their returning data is discarded (11 R429 step 3). -/
def State.stopStreams (s : State) (t : Nat) (k : Bool) : State :=
  let mine := (s.tile t).retr.strms.filter (fun x => x.kctx == k)
  let s := (mine.filter Strm.quiet).foldl (fun s x => s.dropEntry t k x.serial) s
  s.modTile t (fun x => { x with retr := { x.retr with
    strms := (x.retr.strms.filter (fun y => !(y.kctx == k && y.quiet))).map (fun y =>
      if y.kctx == k then y.stop else y)
    sledDrop := x.retr.sledDrop ++ mine.flatMap Strm.sledLeft
    unsent := x.retr.unsent ++ mine.flatMap (fun y => y.wq.map WrReq.place) } })

/-- The `drn` of a context stop at their group boundary: the flags of the groups written stay (02 R63), and output
writes that have not left are discarded (10 R396). -/
def State.stopDrns (s : State) (t : Nat) (k : Bool) : State :=
  let gone := (s.tile t).drn.filter (fun d => d.kctx == k)
  let s := gone.foldl (fun s d => s.setFlags t d.flags) s
  let lost (d : DrnRun) : List (Nat × Option Nat) := d.outq.map (fun x => (x.1, some d.dev))
  s.modTile t (fun x => { x with
    drn := x.drn.filter (fun d => d.kctx != k)
    retr := { x.retr with unsent := x.retr.unsent ++ gone.flatMap lost } })

/-- Stops a context and discards its work at the boundaries of R429. -/
def State.drainCtx (s : State) (t : Nat) (k : Bool) : State :=
  let c := s.ctx t k
  let s := s.setCtx t k { c with st := .draining, wait := .none, deps := [], signal := false }
  -- passes that are not wholly in their array
  let s := s.abandonPasses t (fun p => p.kctx == k && !p.allIn)
  -- parked entries, instructions not begun, and handles not accepted
  let s := s.modHerder t (fun h => { h with
    park := h.park.filter (fun e => e.kctx != k)
    board := h.board.filter (fun e => !(e.kctx == k && e.phase == .issued))
    out := h.out.filter (fun o => o.kctx != k) })
  -- `drn`, `sfu`, `smp`, `red` and `topk` stop at a boundary
  let stop := (s.herder t).board.filter (fun e => e.kctx == k && (e.cls == .drn || e.cls == .sfu || e.cls == .chn))
  let s := stop.foldl (fun s e =>
    (s.dropStage t k e.serial).dropEntry t k e.serial) s
  let s := (s.stopDrns t k).modTile t (fun x => { x with sfu := x.sfu.filter (fun d => d.kctx != k) })
  s.stopStreams t k

/-- Stops what a task has on one tile: its context, or its launch that has not started. -/
def State.drainOn (s : State) (r : TaskRef) (t : Nat) (k : Bool) : State :=
  let s := s.modHerder t (fun h => { h with launches := h.launches.filter (fun l => !(l.kctx == k && l.task = r)) })
  if (s.ctx t k).task = some r then s.drainCtx t k else s

/-- Tiles whose contexts hold, or are about to start, a task. -/
def State.taskTiles (s : State) (r : TaskRef) : List (Nat × Bool) :=
  s.tiles.flatMap (fun (t, x) =>
    (if x.herder.user.task = some r ∨ x.herder.launches.any (fun l => l.task = r && !l.kctx) then [(t, false)] else [])
    ++ (if x.herder.kern.task = some r ∨ x.herder.launches.any (fun l => l.task = r && l.kctx) then [(t, true)] else []))

/-- Sets an event register with VALID at bit v and OVERRUN above it (11 R441). -/
def State.event (s : State) (a v : Nat) (fields : Nat) : State :=
  let old := s.reg a
  s.setReg a (BitVec.ofNat 64 (fields + 1 <<< v + (if bit old v || bit old (v + 1) then 1 <<< (v + 1) else 0)))

/-- Records a drain or a kill in FE_HANG_LOG (11 R430, R441). -/
def State.hangLog (s : State) (g tile cause : Nat) (killed : Bool) : State :=
  s.event (partPage (g / 64) oHangLog) 38
    (g % 64 + tile <<< 24 + cause <<< 35 + (if killed then 1 <<< 37 else 0))

def Ring.modPkt (r : Ring) (n : Nat) (f : Pkt → Pkt) : Ring :=
  { r with pkts := r.pkts.map (fun p => if p.count = n then f p else p) }

/-- Drains a task: every tile of its group stops (11 R429). The cause is that of FE_HANG_LOG. -/
def State.drainTask (s : State) (r : TaskRef) (cause : Nat) (res : TaskRes) (code tile : Nat) : State :=
  match (s.ring r.ring).pkts.find? (fun p => p.count = r.count) with
  | none => s
  | some p =>
    match p.st with
    | .running =>
      let tiles := s.taskTiles r
      let s := tiles.foldl (fun s tk => s.drainOn r tk.1 tk.2) s
      let s := s.modRing r.ring (fun x => x.modPkt r.count (fun p =>
        { p with st := .draining cause s.now, result := res, code := code, tile := tile }))
      let rep := if tile = 0x7FF then (tiles.map (·.1)).foldl min 0x7FF else tile
      s.hangLog r.ring rep cause false
    | .draining c0 b =>
      if res = .partReset then
        s.modRing r.ring (fun x => x.modPkt r.count (fun p => { p with st := .draining c0 b, result := .partReset }))
      else s
    | _ => s

/-! Rust errors (15 R569) -/

/-- A packet that was fetched and neither dispatched nor executed ends with PART_RESET (11 R414). -/
def Pkt.partReset (k : Pkt) (now : Nat) : Pkt :=
  match k.st with
  | .fetched | .valid =>
    { k with st := .ended, result := .partReset, endAt := now
             start := if fld (k.words.getD 0 0) 3 0 = 1 then k.start else now }
  | _ => k

/-- FETCHED counts every packet that the ring holds (11 R404). -/
def Ring.fetchedAll (r : Ring) : Ring :=
  if r.pkts.isEmpty then r
  else
    let n := (r.done + r.pkts.length) % 2 ^ 32
    { r with fetched := n, fetchedC := complN 32 n }

/-- Drains the running tasks of a partition and ends its other fetched packets, with PART_RESET. -/
def State.drainPart (s : State) (p : Nat) : State :=
  (List.range 64).foldl (fun s r =>
    let g := 64 * p + r
    let refs := (s.ring g).pkts.filterMap (fun k =>
      match k.st with
      | .running | .draining _ _ => some (TaskRef.mk g k.count)
      | _ => none)
    let s := refs.foldl (fun s x => s.drainTask x 0 .partReset 0 0x7FF) s
    s.modRing g (fun x => { x.fetchedAll with pkts := x.pkts.map (fun k => k.partReset s.now) })) s

/-- A Rust error against a partition (15 R569, R573): logged; the partition starts to drain unless it already
does. `quiet` says that the event starts no reset of a held partition (LOST, R573). -/
def State.rustError (s : State) (src : Source) (p unit info : Nat) : State :=
  let s := s.log src .rust (some p) unit info
  let s := s.setRegF (partPage p oRelStatus) 15 8 src.code
  let s := s.addRegF (partPage p oRelCnt) 31 16 1
  let st := (s.part p).st
  if st = .drain ∨ st = .reset ∨ st = .failed ∨ (st = .held ∧ src = .lost) ∨ s.sec.crimson then s
  else
    let s := s.modPart p (fun x => { x with st := .drain, rustAt := s.now, seqOn := true, seqRust := true, seqFlr := false })
    let s := s.msix (128 * p + 64)
    s.drainPart p

/-! Marking a tile for retirement (15 R581 to R585) -/

/-- The physical column of a logical column on its die (15 R583). -/
def State.physCol (s : State) (col : Nat) : Nat :=
  if col < 24 then (if col < s.regF (rRelSpare false) 4 0 then col else col + 1)
  else if col - 24 + 1 > s.regF (rRelSpare true) 4 0 then col - 24 + 1 else col - 24

/-- A tile is marked for retirement (15 R584, R585): its partition will become FAILED; the die notes the physical
column, unless a retirement is already in effect there, which exhausts its spare. -/
def State.markRetire (s : State) (t : Nat) : State :=
  let col := t % 48
  let east := decide (24 ≤ col)
  let r := rRelSpare east
  let s := match s.tilePart t with
    | some p => s.modPart p (fun x => { x with retire := true })
    | none => s
  if s.regF r 4 0 ≠ (if east then 0 else 24) then
    (s.log .spareExhausted .none (s.tilePart t) t 0).setRegF r 15 15 1
  else if s.regF r 14 14 = 1 then s
  else (s.setRegF r 12 8 (s.physCol col)).setRegF r 14 14 1

/-! Suspended tiles (11 R427; 15 R591) -/

/-- A link is in an episode: recovering, or setting NAK; a link that goes down answers its transactions at once. -/
def Link.recovering (l : Link) : Bool := l.replay.isSome || l.episode.isSome || l.nak

/-- The links on which a tile waits while they recover. -/
def State.waitsOn (s : State) (t : Nat) : List Link :=
  (s.link.links.filter (fun kl =>
    kl.2.recovering
    && (s.link.outst.any (fun o => o.tile == t && o.port == kl.1)
        || (s.tile t).chain.stages.any (fun g => g.armed)
        || (s.tile t).retr.strms.any (fun x => x.kind == .ldwMember || x.kind == .ldwTail)))).map (·.2)

/-- How long a recovery suspends the tiles that wait on it, in ns (15 R591). -/
def episodeMax : Nat := 2000000

/-- A tile is suspended on a link (15 R591). -/
def State.suspended (s : State) (t : Nat) : Bool := (s.waitsOn t).any (fun l => decide (s.now < l.epAt + episodeMax))

/-- Timers of suspended tiles stay at zero: this runs before whatever may end a suspension, and at each check. -/
def State.holdTimers (s : State) : State :=
  (s.tiles.map (·.1)).foldl (fun (s : State) t =>
    if s.suspended t then s.modHerder t (fun h => { h with advU := s.now, advK := s.now }) else s) s

/-- The last moment, up to now, at which a tile was suspended on a link that recovers still; 0 for none. -/
def State.heldUntil (s : State) (t : Nat) : Nat := ((s.waitsOn t).map (fun l => min s.now (l.epAt + episodeMax))).foldl max 0

/-! Links going down (12 R471, R478 to R480) -/

def State.linkOf (s : State) (k : Nat) : Link := SMap.get {} s.link.links k
def State.setLink (s : State) (k : Nat) (l : Link) : State :=
  { s with link := { s.link with links := SMap.set s.link.links k l } }
def State.modLink (s : State) (k : Nat) (f : Link → Link) : State := s.setLink k (f (s.linkOf k))

/-- A port is live while its link is ACTIVE and ROUTED (12 R471). -/
def State.live (s : State) (k : Nat) : Bool := (s.linkOf k).st == .active && (s.linkOf k).routed

/-- A route-table entry's pair agrees (12 R470). -/
def routePairOk (e : Word) : Bool := fld e 63 32 == complN 32 (fld e 31 0)

/-- The first live port of an entry, from port SRCTILE mod COUNT on (12 R471). -/
def State.pickPort (s : State) (e : Word) (srcTile : Nat) : Option Nat :=
  let c := fld e 26 24
  if c = 0 ∨ 4 < c then none
  else
    ((List.range c).map (fun i => nfld (fld e 23 0) (6 * ((srcTile + i) % c) + 5) (6 * ((srcTile + i) % c)))).find? s.live

/-- Slots of a transaction: its header and its data; an RD carries none (12 R464). -/
def Txn.nSlots (x : Txn) : Nat := 1 + (x.data.length + 15) / 16

/-- The response to a request (12 R464, R466). -/
def Txn.respond (x : Txn) (st : TStat) (data : List (BitVec 8)) : Txn :=
  { type := x.type.answer, hops := 0, dst := x.src, src := x.dst, srcTile := x.srcTile, part := x.part, tag := x.tag,
    addr := x.addr, len := max 1 data.length, fmt := 0, status := st.code, vc := .rsp, data := data }

/-- The transaction that a link which goes down sends for one it can no longer deliver (12 R479). -/
def Txn.lost (x : Txn) : Option Txn :=
  match x.type with
  | .time | .enum => none
  | _ => if x.type.isResp then some { x with status := TStat.lost.code, data := [], len := 1 }
         else some { x.respond .lost [] with src := x.dst }

/-- A response that finds no live port waits for one (12 R467). -/
def State.stick (s : State) (y : Txn) : State := { s with link := { s.link with stuck := s.link.stuck ++ [y] } }

/-- Sends a response toward its destination: into this module's own receive side of link k when it is for
this module, else to a live port. -/
def State.sendBack (s : State) (k : Nat) (x : Txn) : State :=
  if x.dst = s.link.en.devid ∧ x.dst ≠ 0x3FFF then s.modLink k (fun l => { l with rx := l.rx ++ [{ txn := x, own := true }] })
  else
    let e := s.reg (routeAddr x.dst)
    if routePairOk e then
      match s.pickPort e x.srcTile with
      | some j => s.modLink j (fun l => { l with txq := l.txq ++ [{ x with hops := s.regF rLnkCfg 5 0 }] })
      | none => s.stick x
    else s.stick x

/-- The transactions that begin in a flit of the replay buffer. -/
def KeptFlit.begun (f : KeptFlit) : List Txn := if f.slots.head?.any (fun x => !x.start) then f.txns.drop 1 else f.txns

/-- The transactions with a slot in unacknowledged flits, or cut before their last slot, each once. -/
def Link.undelivered (l : Link) : List Txn :=
  match l.kept, l.cut with
  | f :: fs, _ => f.txns ++ fs.flatMap KeptFlit.begun
  | [], some (x, _) => [x]
  | [], none => []

/-- The link-control flit command 0x03 DOWN_NOTICE with a reason (12 R459). -/
def lcfNotice (r : DownReason) : LcfCmd := { cmd := 3, arg := r.code }

/-! Enumeration ends in FAIL (12 R485) -/

/-- The data word of an ENUM message (12 R484). -/
def enumWord (next kind cause rootId : Nat) : Nat :=
  next % 2 ^ 14 + kind <<< 14 + cause <<< 16 + rootId <<< 18

/-- Queues a link-local ENUM message on a link (12 R484). -/
def State.sendEnum (s : State) (k next kind cause : Nat) : State :=
  s.modLink k (fun l => { l with txq := l.txq ++ [
    { type := .enum, vc := .msg, src := s.link.en.devid, len := 8,
      data := toBytesLE 8 (enumWord next kind cause s.link.en.rootId) }] })

/-- FAIL at the module that holds the token: the root records it, another module returns it to its parent. -/
def State.enumFail (s : State) (cause : Nat) : State :=
  let e := s.link.en
  let s := { s with link := { s.link with en := { e with holding := false, waiting := none } } }
  if e.root then
    { s with link := { s.link with en := { s.link.en with fail := true, cause := cause, nextOut := e.next } } }
  else match e.parent with
    | some k => s.sendEnum k e.next 3 cause
    | none => s

/-- A link whose end waits for a returned token goes down (12 R485). -/
def State.enumLinkDown (s : State) (k : Nat) : State :=
  if s.link.en.waiting = some k then s.enumFail 2 else s

/-- A link goes to DOWN (12 R478, R479): it stops being live, what it can no longer deliver is answered LOST or
sent on another port, the event is logged and counted. -/
def State.linkDown (s : State) (k : Nat) (r : DownReason) : State :=
  let l := s.linkOf k
  if l.st = .down ∨ l.st = .disabled then s
  else
    let s := s.holdTimers
    let s := s.setLink k { l with
      st := .down, reason := r, routed := false, kept := [], txq := [], cut := none, replay := none, attempts := 0,
      episode := none, nak := false, part := [], narrowReq := none, returns := 0, lcfIn := none, idOut := none,
      lcfOut := if r = .ladder ∨ r = .disabled then lcfNotice r else {} }
    let s := s.addRegF (linkReg k 0x20) 63 56 1
    let s := s.log .linkDown .amber none k r.code
    let s := s.enumLinkDown k
    let s := l.undelivered.foldl (fun s x =>
      match x.lost with
      | some y => s.sendBack k y
      | none => s) s
    l.txq.foldl (fun s x =>
      match x.type with
      | .time | .enum => s
      | _ =>
        match s.pickPort (s.reg (routeAddr x.dst)) x.srcTile with
        | some j => s.modLink j (fun m => { m with txq := m.txq ++ [x] })
        | none => match x.lost with
          | some y => s.sendBack k y
          | none => s) s

/-! Crimson errors (15 R571) -/

/-- Sets the FAIL state of start-up (17 R651). -/
def State.startFail (s : State) (cause : Nat) : State :=
  let s := { s with mgt := { s.mgt with fail := true, cause := cause } }
  s.setRegF rMgtAlert 3 3 1

/-- A Crimson error before READY, in sit mode entered at boot too, advances CRESETS; the third in a row, or a trip during
MEASURE, stops start-up (17 R651). -/
def State.countCrimson (s : State) (trip : Bool) (cause : Nat) : State :=
  match s.mgt.phase with
  | .ready => s
  | _ =>
    let n := satAdd 255 s.mgt.cresets 1
    let s := { s with mgt := { s.mgt with cresets := n } }
    if trip then s.startFail cause else if 3 ≤ n then s.startFail 5 else s

/-- A Crimson error (15 R571, R573; 17 R651, R662; 18 R676): the tiles stop, fetching stops, every link goes
down with reason DISABLED, the entry is copied unless one is held, and the host and the chain are told. -/
def State.crimsonError (s : State) (src : Source) (info : Nat) : State :=
  let first := !s.sec.crimson
  let s := s.setRegF rMgtAlert 0 0 1
  let seq := s.sec.logNext
  let s := s.log src .crimson none 0x7FF info
  let s :=
    if s.regF rRelCrimsonCtl 0 0 = 1 then s
    else
      let e := SMap.get {} s.sec.log (seq % 512)
      let s := (List.range 4).foldl (fun s w => s.setReg (rRelCrimson w) (e.word w)) s
      s.setRegF rRelCrimsonCtl 0 0 1
  if !first then s
  else
    let pw := decide (src = .rail ∨ src = .thermal)
    let s := { s with sec := { s.sec with crimson := true, crimsonAt := s.now, crimsonPower := pw }
                      fe := { s.fe with halted := true } }
    let s := (List.range 36).foldl (fun s k => s.linkDown k .disabled) s
    let s := s.tell .aerFatal
    s.countCrimson (pw && (s.mgt.phase == .measure)) (if src = .rail then 1 else 2)

/-! Uses of complement-stored registers (00 R15, 15 R588, R594 code 6) -/

/-- The next use of the CW register at an address sees a mismatch when an injection is armed for it; the
injection is consumed. -/
def State.injComp (s : State) (a : Nat) : Bool × State :=
  let c := s.reg rRelInjCtl
  if s.sec.inj.armed ∧ fld c 3 0 = 6 ∧ s.regF rRelInjAddr 47 0 = a then
    (true, { s with sec := { s.sec with inj := { s.sec.inj with armed := false } } })
  else (false, s)

/-- Runs an action whose log entries carry INJ = 1 when `i` is set (15 R567, R594). -/
def State.withInj (s : State) (i : Bool) (f : State → State) : State :=
  if i then
    let s := f { s with sec := { s.sec with inj := { s.sec.inj with active := true } } }
    { s with sec := { s.sec with inj := { s.sec.inj with active := false } } }
  else f s

/-- The twin of a CW register stored at the next word agrees in its CW fields (00 R14). -/
def State.twinOk (s : State) (a : Nat) : Bool :=
  match findReg a with
  | some r => decide ((s.reg a ^^^ s.reg (a + 8)) &&& r.cwMask = r.cwMask)
  | none => true

/-- A use of a CW register held in a partition or the module: true when the pair fails its check, with the
action of R588 (Rust for a partition, Crimson for the module). -/
def State.useCw (s : State) (part : Option Nat) (a : Nat) : Bool × State :=
  let (i, s) := s.injComp a
  if i || !s.twinOk a then
    (true, s.withInj i (fun s =>
      match part with
      | some p => s.rustError .compPart p 0x7FF a
      | none => s.crimsonError .compModule a))
  else (false, s)

end Sys2Proof.Machine
end

