-- ==== Sys2Proof/Machine/Mem.lean ====
section
/-! DEFINITION. Reads and writes of SRAM and HBM with their ECC: correction, poison, merge, logging and injected
errors (10 R374 to R379, 15 R589, R594). -/
namespace Sys2Proof.Machine

/-- One unit of ECC: a 64-bit SRAM word of a tile or a 64-byte HBM block (10 R374, R377). -/
structure EccUnit where
  hbm : Bool
  addr : Nat
  deriving DecidableEq, Repr

/-- The unit that holds an address. -/
def eccUnit (a : Nat) : EccUnit :=
  match regionOf a with
  | .hbm _ => ⟨true, a / 64 * 64⟩
  | _ => ⟨false, a / 8 * 8⟩

def EccUnit.size (u : EccUnit) : Nat := if u.hbm then 64 else 8

/-- The units that a range touches. -/
def eccUnits (a n : Nat) : List EccUnit :=
  let u := eccUnit a
  let k := u.size
  (List.range ((a % k + n + k - 1) / k)).map (fun i => ⟨u.hbm, u.addr + k * i⟩)

/-- What the stored check bits or check symbols of a unit differ by from the right ones. -/
def State.checkDiff (s : State) (u : EccUnit) : BitVec 64 :=
  if u.hbm then SMap.get 0 s.eccB (u.addr / 64) else (SMap.get 0 s.eccW (u.addr / 8)).setWidth 64

def State.setCheckDiff (s : State) (u : EccUnit) (d : BitVec 64) : State :=
  if u.hbm then
    { s with eccB := if d = 0 then SMap.erase s.eccB (u.addr / 64) else SMap.set s.eccB (u.addr / 64) d }
  else
    let d := d.setWidth 8
    { s with eccW := if d = 0 then SMap.erase s.eccW (u.addr / 8) else SMap.set s.eccW (u.addr / 8) d }

/-- The difference that poisons a unit (10 R376, R378). -/
def EccUnit.poison (u : EccUnit) : BitVec 64 := if u.hbm then hbmPoisonPat else 0xFF

/-- UNIT of a log entry: the tile or the HBM channel (15 R566). -/
def EccUnit.unit (u : EccUnit) : Nat :=
  match regionOf u.addr with
  | .sram t _ => t
  | .hbm _ => hbmChannel u.addr
  | _ => 0x7FF

/-- An injected error of a read (15 R594 codes 1 to 3): bits of an SRAM word, or a number of symbols of an HBM block. -/
inductive Injected where
  | bits (l : List Nat)
  | symbols (n : Nat)
  deriving DecidableEq, Repr

/-- The injection armed for a unit, if any. -/
def State.injEcc (s : State) (u : EccUnit) : Option Injected :=
  let c := s.reg rRelInjCtl
  let code := fld c 3 0
  let hit := s.sec.inj.armed && (eccUnit (s.regF rRelInjAddr 47 0) == u)
  if !hit then none
  else if !u.hbm then
    (if code = 1 then some (.bits [fld c 37 32]) else if code = 2 then some (.bits [fld c 37 32, fld c 43 38]) else none)
  else if code = 3 then some (.symbols (fld c 35 32))
  else none

def State.disarm (s : State) : State := { s with sec := { s.sec with inj := { s.sec.inj with armed := false } } }

/-- What a unit reads as from the difference of its check bits and an injected error; a poisoned unit is reported
first. The hardware chooses the symbols it corrupts so that one or two are corrected and more are not (15 R594). -/
def EccUnit.class (u : EccUnit) (d : BitVec 64) (inj : Option Injected) : EccRead :=
  if d = u.poison then .poisoned
  else match u.hbm, inj with
    | true, some (.symbols n) => if n ≤ 2 then .corrected else .uncorrectable
    | true, _ => blockClass d
    | false, some (.bits l) => syndromeClass (d.setWidth 8 ^^^ errorSyndrome l)
    | false, _ => syndromeClass (d.setWidth 8)

/-- What the next read of a unit meets. -/
def State.eccClass (s : State) (u : EccUnit) : EccRead := u.class (s.checkDiff u) (s.injEcc u)

/-- A Rust error for the partition that owns an address, if one does; else the event is logged alone. -/
def State.rustAt (s : State) (src : Source) (u : EccUnit) : State :=
  match s.addrPart u.addr with
  | some p => s.rustError src p u.unit u.addr
  | none => s.log src src.sev none u.unit u.addr

/-- The actions of R589 on a class met by a read: log, write-back, count, poison in place. `fe` says that the
front end or a translation lookup reads: then a poisoned unit is Rust too. -/
def State.eccAct (s : State) (u : EccUnit) (c : EccRead) (fe : Bool) : State :=
  match c with
  | .clean => s
  | .corrected =>
    let s := s.setCheckDiff u 0
    let s := s.log (if u.hbm then .hbmCe else .sramCe) .amber (s.addrPart u.addr) u.unit u.addr
    if u.hbm then s else s.addRegF (tilePage u.unit oTileCnt) 15 0 1
  | .uncorrectable =>
    (s.setCheckDiff u u.poison).rustAt (if u.hbm then .hbmUe else .sramUe) u
  | .poisoned =>
    if fe then s.rustAt (if u.hbm then .hbmPoison else .sramPoison) u
    else s.log (if u.hbm then .hbmPoison else .sramPoison) .none (s.addrPart u.addr) u.unit u.addr

/-- Checks one unit on a read. -/
def State.eccRead1 (s : State) (u : EccUnit) (fe : Bool) : EccRead × State :=
  let inj := s.injEcc u
  let c := s.eccClass u
  let s := if inj.isSome then s.disarm else s
  (c, s.withInj inj.isSome (fun s => s.eccAct u c fe))

/-- Checks the units of a range on a read: whether every one delivers data. -/
def State.eccRead (s : State) (a n : Nat) (fe : Bool) : Bool × State :=
  (eccUnits a n).foldl (fun (r : Bool × State) u =>
    let (c, s) := r.2.eccRead1 u fe
    (r.1 && c.ok, s)) (true, s)

/-- The first address of a range whose unit does not read (for HRD_EXC_INFO). -/
def State.eccBad (s : State) (a n : Nat) : Nat :=
  match (eccUnits a n).find? (fun u => !(s.eccClass u).ok) with
  | some u => max a u.addr
  | none => a

/-- n bytes of memory as a reader gets them; none when a unit is uncorrectable or poisoned (10 R375). -/
def State.load (s : State) (a n : Nat) (fe : Bool := false) : Option (List Byte) × State :=
  let (ok, s) := s.eccRead a n fe
  (if ok then some (s.rawRead a n) else none, s)

/-- The bytes of a unit after a write of part of it. -/
def State.mergeUnit (s : State) (u : EccUnit) (a : Nat) (bs : List Byte) : State :=
  let lo := max a u.addr
  let hi := min (a + bs.length) (u.addr + u.size)
  let part := (bs.drop (lo - a)).take (hi - lo)
  match regionOf u.addr with
  | .hbm c =>
    match s.setKey c with
    | none => { s with mem := s.mem.writeN lo part }
    | some _ =>
      let old := s.blockBytes u.addr
      s.putBlock u.addr (old.take (lo - u.addr) ++ part ++ old.drop (hi - u.addr))
  | _ => { s with mem := s.mem.writeN lo part }

/-- A write to one unit: all of it gives a clean codeword; part of it reads the unit and merges. What the merge read
meets has the actions of R589, but that a poisoned unit is left so and logged only for an injection that the read
consumes (10 R376, R379, 15 R589, R594). -/
def State.store1 (s : State) (u : EccUnit) (a : Nat) (bs : List Byte) : State :=
  if a ≤ u.addr ∧ u.addr + u.size ≤ a + bs.length then (s.setCheckDiff u 0).mergeUnit u a bs
  else if s.eccClass u = .poisoned ∧ s.injEcc u = none then s
  else
    let (c, s) := s.eccRead1 u false
    if c.ok then s.mergeUnit u a bs else s

/-- Writes bytes to memory. -/
def State.store (s : State) (a : Nat) (bs : List Byte) : State :=
  (eccUnits a bs.length).foldl (fun s u => s.store1 u a bs) s

/-- Zeroes a range of memory with clean codewords (10 R397, 16 R625). -/
def State.zeroRange (s : State) (lo hi : Nat) : State :=
  { s with
    mem := s.mem.zero lo hi
    eccW := SMap.eraseRange s.eccW (lo / 8) ((hi + 7) / 8)
    eccB := SMap.eraseRange s.eccB (lo / 64) ((hi + 63) / 64) }

/-- A number of n bytes read little-endian, or none. -/
def State.loadNat (s : State) (a n : Nat) (fe : Bool := false) : Option Nat × State :=
  let (r, s) := s.load a n fe
  (r.map ofBytesLE, s)

/-! Who is ready for a request (14 R535, R536, R548, R551) -/

/-- The memory at an address answers a request now: a tile only while it is in Ivory. -/
def State.targetReady (s : State) (a : Nat) : Bool :=
  match regionOf a with
  | .sram t _ => (s.tile t).pwr.st == .ivory
  | _ => true

/-- A request that reaches a channel set in power-down or self-refresh waits for its exit, which it starts: the
set is active when the request is served. -/
def State.touch (s : State) (a : Nat) : State :=
  match regionOf a with
  | .hbm c =>
    if SMap.get .selfRefresh s.power.ch c = .active then s
    else { s with power := { s.power with ch := SMap.set s.power.ch c .active } }
  | _ => s

/-- n bytes of memory, or the first address that does not read. -/
def State.loadE (s : State) (a n : Nat) : Except Nat (List Byte) × State :=
  let bad := s.eccBad a n
  match s.load a n with
  | (some bs, s) => (.ok bs, s)
  | (none, s) => (.error bad, s)

/-- The bytes of several ranges, one after the other; the first that does not read ends it. -/
def State.loadAll (s : State) : List (Nat × Nat) → Except Nat (List Byte) × State
  | [] => (.ok [], s)
  | (a, n) :: rs =>
    match s.loadE a n with
    | (.error x, s) => (.error x, s)
    | (.ok bs, s) =>
      match s.loadAll rs with
      | (.ok cs, s) => (.ok (bs ++ cs), s)
      | (.error x, s) => (.error x, s)

end Sys2Proof.Machine
end

