-- ==== Sys2Proof/Machine/Herder.lean ====
section
/-! DEFINITION. The herder issues instructions (07 R221 to R261, 08 R267 to R272): fetch, predicates, legality,
privilege, exceptions, lockstep, and what a stalled context waits for. -/
namespace Sys2Proof.Machine

/-! Register files (07 R224, R225) -/

def Ctx.sget (c : Ctx) (i : Nat) : Word := if i = 0 then 0 else SMap.get 0 c.s i
def Ctx.sset (c : Ctx) (i : Nat) (v : Word) : Ctx := if i = 0 then c else { c with s := SMap.set c.s i v }
def Ctx.aget (c : Ctx) (i : Nat) : BitVec 48 := SMap.get 0 c.a i
def Ctx.aset (c : Ctx) (i : Nat) (v : BitVec 48) : Ctx := { c with a := SMap.set c.a i v }
def Ctx.pget (c : Ctx) (i : Nat) : Bool := if i = 0 then true else SMap.get false c.p i
def Ctx.pset (c : Ctx) (i : Nat) (v : Bool) : Ctx := if i = 0 then c else { c with p := SMap.set c.p i v }
def Ctx.tget (c : Ctx) (i : Nat) : BitVec 256 := SMap.get 0 c.t i
def Ctx.tset (c : Ctx) (i : Nat) (v : BitVec 256) : Ctx := { c with t := SMap.set c.t i v }

/-! Encodings (08 R268 to R270, R273 and the word of each instruction) -/

/-- The fields above bit 11 that an opcode uses; none for an opcode outside the map (08 R273). A field that names
an a- or t-register leaves its fifth bit out. -/
def opFields (opc : Nat) : Option (List (Nat × Nat)) :=
  let d := (16, 12)
  let a := (21, 17)
  let b := (26, 22)
  if (0x01 ≤ opc ∧ opc ≤ 0x0C) ∨ (0x30 ≤ opc ∧ opc ≤ 0x32) then some [d, a, b]
  else if opc = 0x10 ∨ opc = 0x12 ∨ opc = 0x13 ∨ opc = 0x14 then some [d, a, (63, 32)]
  else if opc = 0x11 then some [d, (63, 32)]
  else if opc = 0x18 then some [(14, 12), (19, 15), (24, 20), (27, 25)]
  else if opc = 0x19 then some [(14, 12), (17, 15), (22, 20), (27, 25)]
  else if opc = 0x1C then some [(15, 12), a]
  else if opc = 0x1D then some [d, (20, 17)]
  else if opc = 0x1E then some [(15, 12), (20, 17), (63, 32)]
  else if opc = 0x20 then some [(15, 12), a, b]
  else if opc = 0x21 then some [d, (20, 17), b]
  else if opc = 0x22 ∨ opc = 0x23 then some [(15, 12), (20, 17), (63, 32)]
  else if opc = 0x33 then some [d, a, (39, 32)]
  else if opc = 0x34 then some []
  else if opc = 0x35 then some [a]
  else if opc = 0x36 ∨ opc = 0x37 then some [a, b]
  else if opc = 0x38 then some [d]
  else if opc = 0x40 ∨ opc = 0x41 ∨ opc = 0x42 then some [d, (20, 17), (22, 21), (63, 32)]
  else if opc = 0x48 then some [(43, 32)]
  else if opc = 0x49 then some [d, (43, 32)]
  else if opc = 0x4A then some [a]
  else if opc = 0x4B ∨ opc = 0x4C then some []
  else if opc = 0x80 then some [(49, 12)]
  else if opc = 0x81 then some [(34, 12)]
  else if opc = 0x82 then some [(45, 12)]
  else if opc = 0x83 then some [(34, 12)]
  else if opc = 0x84 then some [(40, 12)]
  else if opc = 0x85 then some [(27, 12)]
  else if opc = 0x86 then some [(42, 12)]
  else if opc = 0x87 then some [(38, 12)]
  else if opc = 0x90 then some [(25, 12)]
  else if opc = 0x91 then some [(23, 12)]
  else if opc = 0x92 then some [(28, 12)]
  else if opc = 0x93 then some [(14, 12)]
  else if opc = 0x94 then some [(21, 12)]
  else if opc = 0x95 then some [(19, 12)]
  else if opc = 0xC0 ∨ opc = 0xC1 then some [d, a]
  else if opc = 0xC2 ∨ opc = 0xC3 ∨ opc = 0xC4 then some []
  else none

/-- A reserved encoding in a field, by opcode (08 R269, R275, R276, R289, R296, R306, R307, R315 to R318). -/
def opReserved (w : BitVec 64) : Bool :=
  let opc := fld w 7 0
  if opc = 0x19 then decide (3 < fld w 27 25)
  else if opc = 0x20 ∨ opc = 0x21 then decide (3 < fld w 26 22)
  else if opc = 0x80 then decide (fld w 37 36 = 0 ∨ fld w 41 40 = 3) || (Fmt.ofCode (fld w 35 32)).isNone
  else if opc = 0x82 then decide (fld w 36 35 = 3)
  else if opc = 0x84 then
    decide (0xC ≤ fld w 32 29)
      || (if fld w 32 29 = 0 then decide (fld w 38 33 = 0 ∨ 0x10 ≤ fld w 38 33) else decide (fld w 38 33 ≠ 0))
  else if opc = 0x85 then decide (fld w 26 25 = 0)
  else if opc = 0x91 then decide (fld w 23 23 = 0 ∧ fld w 22 20 ≠ 0)
  else if opc = 0x92 then
    match fld w 23 22 with
    | 0 => decide (fld w 28 24 ≠ 0)
    | 1 => decide (fld w 21 12 ≠ 0 ∨ fld w 28 24 ≠ 0)
    | 2 => decide (fld w 21 12 ≠ 0 ∨ fld w 28 24 = 0)
    | _ => true
  else if opc = 0x93 then decide (fld w 14 12 = 0)
  else if opc = 0x94 then decide (fld w 16 12 = 0 ∨ fld w 21 17 = 0)
  else false

/-- Whether a word raises ILLEGAL (08 R269). -/
def illegalWord (w : BitVec 64) : Bool :=
  match opFields (fld w 7 0) with
  | none => true
  | some fs =>
    let used := fs.foldl (fun m f => m ||| maskOf 64 f.1 f.2) (maskOf 64 11 0)
    decide (w &&& ~~~ used ≠ 0) || opReserved w

/-- The form within an opcode that has several rows: KIND of `stream`, NB of `hget`, FORM of `wait`. -/
def opForm (w : BitVec 64) : Nat :=
  let opc := fld w 7 0
  if opc = 0x82 then fld w 36 35 else if opc = 0x91 then fld w 23 23 else if opc = 0x92 then fld w 23 22 else 0

/-- A form that no row has: KIND or FORM 0b11 (08 R296, R316). Such a word is illegal, and a no-op under a false
predicate (07 R225). -/
def noForm (w : BitVec 64) : Bool :=
  (decide (fld w 7 0 = 0x82) && decide (fld w 36 35 = 3)) || (decide (fld w 7 0 = 0x92) && decide (fld w 23 22 = 3))

/-- The lowest level of an opcode is K for the system class (08 R273). -/
def opSystem (w : BitVec 64) : Bool := decide (0xC0 ≤ fld w 7 0)

/-! Issue -/

/-- What an instruction does in its issue cycle. -/
inductive IRes where
  /-- It retires and the next instruction follows. -/
  | retire (s : State)
  /-- It retires and issue goes on at another offset (08 R282). -/
  | jump (s : State) (pc : Nat)
  /-- It stalls issue. -/
  | stall (s : State) (w : Wait)
  /-- A precise exception: no effect (07 R258). -/
  | exc (x : Exc) (info : Nat)
  /-- An asynchronous exception of an instruction without a ticket (08 R281). -/
  | excA (s : State) (x : Exc) (info : Nat)
  /-- It ends its context (`exit`). -/
  | ends (s : State)

def State.modCtx (s : State) (t : Nat) (k : Bool) (f : Ctx → Ctx) : State := s.setCtx t k (f (s.ctx t k))

/-- The context moves to the next instruction (08 R267). After the last word of a full instruction memory the offset is
2^15, where no word is: the fetch raises IMEM (08 R282). -/
def State.nextPc (s : State) (t : Nat) (k : Bool) : State :=
  (s.modCtx t k (fun c => { c with pc := c.pc + 8, wait := .none })).advance t k

/-- A context that holds a task halts on a lockstep mismatch, and shows it while it drains (07 R230). -/
def Ctx.lockHalted (c : Ctx) : Ctx :=
  if c.st = .idle then c else { c with st := .haltedLockstep, signal := false, lockHalt := true }

/-- A lockstep mismatch (07 R230; 15 R581, R602): nothing is released, both contexts halt, a Rust error. -/
def State.lockstep (s : State) (t pc : Nat) : State :=
  let k := (s.herder t).kctx
  let s := s.raise t k true .lockstep pc 0 0
  let s := s.modHerder t (fun h => { h with
    user := h.user.lockHalted
    kern := h.kern.lockHalted })
  let s := s.addRegF (tilePage t oTileCnt) 63 48 1
  let s := match s.tilePart t with
    | some p => s.rustError .lockstep p t pc
    | none => s.log .lockstep .rust none t pc
  if 2 ≤ s.regF (tilePage t oTileCnt) 63 48 then s.markRetire t else s

/-- An armed lockstep injection for a tile (15 R594 code 5). -/
def State.injLockstep (s : State) (t : Nat) : Bool :=
  s.sec.inj.armed && decide (s.regF rRelInjCtl 3 0 = 5 ∧ s.regF rRelInjCtl 26 16 = t)

/-- An instruction retires: the cores compare it before any of its effects leave the pair (07 R229). `s0` is the state
without them, `s` the one with them. -/
def State.compared (s0 : State) (t pc : Nat) (s : State) : State :=
  if s0.injLockstep t then s0.disarm.withInj true (fun s => s.lockstep t pc) else s

/-- A pass that `dep` instructions keep from its array: an unsatisfied one with PACK among its consumers stands before
it (07 R242). -/
def Herder.packHeld (h : Herder) (p : Pass) : Bool :=
  (h.ctx p.kctx).deps.any (fun d => !d.prods.isEmpty && decide (d.serial ≤ p.serial) && d.cmask.testBit Cls.pack.bit)

/-- Held passes whose `dep` instructions are satisfied reach their arrays, in issue order (07 R236, R242, 08 R286). Those
of a preempted context stay. -/
def State.releaseHeld (s : State) (t : Nat) : State :=
  s.modTile t (fun x =>
    let h := x.herder
    let stay (p : Pass) : Bool := h.packHeld p || (!p.kctx && h.preempted)
    let go := x.pack.held.filter (fun p => !stay p)
    { x with pack := { x.pack with
      held := x.pack.held.filter stay
      arrs := go.foldl (fun m p =>
        let r := SMap.get {} m p.array
        SMap.set m p.array { r with queue := r.queue ++ [p] }) x.pack.arrs } })

/-- The kernel context ends (07 R257): parked entries re-enter the scoreboard in ticket order, withdrawn passes
return to their arrays, and the user context resumes. -/
def State.resumeUser (s : State) (t : Nat) : State :=
  State.releaseHeld (t := t) <| s.modTile t (fun x =>
    let h := x.herder
    let h := { h with kctx := false, preempted := false, board := h.board ++ h.park, park := [], advU := s.now }
    let p := x.pack
    let p := p.parked.foldl (fun (p : Pack) ps =>
      let a := ps.array
      let arr := SMap.get {} p.arrs a
      let arr := if ps.rerun then { arr with reruns := arr.reruns ++ [ps] } else { arr with queue := arr.queue ++ [ps] }
      { p with arrs := SMap.set p.arrs a arr }) p
    { x with herder := h, pack := { p with parked := [] } })

/-- A context's task ends on this tile (08 R283). -/
def State.endCtx (s : State) (t : Nat) (k : Bool) : State :=
  let s := s.modCtx t k (fun c => { c with st := .idle, wait := .none, task := none, deps := [], persist := false })
  if k then s.resumeUser t else s

/-- What the instruction did, as the state after its issue cycle. -/
def State.issued (s0 : State) (t : Nat) (k : Bool) (pc : Nat) : IRes → State
  | .retire s => s.nextPc t k
  | .jump s pc' => (s.modCtx t k (fun c => { c with pc := pc', wait := .none })).advance t k
  | .stall s w => s.modCtx t k (fun c => { c with wait := w })
  | .exc x info => s0.raise t k true x pc info 0
  | .excA s x info => s.raise t k false x pc info 0
  | .ends s => (s.advance t k).endCtx t k

/-- Whether an instruction's issue retires it, so that lockstep compares it (07 R229). -/
def IRes.retires : IRes → Bool
  | .retire _ | .jump _ _ | .ends _ => true
  | _ => false

/-- The instruction raises a precise exception. -/
def IRes.precise : IRes → Bool
  | .exc _ _ => true
  | _ => false

/-- The report of an asynchronous exception of the context is due: its instruction's writes have completed at their
targets (08 R287). A precise exception that meets it is not recorded, and its instruction has no effect (07 R261). -/
def State.clash (s : State) (t : Nat) (k : Bool) : Bool := (s.herder t).board.any (fun e => e.kctx == k && s.faultReady t e)

/-- A tile whose herder may issue: it exists, no Crimson error holds the module, its clocks run. -/
def State.tileRuns (s : State) (t : Nat) : Bool :=
  decide (t < 1152) && !s.sec.crimson && !s.power.jet && !s.power.railsOff
    && decide ((s.tile t).pwr.st = .ivory)

/-- Issue of the word at the active context's PC, as the row of an opcode and form (07 R225, R231; 08 R267 to
R273). Where the row is not the one the herder issues next, nothing happens. -/
def issue (opc form : Nat) (body : State → Nat → Bool → Ctx → BitVec 64 → IRes)
    (t : Nat) (w : BitVec 64) (s : State) : State :=
  let h := s.herder t
  let k := h.kctx
  let c := h.ctx k
  if !s.tileRuns t || c.st != .run || c.wait != .none || (!k && h.preempted) then s
  else
    match c.prog[c.pc / 8]? with
    | none => if s.clash t k then s else s.raise t k true .imem (c.pc % 2 ^ 15) 0 0
    | some w' =>
      if w' ≠ w then s
      else
        let legal := (opFields (fld w 7 0)).isSome
        let row := decide (fld w 7 0 = opc) && decide (opForm w = form)
        let res : Option IRes :=
          if c.pget (fld w 10 8) == bit w 11 then
            (if row || !legal || (decide (fld w 7 0 = opc) && noForm w) then some (.retire s) else none)
          else if illegalWord w then (if fld w 7 0 = opc ∨ !legal then some (.exc .illegal 0) else none)
          else if !row then none
          else if opSystem w && c.level == .u then some (.exc .priv 0)
          else some (body s t k c w)
        match res with
        | none => s
        | some r =>
          if r.retires then s.compared t c.pc (s.issued t k c.pc r)
          else if r.precise && s.clash t k then s
          else s.issued t k c.pc r

/-! Operand fields -/

def fD (w : BitVec 64) : Nat := fld w 16 12
def fA (w : BitVec 64) : Nat := fld w 21 17
def fB (w : BitVec 64) : Nat := fld w 26 22
/-- IMM or OFF, sign-extended to 64 bits (08 R270). -/
def fImm (w : BitVec 64) : Word := (w.extractLsb' 32 32).signExtend 64

/-- A body that computes sD from the context alone. -/
def toS (f : Ctx → BitVec 64 → Word) (s : State) (t : Nat) (k : Bool) (c : Ctx) (w : BitVec 64) : IRes :=
  .retire (s.setCtx t k (c.sset (fD w) (f c w)))

/-- A body sD = sA op sB. -/
def op2 (f : Word → Word → Word) : State → Nat → Bool → Ctx → BitVec 64 → IRes :=
  toS (fun c w => f (c.sget (fA w)) (c.sget (fB w)))

/-- A body sD = sA op IMM. -/
def opI (f : Word → Word → Word) : State → Nat → Bool → Ctx → BitVec 64 → IRes :=
  toS (fun c w => f (c.sget (fA w)) (fImm w))

/-- The outcome of issuing one row. -/
def herd (opc form : Nat) (body : State → Nat → Bool → Ctx → BitVec 64 → IRes) (t : Nat) (w : BitVec 64)
    (s : State) : Host.Outcome State Fault Refusal := .next (issue opc form body t w s)

/-! Tensor instructions enter the scoreboard (07 R232 to R236, 08 R284) -/

/-- The entry of a tensor instruction that issues: ticket, serial, operands; ST takes the ticket. -/
def State.ticket (s : State) (t : Nat) (k : Bool) (cls : Cls) (e : Entry) (st : Nat) : State :=
  let c := s.ctx t k
  let tk := nextTicket c.ticket
  let e := { e with kctx := k, serial := c.serial, ticket := tk, pc := c.pc, cls := cls }
  let c := { c with ticket := tk, serial := c.serial + 1, wrapped := c.wrapped || decide (tk < c.ticket) }
  let s := s.setCtx t k (c.sset st (BitVec.ofNat 64 tk))
  s.modHerder t (fun h => { h with board := h.board ++ [e] })

/-- The scoreboard has a free entry (07 R234). -/
def State.boardFree (s : State) (t : Nat) : Bool := decide ((s.herder t).board.length < 16)

/-- Tensor instructions of a context with a lower serial that have not completed. -/
def Herder.older (h : Herder) (k : Bool) (serial : Nat) : List Entry :=
  (h.board ++ h.park).filter (fun e => e.kctx == k && decide (e.serial < serial))

/-- An entry may begin: no older instruction of its class and context that has not begun, and no unsatisfied `dep` that
it follows, stands before it (07 R236, R242). -/
def Herder.mayBegin (h : Herder) (e : Entry) : Bool :=
  (h.board ++ h.park).all (fun x => !(x.kctx == e.kctx && x.cls == e.cls && decide (x.serial < e.serial) && x.phase == .issued))
    && (h.ctx e.kctx).deps.all (fun d => !(!d.prods.isEmpty && decide (d.serial ≤ e.serial) && d.cmask.testBit e.cls.bit))

/-- An instruction of a class of the tile has begun and not completed, in whichever context (08 R286). -/
def Herder.begunOf (h : Herder) (c : Cls) : Bool := h.board.any (fun x => x.cls == c && x.phase != .issued)

/-- The oldest entry of an opcode not yet begun, if it may begin. -/
def Herder.nextOf (h : Herder) (p : Entry → Bool) : Option Entry :=
  match h.board.find? (fun e => e.phase == .issued && p e) with
  | some e => if h.mayBegin e then some e else none
  | none => none

end Sys2Proof.Machine
end

