-- ==== Sys2Proof/Machine/LinkSend.lean ====
section
/-! DEFINITION. Sending requests to other modules: tags, routes and ports (12 R464, R469 to R473; 15 R588). -/
namespace Sys2Proof.Machine

/-- Tags in use by a source tile; 0x7FF is the link mailbox (12 R464). -/
def State.tagsOf (s : State) (tile : Nat) : List Nat :=
  (s.link.outst.filter (fun o => o.tile = tile)).map (·.tag)

/-- The lowest free tag of a source tile (the choice among free tags is the model's). -/
def State.freeTag (s : State) (tile : Nat) : Option Nat :=
  (List.range 512).find? (fun g => !(s.tagsOf tile).contains g)

/-- A use of a route-table entry: none and a Crimson error when the pair fails its check (12 R470, 15 R588). -/
def State.useRoute (s : State) (d : Nat) : Option Word × State :=
  let a := routeAddr d
  let e := s.reg a
  let (i, s) := s.injComp a
  if i || !routePairOk e then (none, s.withInj i (fun s => s.crimsonError .compModule a))
  else (some e, s)

/-- Whether a device has a live route now (08 R285); a device ID of 0x3FFF never has (12 R473). -/
def State.hasRoute (s : State) (d tile : Nat) : Bool × State :=
  if d = 0x3FFF then (false, s)
  else match s.useRoute d with
    | (some e, s) => ((s.pickPort e tile).isSome, s)
    | (none, s) => (false, s)

/-- Queues a transaction at the first live port of its destination and answers the port; none when there is no
live one (12 R471). -/
def State.sendTxn (s : State) (x : Txn) : Option Nat × State :=
  if x.dst = 0x3FFF then (none, s)
  else match s.useRoute x.dst with
    | (none, s) => (none, s)
    | (some e, s) =>
      match s.pickPort e x.srcTile with
      | some j => (some j, s.modLink j (fun l => { l with txq := l.txq ++ [x] }))
      | none => (none, s)

/-- An address that is the FE_RING_DB of a ring (11 R438): the global ring. -/
def bellRing (a : Nat) : Option Nat :=
  let off := (a - 0xF00200000000) % 0x10000
  if 0xF00200000000 ≤ a ∧ a < 0xF00200100000 ∧ 0x1000 ≤ off ∧ off < 0x2000 ∧ off % 0x40 = oRingDb then
    some (64 * ((a - 0xF00200000000) / 0x10000) + (off - 0x1000) / 0x40)
  else none

/-- A write of 8 bytes to the FE_RING_DB of a ring on another module is carried as a DOORBELL (12 R465). -/
def Txn.asBell (x : Txn) : Txn :=
  match bellRing x.addr with
  | some g => if x.type == .wr && x.len == 8 then { x with type := .doorbell, vc := .msg, addr := g } else x
  | none => x

/-- Sends a request of this module: HOPS, SRC, PART and TAG are filled in and the request becomes outstanding.
The answer is the tag, or none when no route is live. A request that names this module's own ID never leaves the
module (10 R369): it waits among the received ones. -/
def State.sendReq (s : State) (tile : Nat) (x : Txn) (what : Purpose) : Option Nat × State :=
  match s.freeTag tile with
  | none => (none, s)
  | some g =>
    let x := { x with hops := s.regF rLnkCfg 5 0, src := s.link.en.devid, srcTile := tile, tag := g }
    if x.dst = s.link.en.devid ∧ x.dst ≠ 0x3FFF then
      let s := s.modLink 0 (fun l => { l with rx := l.rx ++ [{ txn := x, own := true }] })
      (some g, { s with link := { s.link with outst := s.link.outst ++ [⟨tile, g, what, 0⟩] } })
    else match s.sendTxn x.asBell with
    | (some j, s) => (some g, { s with link := { s.link with outst := s.link.outst ++ [⟨tile, g, what, j⟩] } })
    | (none, s) => (none, s)

/-- Sends a response by the route table, or to this module's own received ones. One that finds no live port waits
for one: every request is answered (12 R467). -/
def State.sendResp (s : State) (k : Nat) (y : Txn) : State :=
  if y.dst = s.link.en.devid ∧ y.dst ≠ 0x3FFF then s.modLink k (fun l => { l with rx := l.rx ++ [{ txn := y, own := true }] })
  else match s.sendTxn y with
    | (some _, s) => s
    | (none, s) => s.stick y

/-- Answers a request (12 R464, R466). -/
def State.respondTo (s : State) (k : Nat) (x : Txn) (st : TStat) (data : List (BitVec 8)) : State :=
  s.sendResp k { x.respond st data with hops := s.regF rLnkCfg 5 0 }

/-- The waiting responses that have a live port now are sent. -/
def State.retryStuck (s : State) (k : Nat) : State :=
  let go (y : Txn) : Bool := (s.pickPort (s.reg (routeAddr y.dst)) y.srcTile).isSome
  let now := s.link.stuck.filter go
  if now.isEmpty then s
  else
    let s := { s with link := { s.link with stuck := s.link.stuck.filter (fun y => !go y) } }
    now.foldl (fun s y => s.sendResp k y) s

/-- The partition of a tile as the PART field of its requests. -/
def State.partOf (s : State) (t : Nat) : Nat := (s.tilePart t).getD 0

end Sys2Proof.Machine
end

