-- ==== Sys2Proof/Machine/Scalar.lean ====
section
/-! DEFINITION. Scalar, predicate, address, tensor-register, posit, branch and system instructions (08 R273 to
R283, R320). -/
namespace Sys2Proof.Machine

/-! Integer instructions (08 R273, R274) -/

def execAdd (t : Nat) (w : BitVec 64) (s : State) := herd 0x01 0 (op2 (· + ·)) t w s
def execSub (t : Nat) (w : BitVec 64) (s : State) := herd 0x02 0 (op2 (· - ·)) t w s
def execAnd (t : Nat) (w : BitVec 64) (s : State) := herd 0x03 0 (op2 (· &&& ·)) t w s
def execOr (t : Nat) (w : BitVec 64) (s : State) := herd 0x04 0 (op2 (· ||| ·)) t w s
def execXor (t : Nat) (w : BitVec 64) (s : State) := herd 0x05 0 (op2 (· ^^^ ·)) t w s
/-- Shift amounts are sB[5:0]. -/
def shAmt (b : Word) : Nat := fld b 5 0
def execShl (t : Nat) (w : BitVec 64) (s : State) := herd 0x06 0 (op2 (fun a b => a <<< shAmt b)) t w s
def execShr (t : Nat) (w : BitVec 64) (s : State) := herd 0x07 0 (op2 (fun a b => a >>> shAmt b)) t w s
def execSra (t : Nat) (w : BitVec 64) (s : State) := herd 0x08 0 (op2 (fun a b => a.sshiftRight (shAmt b))) t w s
def execMul (t : Nat) (w : BitVec 64) (s : State) := herd 0x09 0 (op2 (· * ·)) t w s
def mulHigh (a b : Word) : Word := BitVec.ofInt 64 ((a.toInt * b.toInt) / 2 ^ 64)
def execMulh (t : Nat) (w : BitVec 64) (s : State) := herd 0x0A 0 (op2 mulHigh) t w s
def execMin (t : Nat) (w : BitVec 64) (s : State) := herd 0x0B 0 (op2 (fun a b => if a.slt b then a else b)) t w s
def execMax (t : Nat) (w : BitVec 64) (s : State) := herd 0x0C 0 (op2 (fun a b => if a.slt b then b else a)) t w s
def execAddi (t : Nat) (w : BitVec 64) (s : State) := herd 0x10 0 (opI (· + ·)) t w s
def execLi (t : Nat) (w : BitVec 64) (s : State) := herd 0x11 0 (toS (fun _ w => fImm w)) t w s
/-- sD[63:32] = IMM, sD[31:0] = sA[31:0]. -/
def lih (a imm : Word) : Word := (imm <<< 32) ||| (a &&& 0xFFFFFFFF)
def execLih (t : Nat) (w : BitVec 64) (s : State) := herd 0x12 0 (opI lih) t w s
def execAndi (t : Nat) (w : BitVec 64) (s : State) := herd 0x13 0 (opI (· &&& ·)) t w s
def execOri (t : Nat) (w : BitVec 64) (s : State) := herd 0x14 0 (opI (· ||| ·)) t w s
def execNop (t : Nat) (w : BitVec 64) (s : State) := herd 0x4C 0 (fun s _ _ _ _ => .retire s) t w s

/-! Predicates (08 R275) -/

/-- The conditions of `cmp`. -/
def cmpCond (cc : Nat) (a b : Word) : Bool :=
  match cc with
  | 0 => a == b
  | 1 => a != b
  | 2 => a.slt b
  | 3 => !a.slt b
  | 4 => a.ult b
  | 5 => !a.ult b
  | 6 => decide (positKey 32 (fld a 31 0) < positKey 32 (fld b 31 0))
  | _ => decide (positKey 32 (fld a 31 0) ≤ positKey 32 (fld b 31 0))

/-- The operations of `plog`. -/
def plogOp (cc : Nat) (a b : Bool) : Bool :=
  match cc with
  | 0 => a && b
  | 1 => a || b
  | 2 => a != b
  | _ => a && !b

/-- A body that sets pD. -/
def toP (f : Ctx → BitVec 64 → Bool) (s : State) (t : Nat) (k : Bool) (c : Ctx) (w : BitVec 64) : IRes :=
  .retire (s.setCtx t k (c.pset (fld w 14 12) (f c w)))

def execCmp (t : Nat) (w : BitVec 64) (s : State) :=
  herd 0x18 0 (toP (fun c w => cmpCond (fld w 27 25) (c.sget (fld w 19 15)) (c.sget (fld w 24 20)))) t w s
def execPlog (t : Nat) (w : BitVec 64) (s : State) :=
  herd 0x19 0 (toP (fun c w => plogOp (fld w 27 25) (c.pget (fld w 17 15)) (c.pget (fld w 22 20)))) t w s

/-! Address registers -/

/-- A body that sets aD. -/
def toA (f : Ctx → BitVec 64 → BitVec 48) (s : State) (t : Nat) (k : Bool) (c : Ctx) (w : BitVec 64) : IRes :=
  .retire (s.setCtx t k (c.aset (fld w 15 12) (f c w)))

def execMova (t : Nat) (w : BitVec 64) (s : State) :=
  herd 0x1C 0 (toA (fun c w => (c.sget (fA w)).setWidth 48)) t w s
def execMovs (t : Nat) (w : BitVec 64) (s : State) :=
  herd 0x1D 0 (toS (fun c w => (c.aget (fld w 20 17)).setWidth 64)) t w s
def execAdda (t : Nat) (w : BitVec 64) (s : State) :=
  herd 0x1E 0 (toA (fun c w => c.aget (fld w 20 17) + (fImm w).setWidth 48)) t w s

/-! Tensor registers (08 R276, R277) -/

/-- Word b of a t-register. -/
def tWord (x : BitVec 256) (b : Nat) : Word := x.extractLsb' (64 * b) 64
def tPut (x : BitVec 256) (b : Nat) (v : Word) : BitVec 256 := setFld x (64 * b + 63) (64 * b) v.toNat

def execTset (t : Nat) (w : BitVec 64) (s : State) :=
  herd 0x20 0 (fun s t k c w =>
    .retire (s.setCtx t k (c.tset (fld w 15 12) (tPut (c.tget (fld w 15 12)) (fB w) (c.sget (fA w)))))) t w s
def execTget (t : Nat) (w : BitVec 64) (s : State) :=
  herd 0x21 0 (toS (fun c w => tWord (c.tget (fld w 20 17)) (fB w))) t w s

/-- aB + OFF modulo 2^48 (08 R280). -/
def effAddr (c : Ctx) (w : BitVec 64) : Nat := (c.aget (fld w 20 17) + (fImm w).setWidth 48).toNat

/-- The 32 bytes of `tld` and `tst`: aligned, and in the populated part of this tile's window (08 R276). -/
def tldCheck (t a : Nat) : Option (Exc × Nat) :=
  if a % 32 ≠ 0 then some (.align, a)
  else if tileBase t ≤ a ∧ a + 32 ≤ tileBase t + tileSize then none
  else some (.addr, a)

def execTld (t : Nat) (w : BitVec 64) (s : State) :=
  herd 0x22 0 (fun s t k c w =>
    let a := effAddr c w
    match tldCheck t a with
    | some (x, i) => .exc x i
    | none =>
      let bad := s.eccBad a 32
      match s.load a 32 with
      | (some bs, s) => .retire (s.modCtx t k (fun c => c.tset (fld w 15 12) (BitVec.ofNat 256 (ofBytesLE bs))))
      | (none, s) => .excA s .memEcc bad) t w s

def execTst (t : Nat) (w : BitVec 64) (s : State) :=
  herd 0x23 0 (fun s t _ c w =>
    let a := effAddr c w
    match tldCheck t a with
    | some (x, i) => .exc x i
    | none => .retire (s.store a (toBytesLE 32 (c.tget (fld w 15 12)).toNat))) t w s

/-! Scalar posit arithmetic (08 R278, R279) -/

/-- Bits [31:0] of an s-register. -/
def lo32 (v : Word) : Nat := fld v 31 0

/-- A body that writes a rounded result and its flags. -/
def toR (f : Ctx → BitVec 64 → Rounded) (s : State) (t : Nat) (k : Bool) (c : Ctx) (w : BitVec 64) : IRes :=
  let r := f c w
  .retire ((s.setCtx t k (c.sset (fD w) (BitVec.ofNat 64 r.word))).setFlags t r.fl)

/-- A body that replaces the quire. -/
def toQ (f : Ctx → BitVec 64 → Rounded) (s : State) (t : Nat) (k : Bool) (c : Ctx) (w : BitVec 64) : IRes :=
  let r := f c w
  .retire ((s.setCtx t k { c with q := BitVec.ofNat 512 r.word }).setFlags t r.fl)

def sA32 (c : Ctx) (w : BitVec 64) : Nat := lo32 (c.sget (fA w))
def sB32 (c : Ctx) (w : BitVec 64) : Nat := lo32 (c.sget (fB w))

def execPadd (t : Nat) (w : BitVec 64) (s : State) := herd 0x30 0 (toR (fun c w => positAdd 32 (sA32 c w) (sB32 c w))) t w s
def execPsub (t : Nat) (w : BitVec 64) (s : State) := herd 0x31 0 (toR (fun c w => positSub 32 (sA32 c w) (sB32 c w))) t w s
def execPmul (t : Nat) (w : BitVec 64) (s : State) := herd 0x32 0 (toR (fun c w => positMul 32 (sA32 c w) (sB32 c w))) t w s
def execQclr (t : Nat) (w : BitVec 64) (s : State) := herd 0x34 0 (toQ (fun _ _ => ⟨0, {}⟩)) t w s
def execQadd (t : Nat) (w : BitVec 64) (s : State) :=
  herd 0x35 0 (toQ (fun c w => quireAdd 32 c.q.toNat (positVal 32 (sA32 c w)))) t w s
def execQmadd (t : Nat) (w : BitVec 64) (s : State) :=
  herd 0x36 0 (toQ (fun c w => quireAdd 32 c.q.toNat (positProd 32 (sA32 c w) (sB32 c w)))) t w s
def execQmsub (t : Nat) (w : BitVec 64) (s : State) :=
  herd 0x37 0 (toQ (fun c w =>
    quireAdd 32 c.q.toNat ((positProd 32 (sA32 c w) (sB32 c w)).map Dy.neg))) t w s
def execQrd (t : Nat) (w : BitVec 64) (s : State) := herd 0x38 0 (toR (fun c _ => quireToPosit 32 c.q.toNat 32)) t w s

/-- The pair of formats that `pcvt` accepts (08 R279). -/
def pcvtPair (w : BitVec 64) : Option (Fmt × Fmt) :=
  match Fmt.ofCode (fld w 35 32), Fmt.ofCode (fld w 39 36) with
  | some a, some b =>
    if a.isQuire || b.isQuire || !convDefined a b then none else some (a, b)
  | _, _ => none

def execPcvt (t : Nat) (w : BitVec 64) (s : State) :=
  herd 0x33 0 (fun s t k c w =>
    match pcvtPair w with
    | none => .exc .format 0
    | some (a, b) => toR (fun c w => convert a b (c.sget (fA w)).toNat) s t k c w) t w s

/-! Branches (08 R282) -/

/-- A branch to a byte offset: taken if it is a multiple of 8 inside the loaded program. -/
def branchTo (s : State) (c : Ctx) (pc : Nat) : IRes :=
  if pc % 8 = 0 ∧ pc / 8 < c.prog.length then .jump s pc else .exc .imem 0

def execBr (t : Nat) (w : BitVec 64) (s : State) :=
  herd 0x48 0 (fun s _ _ c w => branchTo s c (fld w 43 32 * 8)) t w s
def execJal (t : Nat) (w : BitVec 64) (s : State) :=
  herd 0x49 0 (fun s t k c w =>
    branchTo (s.setCtx t k (c.sset (fD w) (BitVec.ofNat 64 (c.pc + 8)))) c (fld w 43 32 * 8)) t w s
def execJr (t : Nat) (w : BitVec 64) (s : State) :=
  herd 0x4A 0 (fun s _ _ c w => branchTo s c (fld (c.sget (fA w)) 14 0)) t w s

/-- `exit` waits for the context's tensor instructions and handles (08 R283). -/
def exitReady (h : Herder) (k : Bool) : Bool :=
  !(h.board ++ h.park).any (fun e => e.kctx == k) && !h.out.any (fun o => o.kctx == k)

def execExit (t : Nat) (w : BitVec 64) (s : State) :=
  herd 0x4B 0 (fun s t k _ _ => if exitReady (s.herder t) k then .ends s else .stall s .issue) t w s

/-! System instructions (08 R320) -/

def execUget (t : Nat) (w : BitVec 64) (s : State) :=
  herd 0xC0 0 (fun s t k c w =>
    .retire (s.setCtx t k (c.sset (fD w) ((s.herder t).user.sget (fA w))))) t w s
def execUput (t : Nat) (w : BitVec 64) (s : State) :=
  herd 0xC1 0 (fun s t _ c w =>
    .retire (s.modCtx t false (fun u => u.sset (fD w) (c.sget (fA w))))) t w s

/-- The front end learns that a task was cancelled on a tile: its result becomes CANCELLED. -/
def State.taskCancelled (s : State) (r : Option TaskRef) : State :=
  match r with
  | some r => s.modRing r.ring (fun x => x.modPkt r.count (fun p => { p with result := .cancelled }))
  | none => s

/-- `ucancel` (08 R320): the preempted user task's work on this tile is discarded and its context is idle. -/
def State.cancelUser (s : State) (t : Nat) : State :=
  let r := (s.herder t).user.task
  let s := s.drainCtx t false
  let s := s.modCtx t false (fun c => { c with st := .idle, task := none })
  let s := s.modTile t (fun x => { x with pack := { x.pack with parked := [] }
                                          herder := { x.herder with preempted := false } })
  s.taskCancelled r

def execUcancel (t : Nat) (w : BitVec 64) (s : State) :=
  herd 0xC2 0 (fun s t _ _ _ => if (s.herder t).preempted then .retire (s.cancelUser t) else .retire s) t w s
/-- `rqsc` starts the quiescence of the user streams and waits for it (08 R320, 09 R357). -/
def State.haltStreams (s : State) (t : Nat) (q : Bool) : State :=
  s.modTile t (fun x => { x with retr := { x.retr with
    strms := x.retr.strms.map (fun y => if y.kctx then y else { y with quiesced := q }) } })
def execRqsc (t : Nat) (w : BitVec 64) (s : State) :=
  herd 0xC3 0 (fun s t _ _ _ =>
    if (s.herder t).preempted then .stall (s.haltStreams t true) .quiesce else .retire s) t w s
/-- `rres` lets the quiesced streams go on, their cancelled reads first. -/
def State.resumeStreams (s : State) (t : Nat) : State :=
  (s.haltStreams t false).modTile t (fun x => { x with retr := { x.retr with quiesced := false } })
def execRres (t : Nat) (w : BitVec 64) (s : State) :=
  herd 0xC4 0 (fun s t _ _ _ => if (s.herder t).preempted then .retire (s.resumeStreams t) else .retire s) t w s

end Sys2Proof.Machine
end

