-- ==== Sys2Proof/Machine/Sync.lean ====
section
/-! DEFINITION. Handles, waiting, fences, dependences, time, preemption and the completion of faults (07 R237 to
R261; 08 R287, R314 to R319). -/
namespace Sys2Proof.Machine

/-! What keeps an instruction from issuing (07 R234, R242, R248; 08 R272; 03 R84; 05 R176) -/

/-- The first n elements of each row of the quire store that an `mma` targets, as ranges of bytes [lo, hi) (04 R127). -/
def quireRows (t n : Nat) (w : BitVec 64) (tq : BitVec 256) (gang : Nat) : List (Int × Int) :=
  let d := TD.ofWord tq
  match d.fmt with
  | none => []
  | some f =>
    if mmaIcr w then []
    else
      (List.range (if gang = 1 then 4 else 1)).flatMap (fun k =>
        (List.range (d.n 0)).map (fun m =>
          let a := quireAddr t d f (gang == 3) k m 0
          (a, a + (n * (f.width / 8) : Nat))))

/-- The bytes of the quire store that an `mma` adds to: those of its N columns. -/
def mmaRows (t : Nat) (w : BitVec 64) (tw tq : BitVec 256) (gang : Nat) : List (Int × Int) :=
  quireRows t (blockN (TD.ofWord tw)) w tq gang

/-- Rows of bytes of the quire store that a tensor spans. -/
def tensorRows (t : Nat) (d : TD) : List (Int × Int) :=
  match d.fmt with
  | none => []
  | some f => (List.range d.rows).map (fun r =>
      let a := d.rowAddr r - (tileBase t + quireOff : Nat)
      (a, a + d.rowLen f))

def rowsMeet (xs ys : List (Int × Int)) : Bool :=
  xs.any (fun x => ys.any (fun y => decide (x.1 < y.2) && decide (y.1 < x.2)))

/-- An incomplete `drn` of the tile reads one of these rows (05 R176). -/
def State.drnReads (s : State) (t : Nat) (rows : List (Int × Int)) (older : Entry → Bool := fun _ => true) : Bool :=
  ((s.herder t).board ++ (s.herder t).park).any (fun e =>
    e.cls == .drn && !bit e.word 29 && older e && rowsMeet rows (tensorRows t (TD.ofWord e.t1)))

/-- The cause for which the word at PC cannot issue yet. -/
def State.mustStall (s : State) (t : Nat) (k : Bool) (c : Ctx) (w : BitVec 64) : Bool :=
  let opc := fld w 7 0
  let h := s.herder t
  let p := (s.tile t).pack
  if 0x80 ≤ opc ∧ opc ≤ 0x87 then
    !s.boardFree t
    || (opc == 0x80 && (p.gangWaits t
        || s.drnReads t (mmaRows t w (c.tget (fld w 20 17)) (c.tget (fld w 24 21)) p.gang)))
    || (opc == 0x82 && fld w 36 35 == 1 && s.drnReads t (tensorRows t (TD.ofWord (c.tget (fld w 24 21)))))
  else if opc = 0x90 then decide (16 ≤ h.out.length)
  else if opc = 0x94 then decide (4 ≤ c.deps.length)
  else if opc = 0x4B then !exitReady h k
  else if opc = 0x40 ∨ opc = 0x41 ∨ opc = 0x42 then
    match regionOf (effAddr c w) with
    | .sram u _ => u != t && (s.tile u).pwr.st != .ivory
    | _ => false
  else false

/-- A stalled instruction whose cause is gone may issue again; a `fence` whose scopes hold retires (07 R244, 08
R272). -/
def State.fenceOk (s : State) (t : Nat) (k : Bool) (serial : Nat) (scope : Nat) : Bool :=
  -- S holds at once: a scalar store completes at its target before the next instruction issues (07 R240)
  (!(scope.testBit 1 || scope.testBit 2) || ((s.herder t).older k serial).isEmpty)
    && (!scope.testBit 2 || !s.owes t k serial)

def execIssueResume (t : Nat) (s : State) : Host.Outcome State Fault Refusal :=
  let h := s.herder t
  let k := h.kctx
  let c := h.ctx k
  if c.st != .run then .next s
  else match c.wait, c.prog[c.pc / 8]? with
    | .issue, some w =>
      if s.mustStall t k c w then .next s else .next (s.setCtx t k { c with wait := .none })
    | .fence sc n, _ => if s.fenceOk t k n sc then .next (s.compared t c.pc (s.nextPc t k)) else .next s
    | _, _ => .next s

/-! Handles (07 R246 to R251, 08 R314, R315) -/

def execHput (t : Nat) (w : BitVec 64) (s : State) :=
  herd 0x90 0 (fun s t k c w =>
    let tg := c.sget (fld w 16 12)
    if s.badTarget (s.tilePart t) tg then .exc .addr tg.toNat
    else if s.mustStall t k c w then .stall s .issue
    else
      let o : OutHandle := { kctx := k, target := tg, q := fld w 19 17, handle := c.sget (fld w 24 20), pc := c.pc,
                             relNone := bit w 25, serial := c.serial }
      .retire (s.modHerder t (fun h => { h with out := h.out ++ [o] }))) t w s

/-- Takes the oldest handle of a queue. -/
def State.takeHandle (s : State) (t q : Nat) : Option (Word × State) :=
  match SMap.get [] (s.herder t).hq q with
  | [] => none
  | x :: xs => some (x, s.modHerder t (fun h => { h with hq := SMap.set h.hq q xs }))

def execHget (t : Nat) (w : BitVec 64) (s : State) :=
  herd 0x91 0 (fun s t k _ w =>
    match s.takeHandle t (fld w 19 17) with
    | some (x, s) => .retire (s.modCtx t k (fun c => c.sset (fld w 16 12) x))
    | none => .stall s (.hget (fld w 19 17) (fld w 16 12))) t w s

def execHgetNb (t : Nat) (w : BitVec 64) (s : State) :=
  herd 0x91 1 (fun s t k _ w =>
    match s.takeHandle t (fld w 19 17) with
    | some (x, s) => .retire (s.modCtx t k (fun c => (c.sset (fld w 16 12) x).pset (fld w 22 20) true))
    | none => .retire (s.modCtx t k (fun c => c.pset (fld w 22 20) false))) t w s

def execHgetReturn (t : Nat) (s : State) : Host.Outcome State Fault Refusal :=
  let k := (s.herder t).kctx
  let c := s.ctx t k
  if !s.tileRuns t || c.st != .run || (!k && (s.herder t).preempted) then .next s
  else match c.wait with
    | .hget q sd =>
      match s.takeHandle t q with
      | some (x, s') => .next (s.compared t c.pc ((s'.modCtx t k (fun c => c.sset sd x)).nextPc t k))
      | none => .next s
    | _ => .next s

/-- A handle enters a queue of 32, or is refused (07 R246, R249). -/
def State.offerHandle (s : State) (t q : Nat) (x : Word) : Bool × State :=
  let l := SMap.get [] (s.herder t).hq q
  if l.length < 32 then (true, s.modHerder t (fun h => { h with hq := SMap.set h.hq q (l ++ [x]) }))
  else (false, s.setRegF (tilePage t oHqStatus) (48 + q) (48 + q) 1)

/-- The release condition of a handle: its context's older tensor instructions have completed, and other modules have
acknowledged their writes (07 R248). -/
def State.released (s : State) (t : Nat) (o : OutHandle) : Bool :=
  o.relNone || (((s.herder t).older o.kctx o.serial).isEmpty && !s.owes t o.kctx o.serial)

/-- The first element with a property of it and of those before it, with those before and after it. -/
def splitFirst {α : Type} (p : List α → α → Bool) (pre : List α) : List α → Option (List α × α × List α)
  | [] => none
  | x :: xs => if p pre x then some (pre, x, xs) else splitFirst p (pre ++ [x]) xs

/-- Two handles of one context for one queue, which arrive in the order of their `hput` instructions (07 R249). -/
def OutHandle.sameQueue (a b : OutHandle) : Bool :=
  a.kctx == b.kctx && a.q == b.q && a.target == b.target

/-- Sends a handle that stands between `pre` and `rest` in the buffer: to another module as HPUT, else toward a tile of
this one. A missing route raises NO_ROUTE and the handle leaves the buffer (08 R281, R314). -/
def State.sendHandle (s : State) (t : Nat) (pre : List OutHandle) (o : OutHandle) (rest : List OutHandle) : State :=
  let tg := Target.ofWord o.target
  let put (s : State) (l : List OutHandle) : State := s.modHerder t (fun h => { h with out := l })
  if tg.remote then
    match s.sendReq t { type := .hput, dst := tg.dev, part := s.partOf t, addr := tg.tile + o.q <<< 11, len := 8,
                        vc := .req, data := toBytesLE 8 o.handle.toNat } (.handle t) with
    | (some g, s) => put s (pre ++ { o with sent := true, refused := false, tag := g } :: rest)
    | (none, s) => (put s (pre ++ rest)).raise t o.kctx false .noRoute o.pc tg.dev 0
  else put s (pre ++ { o with sent := true, refused := false } :: rest)

/-- A handle for another module waits for a free tag. -/
def State.tagReady (s : State) (t : Nat) (o : OutHandle) : Bool :=
  !(Target.ofWord o.target).remote || (s.freeTag t).isSome

/-- A handle may be sent: no refused one before it holds it back, none before it goes to the same queue, and it is
released (07 R248, R249). -/
def State.mayPut (s : State) (t : Nat) (pre : List OutHandle) (o : OutHandle) : Bool :=
  !o.sent && !o.refused && pre.all (fun x => !x.refused && !x.sameQueue o) && s.released t o && s.tagReady t o

/-- The oldest handle of the buffer that may be sent is sent. -/
def execHandleSend (t : Nat) (s : State) : Host.Outcome State Fault Refusal :=
  match splitFirst (s.mayPut t) [] (s.herder t).out with
  | some (pre, o, rest) => if s.tileRuns t then .next (s.sendHandle t pre o rest) else .next s
  | none => .next s

/-- The oldest refused handle is sent again (07 R249). -/
def execHandleResend (t : Nat) (s : State) : Host.Outcome State Fault Refusal :=
  match splitFirst (fun _ o => o.refused) [] (s.herder t).out with
  | some (pre, o, rest) => if s.tileRuns t && s.tagReady t o then .next (s.sendHandle t pre o rest) else .next s
  | none => .next s

/-- Writes of a tile's streams to another tile are on their way: they reach it before a later packet (01 R23). -/
def State.writesAhead (s : State) (t u : Nat) : Bool :=
  (s.tile t).retr.strms.any (fun x => x.wout.any (fun w =>
    w.dev.isNone && !w.arrived && (match regionOf w.addr with | .sram v _ => v == u | _ => false)))

/-- A handle is on its way to a tile of this module that takes it now. -/
def State.mayArrive (s : State) (t : Nat) (_ : List OutHandle) (o : OutHandle) : Bool :=
  let tg := Target.ofWord o.target
  o.sent && !tg.remote && decide ((s.tile tg.tile).pwr.st = .ivory) && !s.writesAhead t tg.tile

/-- A sent handle of tile t reaches its target queue on this module, which accepts or refuses it (07 R249). -/
def State.handleArrives (s : State) (t : Nat) (pre : List OutHandle) (o : OutHandle) (rest : List OutHandle) : State :=
  match s.offerHandle (Target.ofWord o.target).tile o.q o.handle with
  | (true, s) => s.modHerder t (fun h => { h with out := pre ++ rest })
  | (false, s) => s.modHerder t (fun h => { h with out := pre ++ { o with sent := false, refused := true } :: rest })

/-- The next handle of a tile that may arrive does. -/
def State.nextHandle (s : State) (t : Nat) : State :=
  match splitFirst (s.mayArrive t) [] (s.herder t).out with
  | some (pre, o, rest) => s.handleArrives t pre o rest
  | none => s

def execHandleArrive (t : Nat) (s : State) : Host.Outcome State Fault Refusal := .next (s.nextHandle t)

/-! `wait`, `fence`, `dep`, `at` (07 R237 to R244, R254; 08 R316 to R319) -/

/-- The status of a ticket that has completed (07 R237, R238). -/
def Ctx.statusOf (c : Ctx) (tk : Nat) : Word :=
  if tk = 0 then 0 else if 63 < c.age tk then 0x101 else SMap.get 0 c.status (tk % 64)

def execWait (t : Nat) (w : BitVec 64) (s : State) :=
  herd 0x92 0 (fun s t k c w =>
    let v := (c.sget (fld w 16 12)).toNat
    if ticketPeriod < v ∨ (c.ticket < v ∧ !c.wrapped) then .exc .ticket 0
    else if ((s.herder t).older k c.serial).any (fun e => e.ticket == v) then .stall s (.ticket v (fld w 21 17))
    else .retire (s.setCtx t k (c.sset (fld w 21 17) (c.statusOf v)))) t w s

def execWaitAll (t : Nat) (w : BitVec 64) (s : State) :=
  herd 0x92 1 (fun s t k c _ =>
    if ((s.herder t).older k c.serial).isEmpty then .retire s else .stall s (.classes 31 c.serial)) t w s

/-- Older instructions of the classes of a mask. -/
def Herder.olderCls (h : Herder) (k : Bool) (serial mask : Nat) : List Entry :=
  (h.older k serial).filter (fun e => mask.testBit e.cls.bit)

def execWaitCls (t : Nat) (w : BitVec 64) (s : State) :=
  herd 0x92 2 (fun s t k c w =>
    if ((s.herder t).olderCls k c.serial (fld w 28 24)).isEmpty then .retire s
    else .stall s (.classes (fld w 28 24) c.serial)) t w s

def execWaitResume (t : Nat) (s : State) : Host.Outcome State Fault Refusal :=
  let h := s.herder t
  let k := h.kctx
  let c := h.ctx k
  if !s.tileRuns t || c.st != .run || (!k && h.preempted) then .next s
  else match c.wait with
    | .ticket v sd =>
      if (h.older k c.serial).any (fun e => e.ticket == v) then .next s
      else .next (s.compared t c.pc ((s.setCtx t k (c.sset sd (c.statusOf v))).nextPc t k))
    | .classes m n => if (h.olderCls k n m).isEmpty then .next (s.compared t c.pc (s.nextPc t k)) else .next s
    | _ => .next s

def execFence (t : Nat) (w : BitVec 64) (s : State) :=
  herd 0x93 0 (fun s t k c w =>
    if s.fenceOk t k c.serial (fld w 14 12) then .retire s
    else .stall s (.fence (fld w 14 12) c.serial)) t w s

def execDep (t : Nat) (w : BitVec 64) (s : State) :=
  herd 0x94 0 (fun s t k c w =>
    let prods := ((s.herder t).olderCls k c.serial (fld w 16 12)).map (·.serial)
    if prods.isEmpty then .retire s
    else if s.mustStall t k c w then .stall s .issue
    else .retire (s.setCtx t k { c with deps := c.deps ++ [⟨c.serial, fld w 21 17, prods⟩] })) t w s

/-- The producers of a `dep` that have not completed. -/
def Herder.depOpen (h : Herder) (k : Bool) (d : Dep) : Bool :=
  (h.board ++ h.park).any (fun e => e.kctx == k && d.prods.contains e.serial)

/-- A context's `dep` instructions after their producers are looked at: a satisfied one holds no consumer back, and
its place is free once no older one is unsatisfied (07 R242, 08 R318). -/
def Herder.settleDeps (h : Herder) (k : Bool) (ds : List Dep) : List Dep :=
  (ds.map (fun d => if h.depOpen k d then d else { d with prods := [] })).dropWhile (fun d => d.prods.isEmpty)

def execDepSatisfied (t : Nat) (s : State) : Host.Outcome State Fault Refusal :=
  let h := s.herder t
  .next ((s.modHerder t (fun x => { x with
    user := { x.user with deps := h.settleDeps false x.user.deps }
    kern := { x.kern with deps := h.settleDeps true x.kern.deps } })).releaseHeld t)

def execAtCount (t : Nat) (w : BitVec 64) (s : State) :=
  herd 0x95 0 (fun s t k c w =>
    let n := (c.sget (fld w 16 12)).toNat
    let late := decide (n ≤ s.now)
    let s := s.setCtx t k (c.pset (fld w 19 17) late)
    if late then .retire s else .stall s (.time n)) t w s

def execAtRelease (t : Nat) (s : State) : Host.Outcome State Fault Refusal :=
  let h := s.herder t
  let k := h.kctx
  let c := h.ctx k
  if !s.tileRuns t || c.st != .run || (!k && h.preempted) then .next s
  else match c.wait with
    | .time n => if n ≤ s.now then .next (s.compared t c.pc (s.nextPc t k)) else .next s
    | _ => .next s

/-! Preemption (07 R255) -/

/-- Withdraws the user passes of an array whose first vector has not entered. -/
def Arr.withdraw (a : Arr) : List Pass × Arr :=
  let w (p : Pass) : Bool := !p.kctx && p.entered == 0
  let gone := (a.loading.toList ++ a.reruns ++ a.queue).filter w
  (gone, { a with queue := a.queue.filter (fun p => !w p), reruns := a.reruns.filter (fun p => !w p)
                  loading := a.loading.filter (fun p => !w p) })

/-- The user context stops for a kernel task: instructions not begun and withdrawn passes are parked. -/
def State.preempt (s : State) (t : Nat) : State :=
  s.modTile t (fun x =>
    let ws := x.pack.arrs.map (fun ka => (ka.1, ka.2.withdraw))
    let gone := (ws.flatMap (fun kw => kw.2.1)).map (fun p => { p with block := none, loaded := false })
    let pk (e : Entry) : Bool := !e.kctx && (e.phase == .issued || gone.any (fun p => p.serial == e.serial && !p.kctx))
    let h := x.herder
    { x with
      pack := { x.pack with arrs := ws.map (fun kw => (kw.1, kw.2.2)), parked := x.pack.parked ++ gone }
      herder := { h with preempted := true, board := h.board.filter (fun e => !pk e)
                         park := h.park ++ (h.board.filter pk).map (fun e => { e with phase := .issued }) } })

def execKernelPreempt (t : Nat) (s : State) : Host.Outcome State Fault Refusal :=
  let h := s.herder t
  if h.kern.st = .run ∧ !h.kctx ∧ !h.preempted ∧ h.user.st ≠ .idle then
    let s := s.preempt t
    match h.user.task with
    | some r => .next (s.modRing r.ring (fun x => x.modPkt r.count (fun p => { p with preempted := true })))
    | none => .next s
  else .next s

/-- No user pass holds a loading or streaming slot. -/
def Pack.slotsFree (p : Pack) : Bool :=
  p.arrs.all (fun ka => (ka.2.loading.toList ++ ka.2.streaming.toList).all (fun q => q.kctx))

def execKernelContextStart (t : Nat) (s : State) : Host.Outcome State Fault Refusal :=
  let h := s.herder t
  if h.kern.st = .run ∧ !h.kctx ∧ (h.user.st = .idle ∨ h.preempted) ∧ (s.tile t).pack.slotsFree then
    .next (s.modHerder t (fun h => { h with kctx := true }))
  else .next s

/-! Faults complete and are signalled (07 R258 to R261, 08 R287, 10 R394) -/

/-- A faulted instruction's stream ends: it stays, stopped, while its reads are outstanding (09 R326, R362). -/
def State.retireStream (s : State) (t : Nat) (k : Bool) (serial : Nat) : State :=
  s.modTile t (fun x => { x with retr := { x.retr with
    strms := (x.retr.strms.filter (fun y => !(y.kctx == k && y.serial == serial && y.reads.isEmpty))).map (fun y =>
      if y.kctx == k && y.serial == serial then y.stop else y) } })

/-- Removes an instruction's stream. -/
def State.dropStream (s : State) (t : Nat) (k : Bool) (serial : Nat) : State :=
  s.modTile t (fun x => { x with retr := { x.retr with
    strms := x.retr.strms.filter (fun y => !(y.kctx == k && y.serial == serial)) } })

/-- A real-time `stream` (08 R296). -/
def Entry.isRt (e : Entry) : Bool := decide (fld e.word 7 0 = 0x82) && bit e.word 42

/-- A real-time stream that completes is counted (09 R365). -/
def State.countRt (s : State) (t : Nat) (e : Entry) : State :=
  if e.isRt then s.addRegF (tilePage t oRtvDlCnt) 31 0 1 else s

/-- The instruction of a faulted entry completes: its stream ends and its status word shows the fault (08 R287). -/
def State.endFault (s : State) (t : Nat) (e : Entry) : State :=
  ((s.retireStream t e.kctx e.serial).complete t e.kctx e.serial).countRt t e

/-- A fault halts the context of its entry. -/
def State.raiseEntry (s : State) (t : Nat) (e : Entry) : State :=
  match e.fault with
  | some (x, info) => s.raise t e.kctx false x e.pc info e.ticket
  | none => s

/-- Faults in the order in which they are raised: the one of the lowest ticket last, so that it stands in the exception
registers (07 R261). -/
def lowestLast (es : List Entry) : List Entry :=
  match es.foldl (fun (a : Option Entry) b => match a with
    | some x => if b.ticket < x.ticket then some b else a
    | none => some b) none with
  | some m => es.filter (fun e => !(e.kctx == m.kctx && e.serial == m.serial)) ++ [m]
  | none => []

/-- Every fault whose report is due completes; the registers name the one of the lowest ticket (07 R258, R261). -/
def execFaultCompletion (t : Nat) (s : State) : Host.Outcome State Fault Refusal :=
  let rd := (s.herder t).board.filter (s.faultReady t)
  .next ((lowestLast rd).foldl (fun s e => s.raiseEntry t e) (rd.foldl (fun s e => s.endFault t e) s))

/-- Every write that a context issued has completed: those of streams, and those of any engine to another module (10
R394). -/
def State.writesDone (s : State) (t : Nat) (k : Bool) : Bool :=
  (s.tile t).retr.strms.all (fun x => x.kctx != k || x.wout.isEmpty) && !s.owes t k (s.ctx t k).serial

/-- The front end learns of an exception (07 R260, 11 R429): the task drains with FAULT; of several tiles the
lowest names CODE and TILE. -/
def State.signal (s : State) (t : Nat) (k : Bool) : State :=
  let c := s.ctx t k
  let code := c.excCode
  let s := s.setCtx t k { c with signal := false }
  match c.task with
  | none => s
  | some r =>
    match (s.ring r.ring).pkts.find? (fun p => p.count = r.count) with
    | none => s
    | some p =>
      match p.st with
      | .running => s.drainTask r 1 .fault code t
      | .draining _ _ =>
        if p.result = .fault ∧ t < p.tile then
          s.modRing r.ring (fun x => x.modPkt r.count (fun p => { p with code := code, tile := t }))
        else s
      | _ => s

def execExceptionSignal (t : Nat) (s : State) : Host.Outcome State Fault Refusal :=
  let h := s.herder t
  if h.user.signal && s.writesDone t false then .next (s.signal t false)
  else if h.kern.signal && s.writesDone t true then .next (s.signal t true)
  else .next s

end Sys2Proof.Machine
end

