-- ==== Sys2Proof/Machine/Tensor.lean ====
section
/-! DEFINITION. Tensor instructions at issue (08 R284 to R313): their checks, in the order of R271, and their
scoreboard entries. -/
namespace Sys2Proof.Machine

/-- A check that fails, with its exception and HRD_EXC_INFO. -/
abbrev Check := Option (Exc × Nat)

/-- The first failing check. -/
def firstFail : List Check → Check
  | [] => none
  | some x :: _ => some x
  | none :: cs => firstFail cs

def checkIf (b : Bool) (x : Exc) (info : Nat := 0) : Check := if b then some (x, info) else none

/-- ADDR with the first byte of [lo, hi) outside [a, b). -/
def within (lo hi a b : Int) : Check := (outside lo hi a b).map (fun i => (.addr, i))

/-- The span of a tensor in its own format; a reserved code is caught earlier. -/
def TD.ext (d : TD) : Int × Int := match d.fmt with | some f => d.span f | none => ((d.base : Int), (d.base : Int))

/-- The end of the permitted region that holds an address: a tile window or a channel set of the partition, or, where
`virt`, the virtual window of a partition that translates (08 R285, 10 R389). -/
def State.regionEnd (s : State) (part : Option Nat) (virt : Bool) (a : Nat) : Option Nat :=
  match part with
  | none => none
  | some p =>
    match regionOf a with
    | .sram t _ => if s.ownsTile p t then some (tileBase t + tileSize) else none
    | .hbm c => if s.ownsSet p c then some ((c + 1) * setBytes) else none
    | .virt => if virt && s.regF (partPage p oXltCfg) 0 0 == 1 then some virtTop else none
    | _ => none

/-- The lowest address of [a, hi) outside every permitted region, looked for through at most so many regions. -/
def State.firstOutside (s : State) (part : Option Nat) (virt : Bool) : Nat → Nat → Nat → Option Nat
  | 0, a, hi => if hi ≤ a then none else some a
  | n + 1, a, hi =>
    if hi ≤ a then none
    else match s.regionEnd part virt a with
      | some e => s.firstOutside part virt n e hi
      | none => some a

/-- ADDR, with the lowest such address, when a byte of a span lies outside the permitted regions: 16 channel sets at
most lie in a row (08 R285, 10 R380, R389). -/
def State.inReach (s : State) (part : Option Nat) (virt : Bool) (lo hi : Int) : Check :=
  if lo < 0 then some (.addr, 0)
  else (s.firstOutside part virt 17 lo.toNat hi.toNat).map (fun a => (.addr, a))

/-- The lowest address of [a, hi) in a register page that a herder of the tile may not reach at a level. -/
def State.firstBarred (s : State) (t : Nat) (l : Level) (write : Bool) : Nat → Nat → Nat → Option Nat
  | 0, a, hi => if hi ≤ a then none else some a
  | n + 1, a, hi =>
    if hi ≤ a then none
    else if s.herderMay t l (a / 8 * 8) write then s.firstBarred t l write n (a / 8 * 8 + 8) hi
    else some a

/-- `State.inReach` for a side of a retriever transfer, whose mesh port also reaches the register pages that a herder
of the tile reaches at the level of the context (09 R324, 16 R607). DEDUCED: the retriever has the rights of the
context whose stream it runs (log 99). -/
def State.sideReach (s : State) (t : Nat) (l : Level) (virt write : Bool) (lo hi : Int) : Check :=
  if 0 ≤ lo ∧ pageOf lo.toNat ≠ .none ∧ lo < hi then
    let top := min hi.toNat (pageTop lo.toNat)
    match s.firstBarred t l write ((top - lo.toNat) / 8 + 2) lo.toNat top with
    | some a => some (.addr, a)
    | none => checkIf (decide ((pageTop lo.toNat : Int) < hi)) .addr (pageTop lo.toNat)
  else s.inReach (s.tilePart t) virt lo hi

/-- A REMOTE operand that names another module; one that names this module's own device ID is local (10 R369). -/
def State.isRemote (s : State) (d : TD) : Bool := d.remote && (d.devid != s.link.en.devid || d.devid == 0x3FFF)

/-- The addresses of a remote side are device-physical: ADDR with the lowest byte in the virtual window (10 R369). -/
def remoteReach (lo hi : Int) : Check :=
  checkIf (decide (lo < virtTop) && decide ((virtBase : Int) < hi)) .addr (max lo virtBase).toNat

/-- An operand of the partition on this module, or one on another module, whose addresses are device-physical (08 R285;
10 R369, R388, R389). -/
def State.operandReach (s : State) (part : Option Nat) (virt : Bool) (d : TD) : Check :=
  if s.isRemote d then remoteReach d.ext.1 d.ext.2
  else s.inReach part virt d.ext.1 d.ext.2

/-- The same of an operand of `stream` and of the source of an `ldw`, that the retriever transfers. -/
def State.streamReach (s : State) (t : Nat) (k write : Bool) (d : TD) : Check :=
  if s.isRemote d then remoteReach d.ext.1 d.ext.2
  else s.sideReach t (s.ctx t k).level k write d.ext.1 d.ext.2

/-- A tensor that must be local. -/
def localOnly (d : TD) : Check := checkIf d.remote .addr d.base

/-- The reserved bits of t-registers (08 R285). -/
def rsvOf (ds : List TD) : Check := checkIf (ds.any (·.rsv)) .illegal
/-- Their format codes. -/
def fmtOf (ds : List TD) : Check := checkIf (ds.any (fun d => d.fmt.isNone)) .format

/-- Gang mode in effect and the widths that follow from it. -/
def State.gang (s : State) (t : Nat) : Nat := (s.tile t).pack.gang
def wideCols (g : Nat) : Nat := if g = 3 then 128 else 32
def deepRows (g : Nat) : Nat := if g = 2 then 512 else 128

/-- Bytes of n weights: half a byte each for S4 and U4. -/
def fmtBytesTimes (f : Fmt) (n : Nat) : Nat := n * f.width / 8

/-- An instruction whose checks pass takes its ticket, or waits for an entry or an interlock. -/
def takeTicket (s : State) (t : Nat) (k : Bool) (c : Ctx) (w : BitVec 64) (cls : Cls) (chk : Check) (e : Entry)
    (post : State → State := id) : IRes :=
  if s.mustStall t k c w then .stall s .issue
  else match chk with
    | some (x, i) => .exc x i
    | none => .retire (post (s.ticket t k cls { e with word := w } (fld w 16 12)))

/-! `mma` (08 R289 to R293) -/

/-- The target format that R125 gives a pass. -/
def mmaTarget (m : AMode) (scaled : Bool) : Fmt :=
  match m, scaled with
  | .int, false => .S32
  | .p8, false => .QP8
  | _, _ => .QP16

/-- The array whose QNT_CFG bits govern a pass: array 0 of a gang (05 R155, 08 R291). -/
def govArr (g : Nat) (w : BitVec 64) : Nat := if g = 0 then mmaArr w else 0

/-- The checks of R291. -/
def State.mmaCheck (s : State) (t : Nat) (w : BitVec 64) (tw tq : TD) (z : Int) : Check :=
  let g := s.gang t
  let m := tq.n 0
  let k := blockK tw
  let n := blockN tw
  let pk := (s.tile t).pack
  let base := (tileBase t : Int)
  match tw.fmt, tq.fmt, Fmt.ofCode (mmaAfmt w) with
  | some wf, some qf, some af =>
    let md := aMode wf af
    let src := bit (s.reg (tilePage t oQntCfg)) (govArr g w)
    let sz := qf.width / 8
    let str := tw.str.getD 0 0
    let rowsOf (i : Nat) : Int × Int :=
      let a := quireAddr t tq qf (g == 3) i 0 0
      (a, a + (m * wideCols g * sz : Nat))
    let streams := if g = 1 then [0, 1, 2, 3] else [0]
    let unit : Nat := deepRows g * wf.width / 8
    firstFail [
      checkIf (md.isNone) .format,
      checkIf ((md.map (fun m => mmaTarget m (mmaScaled w))) ≠ some qf) .format,
      checkIf (mmaIcr w && !(md == some .int && !mmaScaled w && qf == .S32)) .format,
      checkIf (decide (z ≠ 0) && !(md == some .int && !(mmaScaled w && src))) .format,
      checkIf (decide (z ≠ 0) && (decide (z < af.intRange.1) || decide (af.intRange.2 < z))) .format,
      checkIf (match md with | some x => decide (x.maxM < m) | none => true) .shape,
      checkIf (decide (wideCols g < n) || decide (deepRows g < k)) .shape,
      checkIf ((md == some .int && decide (mmaP w ≠ 1)) || decide (mmaP w ≤ mmaPidx w)) .shape,
      checkIf (decide (g ≠ 0 ∧ mmaArr w ≠ 0)) .shape,
      checkIf (decide (str ≤ 0) || decide (str % unit ≠ 0)) .shape,
      checkIf (!mmaIcr w && streams.any (fun i => decide ((rowsOf i).1 % sz ≠ 0))) .shape,
      checkIf (!mmaIcr w && streams.any (fun i => decide (0 ≤ (rowsOf i).1) && decide ((rowsOf i).1 < 0x40000)
        && decide (0x40000 < (rowsOf i).2))) .shape,
      checkIf (!mmaIcr w && streams.any (fun i => streams.any (fun j => decide (i < j) && rowsMeet [rowsOf i] [rowsOf j])))
        .shape,
      checkIf (mmaIcr w && decide (8 < mmaIcrb w + m)) .shape,
      localOnly tw, localOnly { tq with remote := tq.remote && !mmaIcr w },
      if k = 0 then none
      else within tw.base (tw.base + ((n - 1 : Nat) : Int) * str + (rowBytes wf k : Nat)) base (base + wsSize),
      if mmaIcr w then none
      else (streams.find? (fun i => decide ((rowsOf i).1 < 0) || decide (0x40000 ≤ (rowsOf i).1))).map
        (fun i => (.addr, ((tq.base : Int) + i * tq.str.getD 0 0).toNat)),
      checkIf (mmaIcr w && mmaSet w && (mmaKeys g w m n).any (fun r => pk.pendFull.contains r)) .accBusy]
  | _, _, _ => some (.format, 0)

/-- The pass of an `mma` (03 R85; 05 R155). -/
def State.mmaPass (s : State) (t : Nat) (k : Bool) (c : Ctx) (w : BitVec 64) : Pass :=
  let q := s.reg (tilePage t oQntCfg)
  let g := s.gang t
  let a := govArr g w
  { serial := c.serial, kctx := k, word := w, tw := c.tget (fld w 20 17), tq := c.tget (fld w 24 21),
    z := (c.sget (fld w 29 25)).toInt, gang := g, scaleSrc := bit q a, layout := bit q (4 + a) }

/-- Every check of an `mma` (08 R285, R291). -/
def State.mmaChecks (s : State) (t : Nat) (c : Ctx) (w : BitVec 64) : Check :=
  let tw := TD.ofWord (c.tget (fld w 20 17))
  let tq := TD.ofWord (c.tget (fld w 24 21))
  firstFail [rsvOf [tw, tq], fmtOf [tw, tq], s.mmaCheck t w tw tq (c.sget (fld w 29 25)).toInt]

/-- Whether an `mma` waits before its array: a `dep` holds it, or an older one that waits stands before it (07 R236,
R242). -/
def Tile.holds (x : Tile) (p : Pass) : Bool := x.herder.packHeld p || x.pack.held.any (fun q => q.kctx == p.kctx)

/-- The pass joins its array's queue, unless a `dep` holds it, and its in-cell registers become pending-full (03 R91, 04
R131, 07 R242, 08 R286). -/
def State.queuePass (s : State) (t : Nat) (p : Pass) : State :=
  s.modTile t (fun x =>
    let arr := SMap.get {} x.pack.arrs p.array
    let keys := if mmaIcr p.word then mmaKeys p.gang p.word ((TD.ofWord p.tq).n 0) (blockN (TD.ofWord p.tw)) else []
    let full := x.pack.pendFull ++ keys.filter (fun r => !x.pack.pendFull.contains r)
    { x with pack :=
      if x.holds p then { x.pack with held := x.pack.held ++ [p], pendFull := full }
      else { x.pack with arrs := SMap.set x.pack.arrs p.array { arr with queue := arr.queue ++ [p] }, pendFull := full } })

/-- The operands of an `mma`. -/
def mmaEntry (c : Ctx) (w : BitVec 64) : Entry :=
  { t1 := c.tget (fld w 20 17), t2 := c.tget (fld w 24 21), x1 := c.sget (fld w 29 25) }

def execMma (t : Nat) (w : BitVec 64) (s : State) :=
  herd 0x80 0 (fun s t k c w =>
    takeTicket s t k c w .pack (s.mmaChecks t c w) (mmaEntry c w) (fun x => x.queuePass t (s.mmaPass t k c w))) t w s

/-! `ldw` and `stream` (08 R294 to R299) -/

def ldwFmts : List Fmt := [.S8, .U8, .S4, .U4, .P8, .P16]

/-- The checks of an `ldw` (08 R285, R295). -/
def State.ldwChecks (s : State) (t : Nat) (k : Bool) (c : Ctx) (w : BitVec 64) : Check :=
  let part := s.tilePart t
  let ts := TD.ofWord (c.tget (fld w 20 17))
  let td := TD.ofWord (c.tget (fld w 24 21))
  let role := fld w 31 30
  let src := decide (role ≤ 1)
  let tgt := c.sget (fld w 29 25)
  let uses := if src then [ts, td] else [td]
  let base := (tileBase t : Int)
  firstFail [rsvOf uses, fmtOf uses,
    checkIf (src && ts.fmtCode != td.fmtCode) .format,
    checkIf (match td.fmt with | some f => !ldwFmts.contains f | none => true) .format,
    checkIf (src && !ts.sameShape td) .shape,
    localOnly td,
    within td.ext.1 td.ext.2 base (base + wsSize),
    if src then s.streamReach t k false ts else none,
    checkIf ((role == 1 || role == 2) && s.badTarget part tgt) .addr tgt.toNat]

/-- The operands of an `ldw`. -/
def ldwEntry (c : Ctx) (w : BitVec 64) : Entry :=
  { t1 := c.tget (fld w 20 17), t2 := c.tget (fld w 24 21), x1 := c.sget (fld w 29 25) }

def execLdw (t : Nat) (w : BitVec 64) (s : State) :=
  herd 0x81 0 (fun s t k c w => takeTicket s t k c w .rtv (s.ldwChecks t k c w) (ldwEntry c w)) t w s

/-- The base of the source when a handle names its slice (08 R298). -/
def streamBase (t : Nat) (w : BitVec 64) (c : Ctx) (d : TD) : TD :=
  if bit w 41 then { d with base := tileBase t + actOff + handleOff (c.sget (fld w 29 25)), remote := false } else d

/-- The handle checks of R298 and R348: LEN is not 0, the slice lies in the activation buffer and the span stays
within the slice. -/
def sliceCheck (w : BitVec 64) (c : Ctx) (d : TD) (lo hi : Int) : Check :=
  if bit w 41 then
    let h := c.sget (fld w 29 25)
    firstFail [checkIf (handleLen h == 0) .addr d.base,
      checkIf (decide (0x20000 < handleOff h + 64 * handleLen h)) .addr d.base,
      within lo hi d.base ((d.base : Int) + (64 * handleLen h : Nat))]
  else none

/-- A real-time `stream` whose deadline has already passed counts its miss at issue (09 R359). -/
def rtAtIssue (t : Nat) (k : Bool) (c : Ctx) (w : BitVec 64) (s : State) : State :=
  if bit w 42 && decide ((c.sget (fld w 34 30)).toNat ≤ s.now) then
    (s.modEntry t k c.serial (fun e => { e with bits := e.bits ||| 0x80 })).addRegF (tilePage t oRtvDlCnt) 63 32 1
  else s

/-- The entry of a `stream`: its operands, the handle word and the deadline. -/
def streamEntry (w : BitVec 64) (c : Ctx) : Entry :=
  { t1 := c.tget (fld w 20 17), t2 := c.tget (fld w 24 21), x1 := c.sget (fld w 29 25), x2 := c.sget (fld w 34 30) }

def feedFmts : List Fmt := [.P8, .P16, .S8, .U8, .S4, .U4]

/-- The source tensor of a `stream`. -/
def streamSrc (t : Nat) (c : Ctx) (w : BitVec 64) : TD := streamBase t w c (TD.ofWord (c.tget (fld w 20 17)))

/-- The checks of a FEED (08 R297, R298). -/
def State.feedChecks (s : State) (t : Nat) (k : Bool) (c : Ctx) (w : BitVec 64) : Check :=
  let g := s.gang t
  let d := streamSrc t c w
  firstFail [rsvOf [d], fmtOf [d],
    checkIf (match d.fmt with | some f => !feedFmts.contains f | none => true) .format,
    checkIf (decide (deepRows g < d.n 0)) .shape,
    checkIf (decide ((g = 2 ∨ g = 3) ∧ fld w 38 37 ≠ 0) || decide (g ≠ 1 ∧ fld w 40 39 ≠ 0)) .shape,
    sliceCheck w c d d.ext.1 d.ext.2,
    s.streamReach t k false d]

def execStreamFeed (t : Nat) (w : BitVec 64) (s : State) :=
  herd 0x82 0 (fun s t k c w =>
    takeTicket s t k c w .rtv (s.feedChecks t k c w) (streamEntry w c) (rtAtIssue t k c w)) t w s

/-- The checks of a COPY (08 R297, R298). -/
def State.copyChecks (s : State) (t : Nat) (k : Bool) (c : Ctx) (w : BitVec 64) : Check :=
  let d := streamSrc t c w
  let b := TD.ofWord (c.tget (fld w 24 21))
  firstFail [rsvOf [d, b], fmtOf [d, b],
    checkIf (match d.fmt, b.fmt with | some x, some y => !convDefined x y | _, _ => true) .format,
    checkIf (!d.sameShape b) .shape,
    sliceCheck w c d d.ext.1 d.ext.2,
    s.streamReach t k false d, s.streamReach t k true b]

def execStreamCopy (t : Nat) (w : BitVec 64) (s : State) :=
  herd 0x82 1 (fun s t k c w =>
    takeTicket s t k c w .rtv (s.copyChecks t k c w) (streamEntry w c) (rtAtIssue t k c w)) t w s

/-- The checks of a DESC stream (08 R297, R298; 09 R335). -/
def State.descChecks (s : State) (t : Nat) (c : Ctx) (w : BitVec 64) : Check :=
  let d := streamSrc t c w
  firstFail [checkIf (decide ((c.tget (fld w 20 17)).toNat / 2 ^ 48 ≠ 0)) .illegal,
    checkIf (decide (d.base % 64 ≠ 0)) .align d.base,
    sliceCheck w c d d.base (d.base + 64),
    s.inReach (s.tilePart t) false d.base (d.base + 64)]

def execStreamDesc (t : Nat) (w : BitVec 64) (s : State) :=
  herd 0x82 2 (fun s t k c w =>
    takeTicket s t k c w .rtv (s.descChecks t c w) (streamEntry w c) (rtAtIssue t k c w)) t w s

/-! `drn` (08 R300 to R302) -/

def accFmts : List Fmt := [.S32, .QP8, .QP16]

/-- The checks of a `drn` (08 R285, R301). -/
def State.drnChecks (s : State) (t : Nat) (c : Ctx) (w : BitVec 64) : Check :=
  let g := s.gang t
  let ts := TD.ofWord (c.tget (fld w 20 17))
  let td := TD.ofWord (c.tget (fld w 24 21))
  let ac := c.aget (fld w 28 25)
  let icr := bit w 29
  let regs := ts.cnt.getD 0 1
  let b := (tileBase t : Int)
  let q := b + quireOff
  firstFail [rsvOf [ts, td], fmtOf [ts, td],
    checkIf (match ts.fmt with | some f => if icr then f != .S32 else !accFmts.contains f | none => true) .format,
    checkIf (decide (0x40000 < (if icr then td.elems else ts.elems))) .shape,
    checkIf (decide (wideCols g < (if icr then td.n 0 else ts.n 0))) .shape,
    checkIf (icr && decide (8 < fld w 34 32 + regs)) .shape,
    checkIf (decide (g ≠ 0 ∧ fld w 31 30 ≠ 0)) .shape,
    checkIf (icr && !(td.n 1 == regs && td.n 2 == 1 && td.n 3 == 1)) .shape,
    checkIf (decide (ac.toNat % 64 ≠ 0)) .align ac.toNat,
    within ac.toNat (ac.toNat + 64) b (b + tileSize),
    if icr then none else firstFail [localOnly ts, within ts.ext.1 ts.ext.2 q (q + 0x40000)],
    s.operandReach (s.tilePart t) false td]

/-- The in-cell registers that a `drn` names stop being pending-full (04 R131). -/
def State.drnTakes (s : State) (t : Nat) (c : Ctx) (w : BitVec 64) : State :=
  let keys := drnKeys w (c.tget (fld w 20 17)) (c.tget (fld w 24 21))
  if bit w 29 then s.modTile t (fun x => { x with pack := { x.pack with
    pendFull := x.pack.pendFull.filter (fun r => !keys.contains r) } })
  else s

/-- The operands of a `drn`. -/
def drnEntry (c : Ctx) (w : BitVec 64) : Entry :=
  { t1 := c.tget (fld w 20 17), t2 := c.tget (fld w 24 21), a1 := c.aget (fld w 28 25) }

def execDrn (t : Nat) (w : BitVec 64) (s : State) :=
  herd 0x83 0 (fun s t k c w =>
    takeTicket s t k c w .drn (s.drnChecks t c w) (drnEntry c w) (fun x => x.drnTakes t c w)) t w s

/-! `sfu`, `topk`, `smp` (08 R303 to R306, R310 to R313) -/

def positFmts : List Fmt := [.P8, .P16, .P32]
def tkFmts : List Fmt := [.P8, .P16, .P32, .S8, .U8, .S32]

def sfuOp (w : BitVec 64) : Nat := fld w 32 29
/-- Row length and row count of `sfu` (08 R305). -/
def sfuL (d : TD) : Nat := d.n 0 * d.n 1
def sfuR (d : TD) : Nat := d.n 2

/-- Bytes of a mask bitmap of L bits (06 R199). -/
def bitmapBytes (l : Nat) : Nat := (l + 63) / 64 * 8

/-- An offset of R303 is aligned, and its data lies within the populated window of the tile. -/
def offAlign (t : Nat) (use : Bool) (off al : Nat) : Check := checkIf (use && decide (off % al ≠ 0)) .align (tileBase t + off)
def offReach (t : Nat) (use : Bool) (off n : Nat) : Check :=
  if use then within (tileBase t + off : Nat) (tileBase t + off + n : Nat) (tileBase t) (tileBase t + tileSize : Nat) else none

/-- Formats of `sfu` (06 R198, 08 R305). -/
def sfuFormats (op : Nat) (ts td : Fmt) : Bool :=
  match op with
  | 1 => tkFmts.contains ts && positFmts.contains td
  | 2 => tkFmts.contains ts && td == ts
  | 7 => positFmts.contains ts && td == .P32
  | 0xB => positFmts.contains ts && (td == .P16 || td == .P32)
  | _ => positFmts.contains ts && positFmts.contains td

/-- A P32 word that is NaR or below a bound of zero (strict: or zero). -/
def badP32 (strict : Bool) (w : Nat) : Bool :=
  match positVal 32 w with
  | none => true
  | some v => decide (v.m < 0) || (strict && v.isZero)

/-- The byte range an `sfu` writes from TD.BASE on, or the tensor's own span. -/
def sfuOutExt (op : Nat) (r : Nat) (td : TD) : Int × Int :=
  if op = 2 then ((td.base : Int), (td.base : Int) + (8 * r : Nat)) else td.ext

def State.sfuCheck (s : State) (t : Nat) (w : BitVec 64) (ts td : TD) (o : TO) : Check :=
  let op := sfuOp w
  let l := sfuL ts
  let r := sfuR ts
  let full := decide (op = 0) || decide (8 ≤ op)
  let row := decide (op ≠ 0)
  let norm := op == 9 || op == 0xA
  match ts.fmt, td.fmt with
  | some f, some d =>
    let ext := sfuOutExt op r td
    firstFail [
      checkIf (!sfuFormats op f d) .format,
      checkIf (op == 8 && badP32 true o.scale) .format,
      checkIf ((op == 9 || op == 0xA) && badP32 false o.eps) .format,
      checkIf (decide (0x100000 < l) || decide (ts.cnt.getD 3 1 ≠ 1)) .shape,
      checkIf (full && !ts.sameShape td) .shape,
      checkIf (op == 7 && !(td.rank == 0 && td.n 0 == 8 * r)) .shape,
      checkIf (!full && op != 7 && !(td.n 0 == r && td.n 1 == 1 && td.n 2 == 1 && td.n 3 == 1)) .shape,
      checkIf (op == 7 && decide (td.base % 4 ≠ 0)) .align td.base,
      offAlign t norm o.gamma 2, offAlign t (op == 0xA) o.beta 2, offAlign t (row && bit w 40) o.bitmap 8,
      offAlign t o.statusEn o.status 4,
      offReach t norm o.gamma (2 * l), offReach t (op == 0xA) o.beta (2 * l),
      offReach t (row && bit w 40) o.bitmap (r * bitmapBytes l), offReach t o.statusEn o.status (4 * r),
      localOnly ts, localOnly td,
      s.inReach (s.tilePart t) false ts.ext.1 ts.ext.2, s.inReach (s.tilePart t) false ext.1 ext.2]
  | _, _ => some (.format, 0)

/-- Every check of an `sfu` (08 R285, R305). -/
def State.sfuChecks (s : State) (t : Nat) (c : Ctx) (w : BitVec 64) : Check :=
  let ts := TD.ofWord (c.tget (fld w 20 17))
  let td := TD.ofWord (c.tget (fld w 24 21))
  let o := TO.ofWord (c.tget (fld w 28 25))
  firstFail [rsvOf [ts, td], checkIf o.rsv .illegal, fmtOf [ts, td], s.sfuCheck t w ts td o]

/-- The operands of `sfu`, `topk` and `smp`. -/
def sfuEntry (c : Ctx) (w : BitVec 64) : Entry :=
  { t1 := c.tget (fld w 20 17), t2 := c.tget (fld w 24 21), t3 := c.tget (fld w 28 25) }
def topkEntry (c : Ctx) (w : BitVec 64) : Entry := { sfuEntry c w with t4 := c.tget (fld w 32 29) }
def smpEntry (c : Ctx) (w : BitVec 64) : Entry :=
  { sfuEntry c w with a1 := c.aget (fld w 32 29), a2 := c.aget (fld w 36 33) }

def execSfu (t : Nat) (w : BitVec 64) (s : State) :=
  herd 0x84 0 (fun s t k c w => takeTicket s t k c w .sfu (s.sfuChecks t c w) (sfuEntry c w)) t w s

/-- The n bytes from the base of a chain's next stage on: in the partition's reach on this module, device-physical on
another (08 R285; 10 R369, R389). -/
def State.spanReach (s : State) (part : Option Nat) (d : TD) (n : Nat) : Check :=
  let hi : Int := d.base + (n : Nat)
  if s.isRemote d then checkIf (decide (d.base < virtTop) && decide ((virtBase : Int) < hi)) .addr (max d.base virtBase)
  else s.inReach part false d.base hi

/-- The checks of a `topk` (08 R285, R311). -/
def State.topkChecks (s : State) (t : Nat) (c : Ctx) (w : BitVec 64) : Check :=
  let part := s.tilePart t
  let ts := TD.ofWord (c.tget (fld w 20 17))
  let td := TD.ofWord (c.tget (fld w 24 21))
  let o := TO.ofWord (c.tget (fld w 28 25))
  let tn := TD.ofWord (c.tget (fld w 32 29))
  let n := fld w 38 33 + 1
  let role := fld w 40 39
  let next := decide (role = 1 ∨ role = 2)
  let l := sfuL ts
  let b := (tileBase t : Int)
  let used := if next then [ts, td, tn] else [ts, td]
  firstFail [rsvOf used, checkIf o.rsv .illegal, fmtOf used,
    checkIf (match ts.fmt with | some f => !tkFmts.contains f | none => true) .format,
    checkIf (decide (0x100000 < l) || decide (ts.cnt.getD 2 1 ≠ 1 ∨ ts.cnt.getD 3 1 ≠ 1)) .shape,
    checkIf (decide (td.base % 8 ≠ 0)) .align td.base,
    offAlign t (bit w 42) o.bitmap 8, offReach t (bit w 42) o.bitmap (bitmapBytes l),
    localOnly ts, localOnly td, s.inReach part false ts.ext.1 ts.ext.2,
    within td.base (td.base + (8 * n : Nat)) b (b + tileSize),
    if next then s.spanReach part tn (8 * n) else none]

def execTopk (t : Nat) (w : BitVec 64) (s : State) :=
  herd 0x86 0 (fun s t k c w => takeTicket s t k c w .sfu (s.topkChecks t c w) (topkEntry c w)) t w s

/-- The checks of an `smp` (08 R285, R313). -/
def State.smpChecks (s : State) (t : Nat) (c : Ctx) (w : BitVec 64) : Check :=
  let ts := TD.ofWord (c.tget (fld w 20 17))
  let td := TD.ofWord (c.tget (fld w 24 21))
  let o := TO.ofWord (c.tget (fld w 28 25))
  let ap := (c.aget (fld w 32 29)).toNat
  let as := (c.aget (fld w 36 33)).toNat
  let l := sfuL ts
  let b := (tileBase t : Int)
  let e := b + tileSize
  firstFail [rsvOf [ts, td], checkIf o.rsv .illegal, fmtOf [ts, td],
    checkIf (decide (ap % 16 ≠ 0)) .align ap, checkIf (decide (as % 32 ≠ 0)) .align as,
    checkIf (decide (td.base % 8 ≠ 0)) .align td.base,
    offAlign t (bit w 38) o.bitmap 8, offReach t (bit w 38) o.bitmap (bitmapBytes l),
    localOnly ts, localOnly td, within ap (ap + 16) b e, within as (as + 32) b e, within td.base (td.base + 8) b e,
    s.inReach (s.tilePart t) false ts.ext.1 ts.ext.2]

def execSmp (t : Nat) (w : BitVec 64) (s : State) :=
  herd 0x87 0 (fun s t k c w => takeTicket s t k c w .sfu (s.smpChecks t c w) (smpEntry c w)) t w s

/-! `red` (08 R307 to R309) -/

/-- The checks of a `red` (08 R285, R308). -/
def State.redChecks (s : State) (t : Nat) (c : Ctx) (w : BitVec 64) : Check :=
  let part := s.tilePart t
  let tl := TD.ofWord (c.tget (fld w 20 17))
  let tn := TD.ofWord (c.tget (fld w 24 21))
  let next := decide (redRole w ≠ 3)
  let b := (tileBase t + quireOff : Nat)
  let used := if next then [tl, tn] else [tl]
  match tl.fmt with
  | none => firstFail [rsvOf used, some (.format, 0)]
  | some f =>
    let sz := f.width / 8
    let n := tl.cnt.getD 0 1
    firstFail [rsvOf used, fmtOf used,
      checkIf (!accFmts.contains f || (next && tn.fmtCode != tl.fmtCode)) .format,
      checkIf (next && tn.cnt.getD 0 1 != n) .shape,
      checkIf (decide (tl.base % sz ≠ 0)) .align tl.base,
      checkIf (next && decide (tn.base % sz ≠ 0)) .align tn.base,
      localOnly tl, within tl.base ((tl.base : Int) + (n * sz : Nat)) b (b + 0x40000 : Nat),
      if next && s.isRemote tn then s.spanReach part tn (n * sz)
      else if next then
        match regionOf tn.base, part with
        | .sram u off, some p =>
          checkIf (!s.ownsTile p u || decide (off < quireOff ∨ quireOff + 0x40000 < off + n * sz)) .addr tn.base
        | _, _ => some (.addr, tn.base)
      else none]

/-- The operands of a `red`. -/
def redEntry (c : Ctx) (w : BitVec 64) : Entry := { t1 := c.tget (fld w 20 17), t2 := c.tget (fld w 24 21) }

def execRed (t : Nat) (w : BitVec 64) (s : State) :=
  herd 0x85 0 (fun s t k c w => takeTicket s t k c w .chn (s.redChecks t c w) (redEntry c w)) t w s

end Sys2Proof.Machine
end

