-- ==== Sys2Proof/Machine/Pack.lean ====
section
/-! DEFINITION. The pack's passes (03 R84 to R101; 04 R108 to R138; 05 R154 to R163; 15 R574 to R581, R590, R594,
R697): load, stream, column drain, report, re-run, gang mode and configuration. -/
namespace Sys2Proof.Machine

def State.arr (s : State) (t a : Nat) : Arr := SMap.get {} (s.tile t).pack.arrs a
def State.modPack (s : State) (t : Nat) (f : Pack → Pack) : State :=
  s.modTile t (fun x => { x with pack := f x.pack })
def State.modArr (s : State) (t a : Nat) (f : Arr → Arr) : State :=
  s.modPack t (fun p => { p with arrs := SMap.set p.arrs a (f (SMap.get {} p.arrs a)) })

/-- The tile's engines have clocks: it is in Ivory and its rails are on (14 R535). -/
def State.enginesRun (s : State) (t : Nat) : Bool :=
  decide (t < 1152) && !s.power.jet && !s.power.railsOff && decide ((s.tile t).pwr.st = .ivory)

/-- An instruction has begun execution (07 R236). -/
def State.begin_ (s : State) (t : Nat) (k : Bool) (serial : Nat) : State :=
  s.modEntry t k serial (fun e => { e with phase := if e.phase = .issued then .begun else e.phase })

/-! The parameters of a pass -/

def Pass.tqd (p : Pass) : TD := TD.ofWord p.tq
def Pass.twd (p : Pass) : TD := TD.ofWord p.tw
def Pass.m (p : Pass) : Nat := p.tqd.n 0
/-- The chunk length C (04 R108). -/
def Pass.chunk (p : Pass) : Nat := 32 <<< mmaCsel p.word
/-- The streams, and with them the feeders, of a pass on array a (03 R82). -/
def Pass.streams (p : Pass) (a : Nat) : List Nat := if p.gang = 0 then [a] else if p.gang = 1 then [0, 1, 2, 3] else [0]
/-- Groups of a streamed scale tensor (05 R158). -/
def Pass.groups (p : Pass) : Nat := deepRows p.gang / p.chunk
def Pass.perVector (p : Pass) : Bool := mmaScaled p.word && p.scaleSrc && p.layout
def Pass.perPass (p : Pass) : Bool := mmaScaled p.word && p.scaleSrc && !p.layout
def Pass.channel (p : Pass) : Bool := mmaScaled p.word && !p.scaleSrc

/-- The arithmetic parameters of a pass with its block; passes are checked at issue, so the default is not met. -/
def Pass.par (p : Pass) (b : Block) : PassPar :=
  let af := (Fmt.ofCode (mmaAfmt p.word)).getD .P8
  { mode := (aMode b.fmt af).getD .int, wf := b.fmt, af := af, k := b.k, n := b.n, c := p.chunk,
    p := mmaP p.word, pidx := mmaPidx p.word, wide := p.gang == 3 }

/-- REUSE with a front plane of the same address, format, N, K and gang mode (03 R96). -/
def Arr.reuses (a : Arr) (p : Pass) : Bool :=
  mmaReuse p.word &&
  match a.front with
  | some b => b.base == p.twd.base && some b.fmt == p.twd.fmt && b.n == blockN p.twd && b.k == blockK p.twd
      && b.gang == p.gang
  | none => false

def Pass.same (p q : Pass) : Bool := p.kctx == q.kctx && p.serial == q.serial

/-! Loading a block (03 R85, 15 R590) -/

/-- Reads columns of k weights; the first column that does not read ends it with its address. -/
def State.loadCols (s : State) (f : Fmt) (k : Nat) : List Nat → Except Nat (List (List Nat)) × State
  | [] => (.ok [], s)
  | a :: as =>
    let bad := s.eccBad a (rowBytes f k)
    match s.load a (rowBytes f k) with
    | (none, s) => (.error bad, s)
    | (some bs, s) =>
      match s.loadCols f k as with
      | (.ok cs, s) => (.ok (unpackRow f bs k :: cs), s)
      | (.error x, s) => (.error x, s)

/-- The block of a pass as the weight store holds it now. -/
def State.passBlock (s : State) (p : Pass) : Except Nat Block × State :=
  let d := p.twd
  let f := d.fmt.getD .P8
  let k := blockK d
  let n := blockN d
  let addrs := (List.range n).map (fun (j : Nat) => ((d.base : Int) + (j : Int) * d.str.getD 0 0).toNat)
  let (r, s) := if k = 0 then (.ok (List.replicate n []), s) else s.loadCols f k addrs
  (r.map (fun cols => ⟨d.base, f, n, k, p.gang, cols⟩), s)

/-- A pass is abandoned with a fault: its targets are poisoned or cleared and its instruction has MEM_ECC. -/
def State.abandonFault (s : State) (t a : Nat) (p : Pass) (x : Exc) (info : Nat) : State :=
  let s := s.abandonTargets t p
  let s := s.modArr t a (fun r => r.without (fun q => q.same p))
  s.faultEntry t p.kctx p.serial x info

/-- Puts a pass with its block into the loading slot, from the queue or the re-runs. -/
def State.loadPass (s : State) (t a : Nat) (p : Pass) : State :=
  match s.passBlock p with
  | (.error x, s) => s.abandonFault t a p .memEcc x
  | (.ok b, s) =>
    (s.modArr t a (fun r => { r.without (fun q => q.same p) with
      loading := some { p with block := some b, loaded := true } })).begin_ t p.kctx p.serial

/-- The vector m of every stream is at hand: in the feeders, or for a re-run in the replay store. -/
def State.vectorReady (s : State) (t a : Nat) (p : Pass) : Bool :=
  p.rerun || (p.streams a).all (fun k => !(SMap.get [] (s.tile t).pack.feed k).isEmpty)

/-- Counts one cycle in the field [lo+15:lo] of ARR_STALL_CNT of an array (03 R107). -/
def State.stall (s : State) (t k lo : Nat) : State := s.addRegF (tilePage t (oStallCnt (k % 4))) (lo + 15) lo 1

/-- The feeders that the streaming pass misses its next vector of (03 R93 feeder dry). -/
def State.dryFeeders (s : State) (t a : Nat) : List Nat :=
  match (s.arr t a).streaming with
  | some p =>
    if p.rerun then [] else (p.streams a).filter (fun k => (SMap.get [] (s.tile t).pack.feed k).isEmpty)
  | none => []

/-- The key of an in-cell register's column: physical array, register, column (04 R129). -/
def icrKey (p : Pass) (k m j : Nat) : Nat :=
  let a := if p.gang = 3 then j / 32 else if p.gang = 1 then k else mmaArr p.word
  (a * 8 + mmaIcrb p.word + m) * 32 + j % 32

/-- An older `drn` that has not completed reads an in-cell register out (04 R131). -/
def State.drnAwaits (s : State) (t : Nat) (p : Pass) (key : Nat) : Bool :=
  ((s.herder t).board ++ (s.herder t).park).any (fun e =>
    e.cls == .drn && bit e.word 29 && (e.kctx != p.kctx || decide (e.serial < p.serial))
      && (drnKeys e.word e.t1 e.t2).contains key)

/-- The arrays in which a target register of a SET pass's vector m is still FULL because an older `drn` has not yet
moved it out (03 R93 drain back-up, 04 R131); a vector that a re-run does not write waits for none. -/
def State.icrBusy (s : State) (t a m : Nat) (p : Pass) (n : Nat) : List Nat :=
  if !(mmaIcr p.word && mmaSet p.word && mmaPidx p.word == 0) then []
  else
    let keys := ((p.streams a).filter (fun k => !p.rerun || p.only.contains (4 * m + k % 4))).flatMap (fun k =>
      (List.range n).map (fun j => icrKey p k m j))
    ((keys.filter (fun x => (SMap.find (s.tile t).pack.icr x).isSome && s.drnAwaits t p x)).map (· / 256)).eraseDups

/-- The companions that have not brought what vector m needs (03 R93 scale companion dry, 05 R158 to R160). -/
def State.dryScales (s : State) (t a : Nat) (p : Pass) (n : Nat) : List Nat :=
  let short (k c : Nat) : Bool := decide ((SMap.get [] (s.tile t).pack.comp k).length < c)
  if p.rerun then []
  else if p.perPass then
    if p.drained ≠ 0 then [] else ((p.streams a).take 1).filter (fun k => short k (n * p.groups))
  else if p.perVector then (p.streams a).filter (fun k => short k p.groups)
  else []

/-- The causes for which the oldest vector in flight cannot pass its tap or stage 29: the arrays whose companion is
dry, and those whose in-cell registers are not yet moved out. -/
def State.backUp (s : State) (t a : Nat) : List Nat × List Nat :=
  match (s.arr t a).draining with
  | some p =>
    match p.flight, p.block with
    | fl :: _, some b => (s.dryScales t a p b.n, s.icrBusy t a fl.m p b.n)
    | _, _ => ([], [])
  | none => ([], [])

/-- The causes of R93 that hold now: feeder dry, scale companion dry, drain back-up, each with the arrays in which
R107 counts it. The latter two hold from the moment the vector has come to the tap or to stage 29. -/
def State.causes (s : State) (t a : Nat) : List Nat × List Nat × List Nat :=
  let b := if (s.arr t a).due then s.backUp t a else ([], [])
  (s.dryFeeders t a, b.1, b.2)

/-- The array is frozen: a cause of R93 holds (03 R93, R94). -/
def State.frozen (s : State) (t a : Nat) : Bool :=
  let c := s.causes t a
  !(c.1.isEmpty && c.2.1.isEmpty && c.2.2.isEmpty)

/-- A frozen cycle counts in every cause that holds, in the array whose feeder, companion or drain caused it
(03 R107). -/
def State.countFrozen (s : State) (t a : Nat) : State :=
  let c := s.causes t a
  let add (lo : Nat) (ks : List Nat) (s : State) : State := ks.foldl (fun s k => s.stall t k lo) s
  add 0 c.1 (add 32 c.2.1 (add 16 c.2.2 s))

def execPassLoadStart (t a : Nat) (s : State) : Host.Outcome State Fault Refusal :=
  let r := s.arr t a
  if !s.enginesRun t || s.frozen t a || r.loading.isSome || !r.reruns.isEmpty then .next s
  else match r.queue.find? (fun p => !r.reuses p) with
    | some p => .next (s.loadPass t a p)
    | none => .next s

def execRerunStart (t a : Nat) (s : State) : Host.Outcome State Fault Refusal :=
  let r := s.arr t a
  if !s.enginesRun t || s.frozen t a || r.loading.isSome then .next s
  else match r.reruns with
    | p :: _ => .next (s.loadPass t a p)
    | [] => .next s

/-! Streaming (03 R89 to R97) -/

/-- The pass that streams next in order, and whether it holds the loading slot: a re-run before any other, a
reuse pass that is older than the loading pass before that one (03 R89, R91, R101). -/
def Arr.nextStart (r : Arr) : Option (Pass × Bool) :=
  match r.loading, r.queue with
  | some l, q :: _ =>
    if !l.rerun && q.kctx == l.kctx && decide (q.serial < l.serial) && r.reuses q then some (q, false)
    else some (l, true)
  | some l, [] => some (l, true)
  | none, q :: _ => if r.reruns.isEmpty && r.reuses q then some (q, false) else none
  | none, [] => none

/-- A feeder element as the array takes it: a pad mark is the pass's zero point or zero (03 R103). -/
def Pass.feedWord (p : Pass) (x : Option Nat) : Nat :=
  x.getD (ofSigned ((Fmt.ofCode (mmaAfmt p.word)).getD .P8).width p.z)

/-- Takes vector m of one stream from its feeder; elements beyond its length are zero (08 R297). -/
def State.takeFeed (s : State) (t k : Nat) (p : Pass) : List Nat × State :=
  let f := SMap.get [] (s.tile t).pack.feed k
  let s := s.modPack t (fun x => { x with feed := SMap.set x.feed k (f.drop 1) })
  ((f.headD []).map p.feedWord, s)

/-- The vector of each stream, in order. -/
def State.takeVectors (s : State) (t a : Nat) (p : Pass) : List (List Nat) × State :=
  if p.rerun then
    ((p.streams a).map (fun k =>
      ((p.replay.find? (fun r => r.m = p.entered ∧ r.stream = k)).map (·.elems)).getD []), s)
  else
    (p.streams a).foldl (fun (r : List (List Nat) × State) k =>
      let (v, s) := r.2.takeFeed t k p
      (r.1 ++ [v], s)) ([], s)

/-- The streaming pass takes its next vector; after its last one it leaves the streaming slot (03 R86, R91). -/
def State.enterVector (s : State) (t a : Nat) (p : Pass) : State :=
  let (vs, s) := s.takeVectors t a p
  let kept := if p.rerun then [] else ((p.streams a).zip vs).map (fun kv => ⟨p.entered, kv.1, kv.2, []⟩)
  let p := { p with entered := p.entered + 1, flight := p.flight ++ [⟨p.entered, vs⟩], replay := p.replay ++ kept }
  (s.modArr t a (fun r =>
    if p.m ≤ p.entered then { r with streaming := none, flying := r.flying ++ [p] }
    else { r with streaming := some p })).advance t p.kctx

/-- The channel scale register of column j and its place in it (05 R155, R157). -/
def sclReg (t : Nat) (p : Pass) (a j : Nat) : Nat :=
  let k := if p.gang = 0 then a else if p.gang = 3 then j / 32 else 0
  tilePage t (oScl k (j % 32 / 4))

/-- A CW register whose next use fails its check (00 R15, 15 R594 code 6). -/
def State.cwBad (s : State) (a : Nat) : Bool := (s.injComp a).1 || !s.twinOk a

/-- Installs the shadows of an array's scale registers (16 R621 to R623); a pair that disagrees installs nothing
and resets every shadow of the array. -/
def State.installScl (s : State) (t k : Nat) : State :=
  let regs := (List.range 8).map (fun n => tilePage t (oScl k n))
  let val (a : Nat) : Word := SMap.get (s.reg a) s.shadow a
  let ok := regs.all (fun a => val a == ~~~ val (a + 8))
  let s' := if ok then
      regs.foldl (fun (x : State) a => (x.setReg a (val a)).setReg (a + 8) (val (a + 8))) s
    else s.compWrite (s.tilePart t) (tilePage t (oScl k 0))
  { s' with
    shadow := regs.foldl (fun m a => SMap.erase (SMap.erase m a) (a + 8)) s'.shadow
    cwPend := regs.foldl SMap.erase s'.cwPend }

/-- The pending scale commits of the array, or of every array of a gang, install at the boundary (16 R623). -/
def State.sclBoundary (s : State) (t a gang : Nat) : State :=
  let due := (s.tile t).pack.sclPend.filter (fun k => gang != 0 || k == a)
  let s := due.foldl (fun s k => s.installScl t k) s
  s.modPack t (fun p => { p with sclPend := p.sclPend.filter (fun k => !due.contains k) })

/-- The pass of the loading slot or the head of the queue starts to stream: swap, scales, first vector (03 R89,
R90, R96; 05 R156). A re-run keeps the scales its pass copied. -/
def State.startStream (s : State) (t a : Nat) (p : Pass) (loading : Bool) : State :=
  let s := s.sclBoundary t a p.gang
  let front := if loading then p.block else (s.arr t a).front
  let cols := List.range (if p.channel && !p.rerun then blockN p.twd else 0)
  let p := { p with block := front, loaded := true }
  let p := if p.channel && !p.rerun then
      { p with
        scales := cols.map (fun j => fld (s.reg (sclReg t p a j)) (16 * (j % 4) + 15) (16 * (j % 4)))
        scaleBad := cols.map (fun j => s.cwBad (sclReg t p a j)) }
    else p
  let bad := (cols.map (sclReg t p a)).filter s.cwBad
  let s := s.modArr t a (fun r => { r.without (fun q => q.same p) with front := front, streaming := some p })
  let s := if p.gang = 0 then s else [1, 2, 3].foldl (fun s k => s.modArr t k (fun r => { r with front := front })) s
  let s := (s.begin_ t p.kctx p.serial).enterVector t a p
  bad.eraseDups.foldl (fun s r => (s.useCw (s.tilePart t) r).2) s

def execPassStreamStart (t a : Nat) (s : State) : Host.Outcome State Fault Refusal :=
  let r := s.arr t a
  if !s.enginesRun t || s.frozen t a || r.streaming.isSome then .next s
  else match r.nextStart with
    | some (p, l) => if s.vectorReady t a p then .next (s.startStream t a p l) else .next s
    | none => if r.queue.isEmpty && r.reruns.isEmpty then .next s else .next (s.stall t a 48)

/-- The quire rows that a pass targets, each of its full row size (04 R127), whatever its N (03 R97; DEDUCED, log entry
98). -/
def Pass.rows (t : Nat) (p : Pass) : List (Int × Int) := quireRows t (wideCols p.gang) p.word p.tq p.gang

/-- The in-cell registers that a pass targets (04 R129). -/
def Pass.icrs (p : Pass) : List Nat :=
  if mmaIcr p.word then mmaKeys p.gang p.word p.m (blockN p.twd) else []

/-- Two passes add into a common quire row or in-cell register. -/
def Pass.meets (t : Nat) (p q : Pass) : Bool :=
  rowsMeet (p.rows t) (q.rows t) || p.icrs.any (fun x => q.icrs.contains x)

/-- The passes of the tile that are older than a queued pass and not yet complete: those that stand before it in its
array, and in the other arrays those that its context issued earlier and those of the other context. -/
def State.olderThan (s : State) (t a : Nat) (p : Pass) : List Pass :=
  (s.tile t).pack.arrs.flatMap (fun kr =>
    let r := kr.2
    if kr.1 = a then r.flying ++ r.loading.toList ++ r.reruns ++ r.queue.takeWhile (fun q => !q.same p)
    else r.passes.filter (fun q => q.kctx != p.kctx || decide (q.serial < p.serial)))

/-- A FILL pass may take a gap (03 R97); in-cell targets are disjoint too, so that adds keep the issue order (04
R138). -/
def State.fillOk (s : State) (t a : Nat) (p : Pass) : Bool :=
  mmaFill p.word && (s.arr t a).reuses p && s.vectorReady t a p && (s.olderThan t a p).all (fun q => !p.meets t q)

/-- No pass may start before a re-run that waits or loads (03 R101). -/
def Arr.rerunFirst (r : Arr) : Bool := !r.reruns.isEmpty || (r.loading.any (·.rerun))

def execFillPassStart (t a : Nat) (s : State) : Host.Outcome State Fault Refusal :=
  let r := s.arr t a
  let gap := r.streaming.isNone && (match r.nextStart with | some (p, _) => !s.vectorReady t a p | none => true)
  if !s.enginesRun t || s.frozen t a || r.rerunFirst || !gap || !bit (s.reg (tilePage t oPackCfg)) 2 then .next s
  else match r.queue.find? (s.fillOk t a) with
    | some p => .next (s.startStream t a p false)
    | none => .next s

def execVectorEntry (t a : Nat) (s : State) : Host.Outcome State Fault Refusal :=
  match (s.arr t a).streaming with
  | some p =>
    if !s.enginesRun t then .next s
    else if s.frozen t a then .next (s.countFrozen t a)
    else .next (s.enterVector t a p)
  | none => .next s

/-! The column drain (03 R87, R88; 04 R123 to R136; 05 R154 to R163; 15 R574 to R580) -/

/-- A streamed scale entry: P16 word and whether its complement fails (05 R158, R159). -/
def scaleEntry (e : BitVec 32) : Nat × Bool := (fld e 15 0, fld e 31 16 != complN 16 (fld e 15 0))

/-- The scale of (column, group) for a vector whose own entries are given (05 R154). -/
def Pass.scaleOf (p : Pass) (n : Nat) (own : List ScaleEnt) : ScaleOf := fun j c =>
  if p.channel then some (p.scales.getD j 0, p.scaleBad.getD j false)
  else if p.perPass then some (scaleEntry ((p.record[c * n + j]?.map (·.entry)).getD 0))
  else if p.perVector then some (scaleEntry ((own[c]?.map (·.entry)).getD 0))
  else none

/-- Adds the zero-point correction of drain stage 11 (05 R161, R163, 15 R574). A pass with K = 0 has none (04 R135). -/
def correct (p : Pass) (b : Block) (r : StreamRes) : StreamRes :=
  if p.z = 0 ∨ b.k = 0 then r
  else
    let cor (j : Nat) : Dy := (Dy.ofInt (-p.z)).mul (colSum b.fmt (b.cols.getD j []))
    let g (j : Nat) : Option Dy := if p.channel then positVal 16 (p.scales.getD j 0) else some ⟨1, 0⟩
    { r with
      cols := r.cols.zipIdx.map (fun (c, j) =>
        { c with
          u := c.u.add (cor j)
          part := match c.part, g j with
            | some x, some y => some (x.add ((cor j).mul y))
            | _, _ => none })
      chks := r.chks.zipIdx.map (fun (ut, i) =>
        let js := (List.range r.cols.length).filter (fun j => decide (p.gang ≠ 3 ∨ j / 32 = i))
        (js.foldl (fun a j => a.add (cor j)) ut.1, ut.2)) }

/-- The weight of bit 62 of the checksum window of a chunk (15 R575, R594 code 4). -/
def injWeight (q : PassPar) (b : Block) (elems : List Nat) (ch : Nat) : Dy :=
  match q.mode with
  | .int => ⟨1, 62⟩
  | md =>
    let rows := (List.range q.k).map (fun i =>
      rowSum q ((b.cols.take q.n).map (fun col => opVal q.wf (col.getD i 0))))
    let as := (List.range q.k).map (fun i => opVal q.af (elems.getD i 0))
    let a := match maxExpo (chunkOf q.c ch (rows.map some)), maxExpo (chunkOf q.c ch as) with
      | some w, some v => w + v
      | _, _ => md.emptyA
    ⟨1, a + 8 - 40 * q.band⟩

/-- Whether an armed injection of code 4 meets this pass, and the array it names (15 R594). -/
def State.injCsum (s : State) (t a : Nat) (p : Pass) (m : Nat) : Option Nat :=
  let c := s.reg rRelInjCtl
  let k := fld c 33 32
  let hit := decide (m = 0) && decide (fld c 3 0 = 4) && decide (fld c 26 16 = t) && (p.gang != 0 || k == a)
  if hit && (if p.rerun then p.inj && decide (0 < s.sec.inj.left) else s.sec.inj.armed) then some k else none

/-- The injection is consumed; with INFO[8] the re-run is offset too. -/
def State.takeInjCsum (s : State) (rerun : Bool) : State :=
  let again := !rerun && bit (s.reg rRelInjCtl) 40
  { s with sec := { s.sec with inj := { s.sec.inj with armed := false, left := if again then 1 else 0 } } }

/-- A start value plus one part of each column result. -/
def sumCols (f : ColRes → Dy) (z : Dy) (l : List ColRes) : Dy := l.foldl (fun a c => a.add (f c)) z

/-- The checksum comparison of one vector (15 R576 to R579): whether it passes, and the group's sums through this
pass for the checksum store. `base` gives the sums so far. -/
def compareVec (p : Pass) (q : PassPar) (r : StreamRes) (base : Nat → Dy × Dy) : Bool × List (Dy × Dy) :=
  let group := q.mode = .p8 ∧ 1 < q.p
  let sums := r.chks.zipIdx.map (fun (ut, i) =>
    let js := (List.range r.cols.length).filter (fun j => decide (p.gang ≠ 3 ∨ j / 32 = i))
    let us := sumCols (·.u) .zero (js.filterMap (fun j => r.cols[j]?))
    let ts := sumCols (·.t) ut.2 (js.filterMap (fun j => r.cols[j]?))
    let (cu, pu) := if group ∧ q.pidx ≠ 0 then ((base i).1.add ut.1, (base i).2.add us) else (ut.1, us)
    (cu, pu, ts))
  let ok := sums.all (fun x =>
    let d := x.1.sub x.2.1
    d.isZero || d.abs.lt x.2.2)
  (ok || !r.compared, if group then sums.map (fun x => (x.1, x.2.1)) else [])

/-- The sum of a target element and a partial (04 R128, R136, R46): the new word and its flags; none for a sum that
the quire cannot hold exactly, where the spec states no result (04 R126). -/
def addTarget (f : Fmt) (old : Nat) (part : Option Dy) : Option Rounded :=
  match f with
  | .S32 =>
    let i := toSigned 32 old + (match part with | some d => (d.toUnits? 0).getD 0 | none => 0)
    let (v, c) := clipInt .S32 i
    some ⟨ofSigned 32 v, { of := c, nx := c }⟩
  | f =>
    match quireInt f.quireOf old, part with
    | some _, some x => if (x.toUnits? (quireLsb f.quireOf)).isSome then some (quireAdd f.quireOf old part) else none
    | _, _ => some (quireAdd f.quireOf old part)

/-- A pass in the column drain and the state around it. -/
structure Drn1 where
  s : State
  p : Pass
  fl : Flags

/-- Drain stages 20 to 29 for one column with a quire-store target. -/
def quireColumn (t : Nat) (k m j : Nat) (part : Option Dy) (d : Drn1) : Drn1 :=
  let p := d.p
  let f := p.tqd.fmt.getD .QP8
  let sz := f.width / 8
  let a := tileBase t + quireOff + (quireAddr t p.tqd f (p.gang == 3) k m j).toNat
  let set := mmaSet p.word && mmaPidx p.word == 0
  let bad := d.s.eccBad a sz
  let (old, s) := if set then (some 0, d.s) else d.s.loadNat a sz
  match old with
  | none => { d with s := s, p := { p with fault := if p.fault.isSome then p.fault else some (.memEcc, bad) } }
  | some w =>
    match addTarget f w part with
    | some r => { d with s := s.store a (toBytesLE sz r.word), fl := d.fl.or r.fl }
    | none =>
      -- the spec states no result: a free word of the operands alone (02 R74)
      let v := Config.fineSum w (((part.getD .zero).scale 240).truncInt)
      { d with s := s.store a (toBytesLE sz v.toNat) }

/-- Drain stages 20 to 29 for one column with an in-cell target (04 R129, R130). -/
def icrColumn (t : Nat) (k m j : Nat) (part : Option Dy) (d : Drn1) : Drn1 :=
  let key := icrKey d.p k m j
  let set := mmaSet d.p.word && mmaPidx d.p.word == 0
  let old := if set then 0 else (SMap.get 0 (d.s.tile t).pack.icr key).toNat
  match addTarget .S32 old part with
  | some r => { d with s := d.s.modPack t (fun x => { x with icr := SMap.set x.icr key (BitVec.ofNat 32 r.word) })
                       fl := d.fl.or r.fl }
  | none => d

/-- One stream's vector through the column drain. In a re-run a vector outside the bitmap is streamed and discarded: it
contributes the NX of its truncations and no flag of a saturation, since nothing is added (03 R101; DESIGN CHOICE, log
entry 24). -/
def drainStream (t a : Nat) (b : Block) (m : Nat) (k : Nat) (elems : List Nat) (own : List ScaleEnt) (d : Drn1) :
    Drn1 :=
  let p := d.p
  let q := p.par b
  let res := correct p b (arrayVector q b.cols elems (p.scaleOf b.n own))
  let inj := d.s.injCsum t a p m
  let inj := inj.filter (fun i => p.gang != 1 || i == k)
  let (s, p) := match inj with
    | some _ => (d.s.takeInjCsum p.rerun, { p with inj := true })
    | none => (d.s, p)
  let res := match inj with
    | some i =>
      let w := injWeight q b elems (if p.gang = 2 then i * (128 / q.c) else 0)
      { res with chks := res.chks.zipIdx.map (fun (ut, g) =>
          if p.gang = 3 ∧ g ≠ i then ut else (ut.1.add w, ut.2)) }
    | none => res
  let key (g : Nat) : Nat × Nat := (if p.gang = 3 then g else if p.gang = 1 then k else 0, m)
  let store := (s.arr t a).csum
  let base (g : Nat) : Dy × Dy := ((store.find? (fun e => e.1 == key g)).map (·.2)).getD (.zero, .zero)
  let (ok, sums) := compareVec p q res base
  let id := 4 * m + k % 4
  let live := !p.rerun || p.only.contains id
  if !live then { s := s, p := { p with truncs := p.truncs + (if res.nx then 1 else 0) }
                  fl := d.fl.or { nx := res.nx } }
  else if !ok then { s := s, p := { p with failed := p.failed ++ [id] }, fl := d.fl }
  else
    let s := s.modArr t a (fun r => { r with csum := sums.zipIdx.foldl (fun c (v, g) =>
      (key g, v) :: c.filter (fun e => e.1 != key g)) r.csum })
    if res.badScale then
      let new := p.fault.isNone
      let ent := ((if p.perPass then p.record else own).find? (fun e => (scaleEntry e.entry).2)).map (·.addr)
      let s := if new && p.scaleSrc then s.log .compMem .none (s.tilePart t) t (ent.getD 0) else s
      { s := s, p := { p with fault := if new then some (.complement, 0) else p.fault }, fl := d.fl }
    else
      let d := { d with s := s, p := { p with truncs := p.truncs + (if res.nx then 1 else 0) }
                        fl := d.fl.or { nx := res.nx } }
      res.cols.zipIdx.foldl (fun d (c, j) =>
        if mmaIcr p.word then icrColumn t k m j c.part d else quireColumn t k m j c.part d) d

/-- Replaces a pass in place. -/
def Arr.put (r : Arr) (p : Pass) : Arr :=
  { r with flying := r.flying.map (fun q => if q.same p then p else q)
           streaming := r.streaming.map (fun q => if q.same p then p else q) }

/-- The entries that vector m needs from the companions: the per-pass record at its first vector, or the vector's
own entries for each stream; none while they have not arrived (05 R158 to R160). -/
def State.companions (s : State) (t a : Nat) (p : Pass) (n m : Nat) :
    Option (Pass × List (List ScaleEnt) × State) :=
  let ks := p.streams a
  let comp (k : Nat) : List ScaleEnt := SMap.get [] (s.tile t).pack.comp k
  let take (s : State) (k c : Nat) : State :=
    s.modPack t (fun x => { x with comp := SMap.set x.comp k ((SMap.get [] x.comp k).drop c) })
  if p.rerun then
    some (p, ks.map (fun k => ((p.replay.find? (fun r => r.m = m ∧ r.stream = k)).map (·.scales)).getD []), s)
  else if p.perPass then
    let c := n * p.groups
    let k0 := ks.headD 0
    if p.drained ≠ 0 then some (p, ks.map (fun _ => []), s)
    else if (comp k0).length < c then none
    else some ({ p with record := (comp k0).take c }, ks.map (fun _ => []), take s k0 c)
  else if p.perVector then
    let c := p.groups
    if ks.any (fun k => decide ((comp k).length < c)) then none
    else
      let own := ks.map (fun k => (comp k).take c)
      some ({ p with replay := p.replay.map (fun r =>
                if r.m = m then { r with scales := (comp r.stream).take c } else r) },
            own, ks.foldl (fun s k => take s k c) s)
  else some (p, ks.map (fun _ => []), s)

/-- One vector of the oldest pass passes the column drain. -/
def State.drainVector (s : State) (t a : Nat) (p : Pass) (fl : Flight) (rest : List Flight) (b : Block) : State :=
  match s.companions t a p b.n fl.m with
  | none => s
  | some (p, own, s) =>
    let p := { p with flight := rest, drained := p.drained + 1 }
    let d := ((p.streams a).zip (fl.elems.zip own)).foldl (fun d x => drainStream t a b fl.m x.1 x.2.1 x.2.2 d)
      { s := s, p := p, fl := p.flags }
    d.s.modArr t a (fun r => { r.put { d.p with flags := d.fl } with due := false })

/-- A pass holds a draining slot: its last vector has passed the column drain and it has not reported (03 R91). -/
def Pass.drains (p : Pass) : Bool := decide (p.m ≤ p.entered) && p.flight.isEmpty

/-- Both draining slots are held and this vector is the last of its pass, which therefore waits (01 R30, 03 R91). -/
def Arr.drainFull (r : Arr) (p : Pass) (rest : List Flight) : Bool :=
  rest.isEmpty && decide (p.m ≤ p.entered) && decide (2 ≤ (r.flying.filter (·.drains)).length)

/-- The oldest vector in flight comes to its tap and to the column drain: it passes, or it freezes the array, for which
each such command counts one frozen cycle (03 R93, R94, R107). -/
def execColumnDrainVector (t a : Nat) (s : State) : Host.Outcome State Fault Refusal :=
  match (s.arr t a).draining with
  | none => .next s
  | some p =>
    match p.flight, p.block with
    | fl :: rest, some b =>
      if !s.enginesRun t then .next s
      else
        let s := s.modArr t a (fun r => { r with due := true })
        if s.frozen t a then .next (s.countFrozen t a)
        else if (s.arr t a).drainFull p rest then .next s
        else .next (s.drainVector t a p fl rest b)
    | _, _ => .next s

/-! Report (03 R86, R101; 15 R580, R581) -/

/-- The ARR_TRUNC_CNT field of an array (04 R151). -/
def State.addTrunc (s : State) (t a n : Nat) : State :=
  s.addRegF (tilePage t oTruncCnt) (16 * a + 15) (16 * a) n

/-- INFO of a checksum entry: the array and the number of failing vectors (15 R566). -/
def Pass.csumInfo (p : Pass) : Nat := p.failed.headD 0 % 4 + min 255 p.failed.length <<< 8

/-- A pass with failing vectors is re-run; a re-run with failing vectors is a second mismatch. -/
def State.passFails (s : State) (t a : Nat) (p : Pass) : State :=
  let s := s.modArr t a (fun r => r.without (fun q => q.same p))
  if p.rerun then
    let s := s.addRegF (tilePage t oTileCnt) 47 32 1
    let s := (s.abandonTargets t p).dropEntry t p.kctx p.serial
    let s := s.withInj p.inj (fun s => match s.tilePart t with
      | some q => s.rustError .csumSecond q t p.csumInfo
      | none => s.log .csumSecond .rust none t p.csumInfo)
    s.markRetire t
  else
    let s := (s.withInj p.inj (fun s => s.log .csumRerun .amber (s.tilePart t) t p.csumInfo)).addRegF (tilePage t oTileCnt) 31 16 1
    if (s.ctx t p.kctx).st = .draining then (s.abandonTargets t p).dropEntry t p.kctx p.serial
    else
      s.modArr t a (fun r => { r with reruns := r.reruns ++ [
        { p with rerun := true, only := p.failed, failed := [], entered := 0, drained := 0, flight := [], flags := {},
                 truncs := 0, block := none, loaded := false }] })

/-- A pass reports: its flags become the tile's and its instruction completes, or faults (03 R86, 04 R137, 08
R293). -/
def State.passReports (s : State) (t a : Nat) (p : Pass) : State :=
  let s := s.modArr t a (fun r => r.without (fun q => q.same p))
  let s := (s.setFlags t p.flags).addTrunc t a p.truncs
  match p.fault with
  | some (x, info) => s.faultEntry t p.kctx p.serial x info
  | none => s.complete t p.kctx p.serial

def execPassReport (t a : Nat) (s : State) : Host.Outcome State Fault Refusal :=
  match (s.arr t a).flying with
  | [] => .next s
  | p :: _ =>
    if !s.enginesRun t || s.frozen t a || !p.flight.isEmpty then .next s
    else if p.failed.isEmpty then .next (s.passReports t a p)
    else .next (s.passFails t a p)

/-- A pass that has not reported after SIT is abandoned (11 R431). -/
def execSitPassAbandon (t a : Nat) (s : State) : Host.Outcome State Fault Refusal :=
  if !s.fe.sit.on then .next s
  else
    let ps := (s.arr t a).passes
    let s := ps.foldl (fun s p => (s.abandonTargets t p).dropEntry t p.kctx p.serial) s
    .next (s.modArr t a (fun r => r.without (fun _ => true)))

/-! Gang mode and configuration (03 R84, 08 R292) -/

/-- All four arrays are idle (03 R84). -/
def Pack.idle (p : Pack) : Bool := p.held.isEmpty && p.arrs.all (fun ka => ka.2.passes.isEmpty)

def execGangModeApply (t : Nat) (s : State) : Host.Outcome State Fault Refusal :=
  let p := (s.tile t).pack
  match p.gangPend with
  | some g => if p.idle then .next (s.modPack t (fun p => { p with gang := g, gangPend := none })) else .next s
  | none => .next s

/-- A write of QNT_CFG or ARR_PACK_CFG takes effect. Every write of ARR_PACK_CFG writes GANG, also with the value in
effect, and so waits for an idle pack (03 R84; DESIGN CHOICE, log entry 33). -/
def State.applyCfg (s : State) (t : Nat) (c : CfgWrite) : State :=
  let s := s.setReg c.addr c.value
  if c.addr = tilePage t oPackCfg then s.modPack t (fun p => { p with gangPend := some (fld c.value 1 0) }) else s

/-- A held pass was issued after a waiting write. -/
def CfgWrite.before (c : CfgWrite) (p : Pass) : Bool := decide ((if p.kctx then c.serialK else c.serialU) ≤ p.serial)

/-- The oldest waiting write of QNT_CFG or ARR_PACK_CFG takes effect once every `mma` issued before it has reached its
array (08 R292). -/
def execConfigWriteApply (t : Nat) (s : State) : Host.Outcome State Fault Refusal :=
  match (s.tile t).pack.cfgWrites with
  | c :: cs =>
    if (s.tile t).pack.held.all c.before then .next ((s.modPack t (fun p => { p with cfgWrites := cs })).applyCfg t c)
    else .next s
  | [] => .next s

end Sys2Proof.Machine
end

