-- ==== Sys2Proof/Machine/Chain.lean ====
section
/-! DEFINITION. Running-sum chains and the merge of top-k lists (04 R139 to R149, R696; 06 R208; 08 R307 to R311; 11
R429). -/
namespace Sys2Proof.Machine

/-- Work of the user context pauses while it is preempted (07 R255). -/
def State.paused (s : State) (t : Nat) (k : Bool) : Bool := !k && (s.herder t).preempted

def State.modStage (s : State) (t : Nat) (k : Bool) (serial : Nat) (f : Stage → Stage) : State :=
  s.modTile t (fun x => { x with chain := { x.chain with
    stages := x.chain.stages.map (fun g => if g.is k serial then f g else g) } })
def State.findStage (s : State) (t : Nat) (k : Bool) (serial : Nat) : Option Stage :=
  (s.tile t).chain.stages.find? (Stage.is k serial)
def Stage.fail (g : Stage) (x : Exc) (info : Nat) : Stage :=
  { g with bad := if g.bad.isSome then g.bad else some (x, info) }

/-! Sending beats -/

/-- A beat as a transaction (12 R465): a return-leg beat is a write into the window of the tile it goes to. -/
def Beat.txn (b : Beat) (dev : Nat) (part : Nat) : Txn :=
  let a := if b.ret then tileBase b.dst + (b.addr - tileBase b.src) else b.addr
  { type := if b.ret then .wr else if b.list then .list else .qadd, dst := dev, part := part, addr := a,
    len := max 1 b.bytes.length, fmt := b.fmt, status := if b.poison then TStat.poison.code else 0, vc := .chain,
    data := b.bytes }

/-- Forward beats on their way to a tile: those on the mesh and those in its chain buffer. -/
def State.beatsFor (s : State) (u : Nat) : Nat :=
  (s.beats.filter (fun b => b.dst == u && !b.ret)).length + (s.tile u).held.length

/-- A beat may leave its stage: to another module with a free tag; on the mesh a forward beat only while the 32 places
of the target's chain buffer are not all spoken for, which is the back-pressure of R141. -/
def State.beatRoom (s : State) (t : Nat) (b : Beat) : Bool :=
  if b.dstDev.isSome then (s.freeTag t).isSome else b.ret || decide (s.beatsFor b.dst < 32)

/-- One beat leaves its stage. A route that is gone makes the stage's fault. -/
def State.launchBeat (s : State) (t : Nat) (k : Bool) (serial : Nat) (b : Beat) : State :=
  match b.dstDev with
  | none => { s with beats := s.beats ++ [b] }
  | some dev =>
    match s.sendReq t (b.txn dev (s.partOf t)) (.chainBeat t k serial) with
    | (some _, s) => s
    | (none, s) => s.modStage t k serial (fun g => g.fail .noRoute dev)

/-- Sends beats while they may leave; the rest wait at the stage. -/
def State.pumpBeats (s : State) (t : Nat) (k : Bool) (serial : Nat) : List Beat → State
  | [] => s.modStage t k serial (fun g => { g with outq := [] })
  | b :: bs =>
    if s.beatRoom t b then (s.launchBeat t k serial b).pumpBeats t k serial bs
    else s.modStage t k serial (fun g => { g with outq := b :: bs })

/-- Sends one beat, behind those that wait. -/
def State.sendBeat (s : State) (t : Nat) (k : Bool) (serial : Nat) (b : Beat) : State :=
  let q := match s.findStage t k serial with | some g => g.outq | none => []
  s.pumpBeats t k serial (q ++ [b])

/-- The point at which a stage of a `red` completes (08 R309). -/
def Stage.finished (g : Stage) : Bool :=
  if g.role = 1 then (if g.ret then g.retNext == g.beats else g.next == g.beats)
  else if g.role = 2 then (if g.ret then g.retNext == g.beats else g.next == g.beats) && g.outq.isEmpty
  else g.next == g.beats && g.outq.isEmpty

/-- A `red` whose stage is finished completes, or faults (04 R696). -/
def State.finishStage (s : State) (t : Nat) (k : Bool) (serial : Nat) : State :=
  match s.findStage t k serial with
  | some g =>
    if g.list || !g.finished then s
    else
      let s := s.modTile t (fun x => { x with chain := { x.chain with
        stages := x.chain.stages.filter (fun y => !y.is k serial) } })
      match g.bad with
      | some (x, info) => s.faultEntry t k serial x info
      | none => s.complete t k serial
  | none => s

/-! Handover (04 R142, 08 R285, R286) -/

/-- The module that an operand lies on; none for this one (10 R369). -/
def State.remoteDev (s : State) (d : TD) : Option Nat := if s.isRemote d then some d.devid else none

/-- The stage that an entry of a `red` or a chain `topk` names. -/
def State.stageOf (s : State) (e : Entry) : Stage :=
  if fld e.word 7 0 = 0x85 then
    let l := TD.ofWord e.t1
    let n := TD.ofWord e.t2
    let f := l.fmt.getD .S32
    let sz := l.cnt.getD 0 1 * (f.width / 8)
    { serial := e.serial, kctx := e.kctx, lo := l.base, hi := l.base + sz, nlo := n.base, nhi := n.base + sz,
      ndev := s.remoteDev n, role := redRole e.word, ret := redRet e.word, fmt := f }
  else
    let l := TD.ofWord e.t2
    let n := TD.ofWord e.t4
    let sz := 8 * (fld e.word 38 33 + 1)
    { serial := e.serial, kctx := e.kctx, list := true, lo := l.base, hi := l.base + sz, nlo := n.base,
      nhi := n.base + sz, ndev := s.remoteDev n, role := fld e.word 40 39,
      fmt := (TD.ofWord e.t1).fmt.getD .S32 }

/-- The tile of an address of a tile window. -/
def tileOf (a : Nat) : Nat := (a - tileBase 0) / 0x200000

/-- Beat i of a stage to the next one, with its bytes or poisoned. -/
def Stage.forward (g : Stage) (t i : Nat) (bs : Option (List Byte)) : Beat :=
  let n := min 64 (g.hi - g.lo - 64 * i)
  { src := t, dst := tileOf g.nlo, dstDev := g.ndev, list := g.list, addr := g.nlo + 64 * i, fmt := g.fmt.code,
    last := i + 1 == g.beats, poison := bs.isNone, bytes := bs.getD (List.replicate n 0) }

/-- Beat i of a stage back to where its beats came from (04 R144). -/
def Stage.back (g : Stage) (t i : Nat) (bs : Option (List Byte)) : Beat :=
  let n := min 64 (g.hi - g.lo - 64 * i)
  let src := g.from_.getD (none, t)
  { src := t, dst := src.2, dstDev := src.1, ret := true, addr := g.lo + 64 * i, fmt := g.fmt.code,
    last := i + 1 == g.beats, poison := bs.isNone, bytes := bs.getD (List.replicate n 0) }

/-- A HEAD reads its next beat of elements and sends it (04 R140, R142, R696). -/
def State.headBeat (s : State) (t : Nat) (g : Stage) : State :=
  let a := g.lo + 64 * g.next
  let s := s.modStage t g.kctx g.serial (fun g => { g with next := g.next + 1 })
  match s.loadE a (min 64 (g.hi - a)) with
  | (.ok bs, s) => s.launchBeat t g.kctx g.serial (g.forward t g.next (some bs))
  | (.error x, s) =>
    (s.modStage t g.kctx g.serial (fun g => g.fail .memEcc x)).launchBeat t g.kctx g.serial (g.forward t g.next none)

/-- A HEAD sends its beats, each read as it is sent, as far as back-pressure lets it: at most n more (04 R141, R142). -/
def State.headBeats (s : State) (t : Nat) (k : Bool) (serial : Nat) : Nat → State
  | 0 => s
  | n + 1 =>
    match s.findStage t k serial with
    | some g =>
      if decide (g.next < g.beats) && s.beatRoom t (g.forward t g.next none) then (s.headBeat t g).headBeats t k serial n
      else s
    | none => s

/-- What waits at a stage is sent as far as it may; a HEAD whose context pauses reads nothing (07 R255). -/
def State.pumpStage (s : State) (t : Nat) (k : Bool) (serial : Nat) : State :=
  match s.findStage t k serial with
  | some g =>
    if g.role = 1 && !g.list then
      (if s.paused t k then s else (s.headBeats t k serial g.beats).finishStage t k serial)
    else if g.outq.isEmpty then s
    else (s.pumpBeats t k serial g.outq).finishStage t k serial
  | none => s

/-- The stages of this module whose next stage lies on a tile send what its chain buffer has room for. -/
def State.pumpTo (s : State) (u : Nat) : State :=
  s.tiles.foldl (fun s tx => tx.2.chain.stages.foldl (fun s g =>
    if g.ndev.isNone && g.role != 3 && tileOf g.nlo == u then s.pumpStage tx.1 g.kctx g.serial else s) s) s

/-- A remote next stage needs a route at handover (08 R285). -/
def State.routeOk (s : State) (t : Nat) (dev : Option Nat) : Bool × State :=
  match dev with
  | none => (true, s)
  | some d => s.hasRoute d t

def State.addStage (s : State) (t : Nat) (g : Stage) : State :=
  s.modTile t (fun x => { x with chain := { x.chain with stages := x.chain.stages ++ [g] } })

/-- A `red` is handed over. -/
def State.handRed (s : State) (t : Nat) (e : Entry) : State :=
  let g := s.stageOf e
  let s := s.begin_ t e.kctx e.serial
  match s.routeOk t (if g.role = 3 then none else g.ndev) with
  | (false, s) => s.faultEntry t e.kctx e.serial .noRoute (g.ndev.getD 0)
  | (true, s) =>
    let s := s.addStage t g
    if g.role = 1 then s.pumpStage t e.kctx e.serial else s

def execRedHandover (t : Nat) (s : State) : Host.Outcome State Fault Refusal :=
  match (s.herder t).nextOf (fun e => e.cls == .chn) with
  | some e => if s.enginesRun t && !s.paused t e.kctx then .next (s.handRed t e) else .next s
  | none => .next s

/-! Rows of `sfu`, `topk` and `smp` -/

/-- Row r of a tensor: its dimensions 0 and 1 (08 R305). -/
def State.loadRow (s : State) (f : Fmt) (d : TD) (r : Nat) : Except Nat (List Nat) × State :=
  let (x, s) := s.loadAll ((List.range (d.n 1)).map (fun i => ((d.rowAddr (r * d.n 1 + i)).toNat, d.rowLen f)))
  (x.map (fun bs => (List.range (d.n 1)).flatMap (fun i => unpackRow f (bs.drop (i * d.rowLen f)) (d.n 0))), s)

/-- The elements of a row with their masks (06 R199). -/
def State.loadElems (s : State) (t : Nat) (f : Fmt) (d : TD) (o : TO) (mode r : Nat) : Except Nat (List Elem) × State :=
  match s.loadRow f d r with
  | (.error x, s) => (.error x, s)
  | (.ok ws, s) =>
    if mode.testBit 1 then
      let (b, s) := s.loadE (tileBase t + o.bitmap + r * bitmapBytes ws.length) (bitmapBytes ws.length)
      (b.map (fun bm => maskElems f mode o.i0 o.cb r bm ws), s)
    else (.ok (maskElems f mode o.i0 o.cb r [] ws), s)

/-- The local list of a `topk` (06 R208). -/
def State.topkOwn (s : State) (t : Nat) (e : Entry) : Except Nat (List (BitVec 64)) × State :=
  let d := TD.ofWord e.t1
  let o := TO.ofWord e.t3
  let f := d.fmt.getD .P8
  let k := fld e.word 38 33 + 1
  let (x, s) := s.loadElems t f d o (fld e.word 42 41) 0
  (x.map (fun es =>
    let live := (es.filter (fun e => !e.masked)).map (fun e => (⟨e.w, (o.i0 + e.i) % 2 ^ 32⟩ : TkEntry))
    (tkPad f k (tkSelect f k live)).map (tkWord f)), s)

def listBytes (l : List (BitVec 64)) : List Byte := l.flatMap (fun w => toBytesLE 8 w.toNat)
def listWords (n : Nat) (bs : List Byte) : List (BitVec 64) :=
  (List.range n).map (fun i => BitVec.ofNat 64 (ofBytesLE ((bs.drop (8 * i)).take 8)))

/-- Sends a list, or poisoned beats in its place, to the next stage (04 R149, R696). -/
def State.sendList (s : State) (t : Nat) (g : Stage) (l : Option (List (BitVec 64))) : State :=
  (List.range g.beats).foldl (fun s i =>
    s.sendBeat t g.kctx g.serial (g.forward t i (l.map (fun ws => ((listBytes ws).drop (64 * i)).take 64)))) s

/-! Beats that arrive (04 R140 to R144, R149, R696) -/

/-- The stage takes this beat next. -/
def Stage.takes (b : Beat) (g : Stage) : Bool :=
  if b.ret then g.ret && !g.list && g.role != 3 && decide (g.ndev = b.srcDev) && decide (g.nlo ≤ b.addr ∧ b.addr < g.nhi)
    && decide (g.retNext < g.beats)
  else g.list == b.list && g.role != 1 && decide (g.lo ≤ b.addr ∧ b.addr < g.hi) && decide (g.next < g.beats)

/-- The beat belongs to an abandoned stage. -/
def Drop.takes (b : Beat) (d : Drop) : Bool :=
  (!d.far || b.srcDev.isSome) && d.ret == b.ret && d.list == b.list && (!b.ret || decide (d.dev = b.srcDev)) && decide (d.lo ≤ b.addr ∧ b.addr < d.hi)

/-- Adds two lists of element bytes, element by element, with the flags of saturation (02 R46, 04 R136). -/
def addElems (f : Fmt) : Nat → List Byte → List Byte → List Byte × Flags
  | 0, _, _ => ([], {})
  | n + 1, xs, ys =>
    let sz := f.width / 8
    let x := ofBytesLE (xs.take sz)
    let y := ofBytesLE (ys.take sz)
    let r : Rounded := match f with
      | .S32 =>
        let (v, c) := clipInt .S32 (toSigned 32 x + toSigned 32 y)
        ⟨ofSigned 32 v, { of := c, nx := c }⟩
      | f => quireAdd f.quireOf x (quireVal f.quireOf y)
    let (bs, fl) := addElems f n (xs.drop sz) (ys.drop sz)
    (toBytesLE sz r.word ++ bs, r.fl.or fl)

/-- The sum of a forward beat at a stage, written in place; none when it is poisoned. -/
def State.sumBeat (s : State) (t : Nat) (g : Stage) (b : Beat) : Option (List Byte) × State :=
  let a := g.lo + 64 * g.next
  let n := min 64 (g.hi - a)
  let bad (s : State) (x : Nat) : Option (List Byte) × State :=
    (none, (s.poisonRange a n).modStage t g.kctx g.serial (fun g => g.fail .memEcc x))
  if b.poison then bad s a
  else match s.loadE a n with
    | (.error x, s) => bad s x
    | (.ok own, s) =>
      let (bs, fl) := addElems g.fmt (n / (g.fmt.width / 8)) own b.bytes
      (some bs, (s.store a bs).setFlags t fl)

/-- A forward beat at a MID or TAIL stage of a `red`. -/
def State.forwardBeat (s : State) (t : Nat) (g : Stage) (b : Beat) : State :=
  let k := g.kctx
  let n := g.serial
  let g1 := { g with from_ := some (b.srcDev, b.src) }
  let s := s.modStage t k n (fun x => { x with next := x.next + 1, from_ := some (b.srcDev, b.src) })
  let (bs, s) := s.sumBeat t g b
  let s := if g.role = 2 then s.sendBeat t k n (g1.forward t g.next bs)
    else if g.ret then s.sendBeat t k n (g1.back t g.next bs)
    else s
  (s.advance t k).finishStage t k n

/-- A total beat of the return leg. -/
def State.returnBeat (s : State) (t : Nat) (g : Stage) (b : Beat) : State :=
  let k := g.kctx
  let n := g.serial
  let a := g.lo + 64 * g.retNext
  let s := s.modStage t k n (fun x => { x with retNext := x.retNext + 1 })
  let s := if b.poison then
      (s.poisonRange a (min 64 (g.hi - a))).modStage t k n (fun g => g.fail .memEcc a)
    else s.store a (b.bytes.take (g.hi - a))
  let s := if g.role = 1 then s else s.sendBeat t k n (g.back t g.retNext (if b.poison then none else some b.bytes))
  (s.advance t k).finishStage t k n

/-- The lists of a MID or TAIL `topk` are merged: the first k go on, or are written (04 R149). A list that does not
read, here or before, makes the result poisoned in place and on its way (04 R696). -/
def State.mergeList (s : State) (t : Nat) (g : Stage) : State :=
  let n := (g.hi - g.lo) / 8
  let l : Option (List (BitVec 64)) :=
    if g.gotBad || g.bad.isSome then none
    else some ((tkPad g.fmt n (tkSelect g.fmt n ((g.own ++ g.got).map (tkOfWord g.fmt)))).map (tkWord g.fmt))
  let s := s.modStage t g.kctx g.serial (fun x =>
    { (if g.gotBad then x.fail .memEcc g.lo else x) with merged := true })
  let s := if l.isNone then s.poisonRange g.lo (8 * n) else s
  if g.role = 2 then s.sendList t g l
  else match l with
    | some ws => s.store g.lo (listBytes ws)
    | none => s

/-- A list beat at a MID or TAIL `topk`; the last one merges. -/
def State.listBeat (s : State) (t : Nat) (g : Stage) (b : Beat) : State :=
  let k := g.kctx
  let n := g.serial
  let s := s.modStage t k n (fun x => { x with
    next := x.next + 1, got := x.got ++ listWords (b.bytes.length / 8) b.bytes, gotBad := x.gotBad || b.poison })
  let s := s.advance t k
  match s.findStage t k n with
  | some g => if g.next == g.beats then s.mergeList t g else s
  | none => s

/-- A beat from another module is answered once it has been taken (12 R468). -/
def State.beatAnswered (s : State) (b : Beat) : State :=
  if b.srcDev.isSome then
    let x : Txn := { type := if b.ret then .wr else if b.list then .list else .qadd, dst := s.link.en.devid,
                     src := b.srcDev.getD 0, srcTile := b.src, part := b.part, tag := b.tag, addr := b.at_ }
    s.respondTo 0 x .ok []
  else s

/-- A beat is discarded for an abandoned stage or taken by the oldest stage it is for; none while that stage does
not accept beats. -/
def State.takeBeat (s : State) (t : Nat) (b : Beat) : Option State :=
  let c := (s.tile t).chain
  match c.drops.find? (Drop.takes b) with
  | some d =>
    some (s.modTile t (fun x => { x with chain := { x.chain with
      drops := (if d.n ≤ 1 then [] else [{ d with n := d.n - 1 }]) ++ x.chain.drops.erase d } }))
  | none =>
    match c.stages.find? (Stage.takes b) with
    | none => none
    | some g =>
      if s.paused t g.kctx || !s.enginesRun t then none
      else if b.ret then (if g.role = 1 || decide (g.retNext < g.next) then some (s.returnBeat t g b) else none)
      else if !g.armed then none
      else if b.list then some (s.listBeat t g b)
      else if g.outq.isEmpty then some (s.forwardBeat t g b)
      else none

/-- A tile takes a beat, and its sender is answered. -/
def State.acceptBeat (s : State) (t : Nat) (b : Beat) : Option State := (s.takeBeat t b).map (fun s => s.beatAnswered b)

/-- The oldest beat of a kind for a tile: held ones that can be taken first, then the next one on the mesh, which is
taken, or held while the chain buffer of 32 has room (04 R141). -/
def State.oneBeat (s : State) (t : Nat) (p : Beat → Bool) : State :=
  let x := s.tile t
  match x.held.find? (fun b => p b && (s.acceptBeat t b).isSome) with
  | some b =>
    let s := s.modTile t (fun x => { x with held := x.held.erase b })
    (s.acceptBeat t b).getD s
  | none =>
    match s.beats.find? (fun b => b.dst == t && p b) with
    | none => s
    | some b =>
      let s1 := { s with beats := s.beats.erase b }
      match s1.acceptBeat t b with
      | some s2 => s2
      | none => if x.held.length < 32 && !b.ret then s1.modTile t (fun x => { x with held := x.held ++ [b] }) else s

/-- The stages of a tile send what they may. -/
def State.pumpOwn (s : State) (t : Nat) : State :=
  (s.tile t).chain.stages.foldl (fun s g => s.pumpStage t g.kctx g.serial) s

/-- The tile's own stages and those upstream send what there is room for, a beat is taken, and the room it leaves is
used. -/
def State.nextBeat (s : State) (t : Nat) (p : Beat → Bool) : State :=
  (((s.pumpOwn t).pumpTo t).oneBeat t p).pumpTo t

/-- A drain is complete: local beats for abandoned stages are discarded where they are, and of what was still to come
only beats of other modules are (11 R429 step 6). -/
def State.settleDrops (s : State) (t : Nat) : State :=
  let dead (b : Beat) : Bool := b.dst == t && b.srcDev.isNone && (s.tile t).chain.drops.any (Drop.takes b)
  let far (d : Drop) : Drop := { d with far := true }
  let f (x : Tile) : Tile :=
    { x with held := x.held.filter (fun b => !dead b), chain := { x.chain with drops := x.chain.drops.map far } }
  { s with beats := s.beats.filter (fun b => !dead b) }.modTile t f

def execChainBeatArrive (t : Nat) (s : State) : Host.Outcome State Fault Refusal :=
  .next (s.nextBeat t (fun b => !b.ret && !b.list))
def execChainReturnBeat (t : Nat) (s : State) : Host.Outcome State Fault Refusal :=
  .next (s.nextBeat t (fun b => b.ret))
def execTopkListBeat (t : Nat) (s : State) : Host.Outcome State Fault Refusal :=
  .next (s.nextBeat t (fun b => b.list))

end Sys2Proof.Machine
end

