-- ==== Sys2Proof/Machine/Drain.lean ====
section
/-! DEFINITION. The drain path (05 R164 to R183; 08 R300 to R302; 13 R519, R520, R526). -/
namespace Sys2Proof.Machine

/-! The operands of a `drn` -/

def Entry.dts (e : Entry) : TD := TD.ofWord e.t1
def Entry.dtd (e : Entry) : TD := TD.ofWord e.t2
def Entry.dIcr (e : Entry) : Bool := bit e.word 29
def Entry.dSrc (e : Entry) : Fmt := e.dts.fmt.getD .S32
/-- Channels of a row, and elements (08 R301). -/
def Entry.dChans (e : Entry) : Nat := if e.dIcr then e.dtd.n 0 else e.dts.n 0
def Entry.dElems (e : Entry) : Nat := if e.dIcr then e.dtd.elems else e.dts.elems
/-- Elements of a group (05 R173): a register's channels, 64 QP16 or 128 other elements. -/
def Entry.dRate (e : Entry) : Nat := if e.dIcr then e.dChans else if e.dSrc = .QP16 then 64 else 128
def Entry.dGroups (e : Entry) : Nat := ceilDiv e.dElems e.dRate

/-! The drain control block and the channel records (05 R170 to R172) -/

/-- A P32 value of magnitude 2^e or more; a NaR has none. -/
def p32AtLeast (w : Nat) (e : Int) : Bool :=
  match positVal 32 w with
  | some v => (pow2 e).le v.abs
  | none => false

/-- The causes of R171 but for the complements, with HRD_EXC_INFO; the order among them is the model's
(DESIGN CHOICE, log entry 28). -/
def State.dcbReject (s : State) (t : Nat) (e : Entry) (d : Dcb) (recs : List ChRec) : Option Nat :=
  let part := s.tilePart t
  let reach (a n : Nat) : Bool := match part with | some p => s.reach p a n | none => false
  let zeroShift := d.stage1 && recs.any (fun r => r.shift == 0)
  let x := srcX e.dSrc
  let smin := (recs.map (·.shift)).foldl min 63
  let lim : Int := 239 - (x : Int) + smin
  let one (b : Bool) (i : Nat) : Option Nat := if b then some i else none
  let quire := match Fmt.ofCode d.outFmt with | some f => f.isQuire | none => true
  ([ one quire 0, one (decide (0x10 ≤ d.actFn)) 0, one (d.driftAct == 3) 1, d.rsv,
     one (e.dtd.fmtCode != d.outFmt) 0,
     one (zeroShift && d.t == 0) 4, one (zeroShift && d.fb == 0) 0xC,
     one (d.stage1 && p32AtLeast d.t lim) 4, one (d.stage1 && p32AtLeast d.fb lim) 0xC,
     one (d.stats && !reach d.statDest (32 + 16 * e.dChans)) 0x28,
     one (d.driftAct == 2 && (decide (d.fbDest % 2 ≠ 0) || !reach d.fbDest (2 * e.dElems))) 0x20 ]
    ++ recs.zipIdx.map (fun (rj : ChRec × Nat) => one rj.1.rsv (0x10000 + 16 * rj.2 + 0xD))).findSome? id

/-- CHREC_OFF and records outside the populated window: they come before any record is read. -/
def chrecReject (d : Dcb) (chans : Nat) : Option Nat :=
  if d.chrecOff % 16 ≠ 0 then some 0x1C
  else ((List.range chans).find? (fun j => decide (tileSize < d.chrecOff + 16 * j + 16))).map (fun j => 0x10000 + 16 * j)

/-- Complement mismatches with HRD_EXC_INFO. -/
def dcbComplement (d : Dcb) (recs : List ChRec) : Option Nat :=
  let one (b : Bool) (i : Nat) : Option Nat := if b then some i else none
  ([ one (d.tC != complN 32 d.t) 0x08, one (d.fbC != complN 32 d.fb) 0x10 ]
    ++ recs.zipIdx.flatMap (fun (r, j) =>
      [ one (r.multC != complN 32 r.multW) (0x10000 + 16 * j + 4),
        one (r.shiftC != complN 6 r.shift) (0x10000 + 16 * j + 0xC) ])).findSome? id

/-- The DCB and the records as read at the start of a `drn`, or the fault that ends it. A complement that fails, of the
DCB or of a record, is logged with the DCB's address (05 R171; DESIGN CHOICE, log entry 93). -/
def State.readDcb (s : State) (t : Nat) (e : Entry) : Except (Exc × Nat) (Nat × List Nat) × State :=
  let chans := e.dChans
  match s.loadE e.a1.toNat 64 with
  | (.error x, s) => (.error (.memEcc, x), s)
  | (.ok bs, s) =>
    let v := ofBytesLE bs
    let d := Dcb.ofNat v
    match chrecReject d chans with
    | some i => (.error (.dcb, i), s)
    | none =>
      match s.loadE (tileBase t + d.chrecOff) (16 * chans) with
      | (.error x, s) => (.error (.memEcc, x), s)
      | (.ok rs, s) =>
        let words := (List.range chans).map (fun j => ofBytesLE ((rs.drop (16 * j)).take 16))
        let recs := words.map ChRec.ofNat
        match s.dcbReject t e d recs with
        | some i => (.error (.dcb, i), s)
        | none =>
          match dcbComplement d recs with
          | some i => (.error (.complement, i), s.log .compMem .none (s.tilePart t) t e.a1.toNat)
          | none => (.ok (v, words), s)

/-- A `drn` is handed to the drain path (05 R175, 08 R285). -/
def State.handDrn (s : State) (t : Nat) (e : Entry) : State :=
  let s := s.begin_ t e.kctx e.serial
  match s.routeOk t (s.remoteDev e.dtd) with
  | (false, s) => s.faultEntry t e.kctx e.serial .noRoute e.dtd.devid
  | (true, s) =>
    match s.readDcb t e with
    | (.error (x, i), s) => s.faultEntry t e.kctx e.serial x i
    | (.ok (v, recs), s) =>
      s.modTile t (fun y => { y with drn := y.drn ++ [
        { kctx := e.kctx, serial := e.serial, dcb := v, recs := recs, stats := List.replicate e.dChans {},
          dev := e.dtd.devid }] })

def execDrnHandover (t : Nat) (s : State) : Host.Outcome State Fault Refusal :=
  match (s.herder t).nextOf (fun e => e.cls == .drn) with
  | some e =>
    let busy := (s.herder t).begunOf .drn
    if s.enginesRun t && !s.paused t e.kctx && !busy then .next (s.handDrn t e) else .next s
  | none => .next s

/-! A group (05 R164 to R169, R177) -/

/-- A source element, and for an in-cell one the state after the register has left (04 R130, 05 R176). -/
def State.drnElem (s : State) (t : Nat) (e : Entry) (d : DrnRun) (i : Nat) : Except Nat Nat × DrnRun × State :=
  let row := i / e.dChans
  let ch := i % e.dChans
  if e.dIcr then
    if d.redrain then (.ok (SMap.get 0 d.hold i), d, s)
    else
      let key := drnKey e.word row ch
      let v := (SMap.get 0 (s.tile t).pack.icr key).toNat
      (.ok v, { d with hold := SMap.set d.hold i v },
        s.modPack t (fun p => { p with icr := SMap.erase p.icr key }))
  else
    let sz := e.dSrc.width / 8
    match s.loadE ((e.dts.rowAddr row).toNat + ch * sz) sz with
    | (.ok bs, s) => (.ok (ofBytesLE bs), d, s)
    | (.error x, s) => (.error x, d, s)

/-- The source elements of a group. -/
def State.drnRead (s : State) (t : Nat) (e : Entry) (d : DrnRun) : List Nat → Except Nat (List Nat) × DrnRun × State
  | [] => (.ok [], d, s)
  | i :: is =>
    match s.drnElem t e d i with
    | (.error x, d, s) => (.error x, d, s)
    | (.ok w, d, s) =>
      match s.drnRead t e d is with
      | (.ok ws, d, s) => (.ok (w :: ws), d, s)
      | (.error x, d, s) => (.error x, d, s)

/-- The output format, scale and stage parameters of the drain or the re-drain (05 R181). -/
def DrnRun.out (d : DrnRun) : Fmt := if d.redrain then .P16 else (Fmt.ofCode (Dcb.ofNat d.dcb).outFmt).getD .P8
def DrnRun.scale (d : DrnRun) : Nat := let b := Dcb.ofNat d.dcb; if d.redrain then b.fb else b.t

/-- One element through the five stages, with its statistics. -/
def DrnRun.elem (d : DrnRun) (e : Entry) (i w : Nat) : Nat × DrnRun :=
  let b := Dcb.ofNat d.dcb
  let ch := i % e.dChans
  let r := drainElem e.dSrc d.out d.scale b.stage1 b.actFn (ChRec.ofNat (d.recs.getD ch 0)) w
  (r.word, { d with
    flags := d.flags.or r.fl
    stats := if d.redrain then d.stats else d.stats.modify ch (fun x => x.add r)
    nar := if !d.redrain && r.vq.isNone then d.nar + 1 else d.nar
    elems := d.elems + 1
    digest := d.digest ++ toBytesLE ((d.out.width + 7) / 8) r.word })

/-- The bytes of the output words of elements [i0, i0 + n), row by row of n0 elements, with their addresses; elements
past the last of the `rows` rows are not written. `prev` is the word before the first, which shares its byte when it is
the lower half of one. -/
def drnSegs (f : Fmt) (n0 rows : Nat) (rowAt : Nat → Nat) (prev i0 : Nat) (ws : List Nat) : List (Nat × List Byte) :=
  (List.range (min rows ((i0 + ws.length + n0 - 1) / n0) - i0 / n0)).map (fun k =>
    let r := i0 / n0 + k
    let a := max i0 (r * n0)
    let c := a - r * n0
    let seg := (ws.drop (a - i0)).take (r * n0 + n0 - a)
    if f.width = 4 then
      if c % 2 = 1 then (rowAt r + c / 2, packRow f (prev :: seg)) else (rowAt r + c / 2, packRow f seg)
    else (rowAt r + c * (f.width / 8), packRow f seg))

/-- Cuts bytes at 64-byte boundaries (09 R325, 12 R464). -/
def cut64 (a : Nat) (bs : List Byte) : List (Nat × List Byte) :=
  (List.range ((a % 64 + bs.length + 63) / 64)).map (fun i =>
    let lo := if i = 0 then a else a / 64 * 64 + 64 * i
    let hi := a / 64 * 64 + 64 * i + 64
    (lo, (bs.drop (lo - a)).take (hi - lo)))

def State.modDrn (s : State) (t : Nat) (k : Bool) (serial : Nat) (f : DrnRun → DrnRun) : State :=
  s.modTile t (fun x => { x with drn := x.drn.map (fun d => if d.kctx == k && d.serial == serial then f d else d) })
def State.dropDrn (s : State) (t : Nat) (k : Bool) (serial : Nat) : State :=
  s.modTile t (fun x => { x with drn := x.drn.filter (fun d => !(d.kctx == k && d.serial == serial)) })

/-- The `drn` ends with a fault: its flags so far stand. -/
def State.failDrn (s : State) (t : Nat) (d : DrnRun) (x : Exc) (info : Nat) : State :=
  ((s.setFlags t d.flags).dropDrn t d.kctx d.serial).faultEntry t d.kctx d.serial x info

/-- Sends output writes to another module until a tag is wanting. -/
def State.pumpDrn (s : State) (t : Nat) (d : DrnRun) (dev : Nat) : List (Nat × List Byte) → State
  | [] => s.modDrn t d.kctx d.serial (fun d => { d with outq := [] })
  | (a, bs) :: q =>
    match s.freeTag t with
    | none => s.modDrn t d.kctx d.serial (fun d => { d with outq := (a, bs) :: q })
    | some _ =>
      let x : Txn := { type := .wr, dst := dev, part := s.partOf t, addr := a, len := bs.length, vc := .req, data := bs }
      match s.sendReq t x (.drnWrite t d.kctx d.serial) with
      | (some _, s) => s.pumpDrn t d dev q
      | (none, s) => s.failDrn t d .noRoute dev

/-- Writes the output segments of a group. -/
def State.drnWrite (s : State) (t : Nat) (e : Entry) (d : DrnRun) (segs : List (Nat × List Byte)) : State :=
  if s.isRemote e.dtd && !d.redrain then s.pumpDrn t d e.dtd.devid (d.outq ++ segs.flatMap (fun x => cut64 x.1 x.2))
  else segs.foldl (fun s x => s.store x.1 x.2) s

/-- One group is read, computed and written: its elements fill the destination tensor in that tensor's own order, which
is the source's order where the counts agree (05 R173; where they differ, DESIGN CHOICE, log entry 92). -/
def State.drainGroup (s : State) (t : Nat) (e : Entry) (d : DrnRun) : State :=
  let i0 := d.next * e.dRate
  let is := (List.range (min e.dRate (e.dElems - i0))).map (i0 + ·)
  match s.drnRead t e d is with
  | (.error x, d, s) => s.failDrn t d .memEcc x
  | (.ok ws, d, s) =>
    let (outs, d) := (is.zip ws).foldl (fun (r : List Nat × DrnRun) iw =>
      let (o, d) := r.2.elem e iw.1 iw.2
      (r.1 ++ [o], d)) ([], d)
    let rowAt (r : Nat) : Nat := (e.dtd.rowAddr r).toNat
    let segs := if d.redrain then [((Dcb.ofNat d.dcb).fbDest + 2 * i0, packRow .P16 outs)]
      else drnSegs d.out (e.dtd.n 0) e.dtd.rows rowAt d.lastWord i0 outs
    let d := { d with next := d.next + 1, lastWord := outs.getLastD 0 }
    let s := s.modDrn t d.kctx d.serial (fun _ => d)
    (s.drnWrite t e d segs).advance t d.kctx

/-- The drain's turn: a `drn` of a context that does not pause, with its entry. -/
def State.drnTurn (s : State) (t : Nat) (p : DrnRun → Entry → Bool) : Option (DrnRun × Entry) :=
  (s.tile t).drn.findSome? (fun d =>
    match s.entry t d.kctx d.serial with
    | some e => if s.enginesRun t && !s.paused t d.kctx && p d e then some (d, e) else none
    | none => none)

def execDrainGroup (t : Nat) (s : State) : Host.Outcome State Fault Refusal :=
  match s.drnTurn t (fun d e => decide (d.next < e.dGroups)) with
  | some (d, e) => .next (s.drainGroup t e d)
  | none => .next s

/-! Tests, records and completion (05 R179 to R182, R185, R186; 13 R520) -/

/-- The digest entry of a drain, when digests are on (13 R519, R520). -/
def State.putDigest (s : State) (t : Nat) (d : DrnRun) : State :=
  let c := s.reg (tilePage t oDigCfg)
  if !bit c 0 then s
  else
    let n := 2 ^ fld c 4 1
    let seq := s.regF (tilePage t oDigStat) 31 0
    let entry := toBytesLE 8 (crc64 d.digest)
      ++ toBytesLE 8 (seq + (Dcb.ofNat d.dcb).layer <<< 32 + (if d.redrain then 1 <<< 48 else 0))
      ++ toBytesLE 8 s.now ++ toBytesLE 8 d.elems
    let s := s.store (tileBase t + fld c 20 5 * 32 + 32 * (seq % n)) entry
    let s := s.setRegF (tilePage t oDigStat) 31 0 (seq + 1)
    if (seq + 1) % n = 0 then s.addRegF (tilePage t oDigStat) 63 32 1 else s

/-- The whole of the statistics (05 R177). -/
def DrnRun.total (d : DrnRun) : DStat :=
  d.stats.foldl (fun a x => ⟨a.count + x.count, a.clip + x.clip, a.sig.add x.sig, a.sse.add x.sse⟩) {}

/-- The clip and error verdicts (05 R180). -/
def DrnRun.verdict (d : DrnRun) : Bool × Bool :=
  let b := Dcb.ofNat d.dcb
  let all := d.total :: (if b.chanTest then d.stats else [])
  (all.any (fun x => x.clipTest b.clipThr), all.any (fun x => x.errTest b.errThr))

/-- The statistics record (05 R179). -/
def DrnRun.record (d : DrnRun) (kind : Nat) (redo : Bool) : List Byte :=
  let b := Dcb.ofNat d.dcb
  let head := d.total.entry + (d.nar % 2 ^ 32) <<< 128 + (if kind ≠ 0 then 1 <<< 160 else 0) + kind <<< 161
    + (if redo then 1 <<< 163 else 0) + b.layer <<< 164
  toBytesLE 32 head ++ d.stats.flatMap (fun x => toBytesLE 16 x.entry)

/-- After the last group of the first drain. -/
def State.finishDrn (s : State) (t : Nat) (d : DrnRun) : State :=
  let b := Dcb.ofNat d.dcb
  let s := s.putDigest t d
  let v := if b.driftAct = 0 then (false, false) else d.verdict
  let kind := (if v.1 then 1 else 0) + (if v.2 then 2 else 0)
  let drift := decide (kind ≠ 0)
  let redo := drift && b.driftAct == 2
  let s := if b.stats then s.store b.statDest (d.record kind redo) else s
  let s := if drift then
      let s := s.event (tilePage t oDriftLog) 19 (b.layer + kind <<< 16 + (if redo then 1 <<< 18 else 0))
      let s := s.addRegF (tilePage t oDriftCnt) 31 0 1
      if redo then s.addRegF (tilePage t oDriftCnt) 63 32 1 else s
    else s
  s.modDrn t d.kctx d.serial (fun d =>
    if redo then { d with drift := true, redrained := true, redrain := true, next := 0, digest := [], elems := 0 }
    else { d with drift := drift, finished := true })

def execDrnFinish (t : Nat) (s : State) : Host.Outcome State Fault Refusal :=
  match s.drnTurn t (fun d e => decide (e.dGroups ≤ d.next) && !d.finished) with
  | some (d, _) =>
    if d.redrain then
      .next ((s.putDigest t d).modDrn t d.kctx d.serial (fun d => { d with finished := true }))
    else .next (s.finishDrn t d)
  | none => .next s

def execDrnComplete (t : Nat) (s : State) : Host.Outcome State Fault Refusal :=
  match s.drnTurn t (fun d _ => d.finished && d.outq.isEmpty && !s.drnOut t d.kctx d.serial) with
  | some (d, _) =>
    let s := (s.setFlags t d.flags).dropDrn t d.kctx d.serial
    let s := s.modEntry t d.kctx d.serial (fun e =>
      { e with bits := e.bits ||| (if d.drift then 4 else 0) ||| (if d.redrained then 8 else 0) })
    .next (s.complete t d.kctx d.serial)
  | none => .next s

/-- TIL_DIG_CFG takes a value: setting EN from 0 to 1 zeroes SEQ (13 R526). -/
def State.putDigCfg (s : State) (t : Nat) (v : Word) : State :=
  let a := tilePage t oDigCfg
  let rise := !bit (s.reg a) 0 && bit v 0
  let s := s.setReg a v
  if rise then s.setRegF (tilePage t oDigStat) 31 0 0 else s

/-- A `drn` of the tile is incomplete. -/
def State.drnBusy (s : State) (t : Nat) : Bool := ((s.herder t).board ++ (s.herder t).park).any (fun e => e.cls == .drn)

def execDigestCfgApply (t : Nat) (s : State) : Host.Outcome State Fault Refusal :=
  match (s.tile t).digPend with
  | some v => if s.drnBusy t then .next s else .next ((s.modTile t (fun x => { x with digPend := none })).putDigCfg t v)
  | none => .next s

end Sys2Proof.Machine
end

