-- ==== Sys2Proof/Machine/Xlt.lean ====
section
/-! DEFINITION. Translation of the kernel virtual window: tables, lookups and caches (10 R386 to R393). -/
namespace Sys2Proof.Machine

/-- Bytes of a page. -/
def pageSize (big : Bool) : Nat := if big then 0x40000000 else 0x200000

def XltEntry.maps (p va : Nat) (e : XltEntry) : Bool := e.part == p && e.page == va / pageSize e.big
/-- The device-physical address of a virtual one (R387). -/
def XltEntry.addr (va : Nat) (e : XltEntry) : Nat := e.base + va % pageSize e.big

/-- What a lookup finds (R390). -/
inductive Lookup where
  | hit (e : XltEntry) | invalid | bad
  deriving DecidableEq, Repr

/-- The page lies wholly within channel sets or tile windows of the partition (R387). -/
def State.pageOk (s : State) (p base n : Nat) : Bool :=
  match regionOf base with
  | .hbm _ => s.reach p base n
  | .sram t _ => (List.range (n / 0x200000)).all (fun i => s.ownsTile p (t + i))
  | _ => false

/-- A table entry, read as ordinary read requests are; the table lies in the partition's own channel sets. -/
def State.tableWord (s : State) (p a : Nat) : Option Nat × State :=
  match regionOf a with
  | .hbm _ => if s.reach p a 8 then (s.touch a).loadNat a 8 true else (none, s)
  | _ => (none, s)

/-- A leaf entry's page. -/
def State.leaf (s : State) (p va e : Nat) (big pin : Bool) : Lookup :=
  let base := nfld e 47 12 <<< 12
  if base % pageSize big ≠ 0 ∨ !s.pageOk p base (pageSize big) then .bad
  else .hit ⟨p, va / pageSize big, big, base, e.testBit 2, pin⟩

/-- The reserved bits of an entry. -/
def xltReserved (e : Nat) (level2 : Bool) : Bool :=
  decide (nfld e 11 4 ≠ 0 ∨ nfld e 63 48 ≠ 0) || (level2 && e.testBit 1)

/-- Walks the table (R386). -/
def State.walk (s : State) (p va : Nat) : Lookup × State :=
  let b := s.regF (partPage p oXltCfg) 47 17 <<< 17
  match s.tableWord p (b + 8 * nfld va 43 30) with
  | (none, s) => (.bad, s)
  | (some e1, s) =>
    if !e1.testBit 0 then (.invalid, s)
    else if xltReserved e1 false then (.bad, s)
    else if e1.testBit 1 then (s.leaf p va e1 true (e1.testBit 3), s)
    else match s.tableWord p (nfld e1 47 12 <<< 12 + 8 * nfld va 29 21) with
      | (none, s) => (.bad, s)
      | (some e2, s) =>
        if !e2.testBit 0 then (.invalid, s)
        else if xltReserved e2 true then (.bad, s)
        else (s.leaf p va e2 false (e1.testBit 3 && e2.testBit 3), s)

/-- A cache of 64 entries (10 R392). DESIGN CHOICE: the oldest leaves for a new one (log 99). -/
def cachePut (c : List XltEntry) (e : XltEntry) : List XltEntry := (c ++ [e]).drop (c.length + 1 - 64)

/-- An address of the virtual window. -/
def isVirt (a : Nat) : Bool := decide (virtBase ≤ a ∧ a < virtTop)

/-- A lookup through the cache of a tile (R392). -/
def State.lookup (s : State) (t p va : Nat) : Lookup × State :=
  match (s.tile t).retr.cache.find? (XltEntry.maps p va) with
  | some e => (.hit e, s)
  | none =>
    match s.walk p va with
    | (.hit e, s) => (.hit e, s.modTile t (fun x => { x with retr := { x.retr with cache := cachePut x.retr.cache e } }))
    | r => r

/-- A lookup of the front end, which serves pinned entries only (R388, R392). -/
def State.lookupFe (s : State) (p va : Nat) : Option Nat × State :=
  if s.regF (partPage p oXltCfg) 0 0 = 0 then (none, s)
  else match s.fe.cache.find? (XltEntry.maps p va) with
  | some e => (some (e.addr va), s)
  | none =>
    match s.walk p va with
    | (.hit e, s) =>
      if e.pin then (some (e.addr va), { s with fe := { s.fe with cache := cachePut s.fe.cache e } }) else (none, s)
    | (_, s) => (none, s)

/-- The outcome of translating a request (R390). -/
inductive XltRes where
  | ok (a : Nat) | fault | bad
  deriving DecidableEq, Repr

/-- Translates a request's address just before it issues; a device-physical address stands for itself. -/
def State.translate (s : State) (t p va : Nat) (write : Bool) : XltRes × State :=
  if !isVirt va then (.ok va, s)
  else match s.lookup t p va with
    | (.hit e, s) => (if write && !e.w then .fault else .ok (e.addr va), s)
    | (.invalid, s) => (.fault, s)
    | (.bad, s) => (.bad, s)

/-- Every cache of a partition drops its entries (R393). -/
def State.dropXlt (s : State) (p : Nat) : State :=
  let s := s.modPart p (fun x => { x with invBusy := false })
  { s with
    tiles := s.tiles.map (fun kt => (kt.1, { kt.2 with retr := { kt.2.retr with
      cache := kt.2.retr.cache.filter (fun e => e.part != p) } }))
    fe := { s.fe with cache := s.fe.cache.filter (fun e => e.part != p) } }

def execXltInvalidateDone (p : Nat) (s : State) : Host.Outcome State Fault Refusal :=
  if (s.part p).invBusy then .next (s.dropXlt p) else .next s

end Sys2Proof.Machine
end

