-- ==== Sys2Proof/Machine/RetrWork.lean ====
section
/-! DEFINITION. What a stream works on: address generation of tensors and descriptors, conversion, and the check of a
descriptor (09 R333 to R343, R694). -/
namespace Sys2Proof.Machine

/-! Address generation (R337, R338, R342) -/

/-- The indices of an element in iteration order: i0 fastest. -/
def digits : List Nat → Nat → List Nat
  | [], _ => []
  | c :: cs, p => p % c :: digits cs (p / c)

/-- Indices times strides. -/
def dotStr : List Nat → List Int → Int
  | i :: is, x :: xs => (i : Int) * x + dotStr is xs
  | _, _ => 0

def Work.c (w : Work) (i : Nat) : Nat := w.cnt.getD i 1
def Work.n (w : Work) : Nat := w.cnt.foldl (· * ·) 1
/-- Bits of a source element; a scale entry has four bytes (R343). -/
def Work.sw (w : Work) : Nat := if w.kind = .scale then 32 else w.sfmt.width
/-- Bytes read for one element. -/
def Work.slen (w : Work) : Nat := max 1 (w.sw / 8)

def Work.geoIH (g : Word) : Nat := fld g 15 0
def Work.geoIW (g : Word) : Nat := fld g 31 16
def Work.geoPT (g : Word) : Nat := fld g 35 32
def Work.geoPL (g : Word) : Nat := fld g 39 36
def Work.geoSY (g : Word) : Nat := fld g 43 40
def Work.geoSX (g : Word) : Nat := fld g 47 44
def Work.geoDY (g : Word) : Nat := fld g 51 48
def Work.geoDX (g : Word) : Nat := fld g 55 52

/-- Where element p lies at the source; none for a pad mark of a CONV. -/
def Work.srcAt (w : Work) (p : Nat) : Option Nat :=
  let i := digits w.cnt p
  let i0 := i.headD 0
  let run : Int := (w.src : Int) + (i0 * w.sw / 8 : Nat)
  if w.kind = .conv then
    let d (k : Nat) : Nat := i.getD k 0
    let g := w.geom
    let ix : Int := (d 3 * Work.geoSX g + d 1 * Work.geoDX g : Nat) - (Work.geoPL g : Int)
    let iy : Int := (d 4 * Work.geoSY g + d 2 * Work.geoDY g : Nat) - (Work.geoPT g : Int)
    if 0 ≤ ix ∧ ix < Work.geoIW g ∧ 0 ≤ iy ∧ iy < Work.geoIH g then
      some (run + ix * w.sstr.getD 0 0 + iy * w.sstr.getD 1 0 + d 5 * w.sstr.getD 4 0).toNat
    else none
  else some (run + dotStr (i.drop 1) w.sstr).toNat

/-- The dimensions of an element other than the contiguous one at the destination. -/
def Work.dstAt (w : Work) (p : Nat) : Nat :=
  let i := digits w.cnt p
  let c := if w.trans then i.getD 1 0 else i.getD 0 0
  let o := if w.trans then i.getD 0 0 :: i.drop 2 else i.drop 1
  ((w.dst : Int) + (c * w.dfmt.width / 8 : Nat) + dotStr o w.dstr).toNat

/-- The length of a vector (R341, R342). -/
def Work.vec (w : Work) : Nat :=
  match w.kind with
  | .conv => w.c 0 * w.c 1 * w.c 2
  | .scale => 1
  | _ => w.c 0

/-- The source runs in dimension 0 only up to here. -/
def Work.rowEnd (w : Work) : Nat :=
  if w.kind = .conv then (w.pos / w.vec + 1) * w.vec else w.pos - w.pos % w.c 0 + w.c 0

/-- The word of element p in the bytes at its address (02 R36). -/
def Work.raw (w : Work) (p : Nat) (bs : List Byte) : Nat :=
  if w.sw = 4 then ((bs.headD 0).toNat >>> (4 * (p % w.c 0 % 2))) % 16 else ofBytesLE (bs.take w.slen)

/-- 4-bit operands are expanded between SRAM and the array (02 R48). -/
def expand8 (f : Fmt) (v : Nat) : Nat :=
  if f = .S4 then ofSigned 8 (toSigned 4 v) else v

/-- The conversion of an element (R340, R341, R343). -/
def Work.cvt (w : Work) (v : Nat) : Rounded :=
  match w.kind with
  | .scale => ⟨v, {}⟩
  | .copy => convert w.sfmt w.dfmt v
  | _ => let r := convert w.sfmt w.dfmt v; ⟨expand8 w.dfmt r.word, r.fl⟩

/-- Elements that are delivered or written together: a vector, an entry, the elements of a byte, or with 4-bit
elements transposed the plane of dimensions 0 and 1. -/
def Work.unit (w : Work) : Nat :=
  match w.kind with
  | .copy =>
    if w.dfmt.width ≠ 4 then 1
    else if w.trans then w.c 0 * w.c 1
    else if w.done % w.c 0 + 1 < w.c 0 then 2 else 1
  | _ => w.vec

/-- The next unit, when all of it is at hand. -/
def Work.ready (w : Work) : Option (List (Option Nat)) :=
  if w.done + w.unit ≤ w.n ∧ w.done < w.n then
    (List.range w.unit).mapM (fun i => (w.buf.find? (fun e => e.1 == w.done + i)).map (·.2))
  else none

/-- The byte runs of the next unit of a copy (R338, 02 R36). -/
def Work.bytes (w : Work) (vs : List Nat) : List (Nat × List Byte) :=
  if w.dfmt.width ≠ 4 then [(w.dstAt w.done, toBytesLE (w.dfmt.width / 8) (vs.headD 0))]
  else if w.trans then
    (List.range (w.c 0)).flatMap (fun a => (List.range ((w.c 1 + 1) / 2)).map (fun b =>
      let v (j : Nat) : Nat := if j < w.c 1 then vs.getD (a + j * w.c 0) 0 % 16 else 0
      (w.dstAt (w.done + a + 2 * b * w.c 0), [BitVec.ofNat 8 (v (2 * b) + 16 * v (2 * b + 1))])))
  else [(w.dstAt w.done, packRow w.dfmt vs)]

/-- The runs of bytes of a block's image that have been written, with their offsets. -/
def imageRuns : Nat → List (Option Byte) → List Byte → List (Nat × List Byte)
  | o, [], acc => if acc.isEmpty then [] else [(o - acc.length, acc)]
  | o, some b :: l, acc => imageRuns (o + 1) l (acc ++ [b])
  | o, none :: l, acc => (if acc.isEmpty then [] else [(o - acc.length, acc)]) ++ imageRuns (o + 1) l []

/-- The bytes a write request brings to its block: of bytes written twice, the later ones (R340). -/
def WrReq.runs (w : WrReq) : List (Nat × List Byte) :=
  let put (im : List (Option Byte)) (g : Nat × List Byte) : List (Option Byte) :=
    im.zipIdx.map (fun (b, i) => if g.1 ≤ w.va + i ∧ w.va + i < g.1 + g.2.length then g.2[w.va + i - g.1]? else b)
  imageRuns 0 (w.segs.foldl put (List.replicate 64 none)) []

/-- Runs of bytes written one after the other, those that follow on joined. -/
def joinRun (l : List (Nat × List Byte)) (g : Nat × List Byte) : List (Nat × List Byte) :=
  match l.getLast? with
  | some (a, bs) => if a + bs.length = g.1 then l.dropLast ++ [(a, bs ++ g.2)] else l ++ [g]
  | none => [g]

/-- Passes over pad marks that come before the next element to read. -/
def Work.pads (w : Work) (lim : Nat) : Nat → Work
  | 0 => w
  | f + 1 =>
    if lim ≤ w.pos then w
    else match w.srcAt w.pos with
      | none => Work.pads { w with pos := w.pos + 1, buf := w.buf ++ [(w.pos, none)] } lim f
      | some _ => w

/-- The elements from p on that stay in a 64-byte block, with the bytes they span (R325). -/
def Work.grow (w : Work) (blk lim : Nat) : Nat → Nat → Nat → Nat → Nat × Nat × Nat
  | 0, p, lo, hi => (p, lo, hi)
  | f + 1, p, lo, hi =>
    if lim ≤ p then (p, lo, hi)
    else match w.srcAt p with
      | none => w.grow blk lim f (p + 1) lo hi
      | some a =>
        if a / 64 = blk ∧ (a + w.slen - 1) / 64 = blk then
          w.grow blk lim f (p + 1) (min lo a) (max hi (a + w.slen))
        else (p, lo, hi)

/-- The next read request of a work whose next element is no pad mark, and the work after it. -/
def Work.nextRead (w : Work) (lim : Nat) : Option (RdReq × Work) :=
  match w.srcAt w.pos with
  | none => none
  | some a =>
    let cut := 64 - a % 64
    if w.half then
      some ({ work := w.id, first := w.pos, n := 1, part := 2, va := a + cut, bytes := w.slen - cut, dev := w.rsrc },
        { w with pos := w.pos + 1, half := false })
    else if cut < w.slen then
      some ({ work := w.id, first := w.pos, n := 1, part := 1, va := a, bytes := cut, dev := w.rsrc },
        { w with half := true })
    else
      let (p, lo, hi) := w.grow (a / 64) lim (lim - w.pos) w.pos a a
      some ({ work := w.id, first := w.pos, n := p - w.pos, va := lo, bytes := hi - lo, dev := w.rsrc },
        { w with pos := p })

/-! Tensors of `stream` and `ldw` (R297, R349) -/

/-- Six counts and five strides of a t-register. -/
def TD.counts (d : TD) : List Nat := [d.n 0, d.n 1, d.n 2, d.n 3, 1, 1]
def TD.strides (d : TD) : List Int := [d.stride 1, d.stride 2, d.stride 3, 0, 0]

/-- The module of a remote side; the module's own ID, once it has one, is served locally (10 R369). -/
def State.sideDev (s : State) (remote : Bool) (dev : Nat) : Option Nat :=
  if remote && (dev != s.link.en.devid || dev == 0x3FFF) then some dev else none

def State.tdWork (s : State) (kind : WKind) (a b : TD) (feeder : Nat) : Work :=
  let f := a.fmt.getD .P8
  { kind := kind, sfmt := f, dfmt := if kind = .copy then b.fmt.getD .P8 else f, cnt := a.counts, src := a.base,
    sstr := a.strides, dst := b.base, dstr := b.strides, rsrc := s.sideDev a.remote a.devid,
    rdst := if kind = .copy then s.sideDev b.remote b.devid else none, feeder := feeder }

/-! Descriptors (R333) -/

abbrev Desc := BitVec 512

def Desc.kind (d : Desc) : Nat := fld d 3 0
def Desc.rank (d : Desc) : Nat := fld d 14 12
def Desc.last (d : Desc) : Bool := bit d 15
def Desc.trans (d : Desc) : Bool := bit d 16
def Desc.scomp (d : Desc) : Bool := bit d 17
def Desc.arr (d : Desc) : Nat := fld d 19 18
def Desc.sub (d : Desc) : Nat := fld d 21 20
def Desc.src (d : Desc) : Nat := fld d 111 64
def Desc.devid (d : Desc) : Nat := fld d 125 112
def Desc.rsrc (d : Desc) : Bool := bit d 126
def Desc.rdst (d : Desc) : Bool := bit d 127
def Desc.dst (d : Desc) : Nat := fld d 175 128
def Desc.geom (d : Desc) : Word := d.extractLsb' 128 64
/-- Counts of dimensions 0 to 5. -/
def Desc.cnt (d : Desc) (i : Nat) : Nat := fld d (207 + 16 * i) (192 + 16 * i) + 1
/-- Source stride of dimension i, from 1. -/
def Desc.str (d : Desc) (i : Nat) : Int := toSigned 32 (fld d (319 + 32 * (i - 1)) (288 + 32 * (i - 1)))
def Desc.dstr (d : Desc) (i : Nat) : Int := toSigned 32 (fld d (479 + 32 * (i - 1)) (448 + 32 * (i - 1)))
def Desc.sfmt (d : Desc) : Option Fmt := Fmt.ofCode (fld d 7 4)
def Desc.dfmt (d : Desc) : Option Fmt := Fmt.ofCode (fld d 11 8)

/-- Every field but CTRL_C, as its bits [hi:lo]. -/
def descFields : List (Nat × Nat) :=
  [(3, 0), (7, 4), (11, 8), (14, 12), (15, 15), (16, 16), (17, 17), (19, 18), (21, 20), (31, 22), (111, 64),
   (125, 112), (126, 126), (127, 127), (175, 128), (191, 176), (207, 192), (223, 208), (239, 224), (255, 240),
   (271, 256), (287, 272), (319, 288), (351, 320), (383, 352), (415, 384), (447, 416), (479, 448), (511, 480)]

/-- Whether a descriptor of a kind uses the field that starts at a bit (R334, R694; above RANK: R336). -/
def descUses (d : Desc) (lo : Nat) : Bool :=
  let k := d.kind
  let r := d.rank
  let dim (i : Nat) : Bool := lo == 192 + 16 * i || (i != 0 && lo == 288 + 32 * (i - 1))
  let dims := (List.range (r + 1)).any dim
  let tensor := lo == 4 || lo == 8 || lo == 12 || lo == 64 || lo == 126 || (lo == 112 && d.rsrc)
  lo == 0 || lo == 15 ||
  (match k with
   | 1 => tensor || lo == 16 || lo == 127 || (lo == 112 && d.rdst) || lo == 128 || dims
       || (lo == 448 && decide (1 ≤ r)) || (lo == 480 && decide (2 ≤ r))
   | 2 => tensor || lo == 17 || lo == 18 || lo == 20 || dims
   | 3 => tensor || lo == 17 || lo == 18 || lo == 20 || lo == 128 || lo == 176
       || (dims && lo != 352 && lo != 384)
   | 4 => tensor || lo == 192
   | 5 => lo == 64
   | _ => false)

/-- The byte offset of the field that starts at a bit (R336). -/
def fieldOff (lo : Nat) : Nat := lo / 8

/-- A rejecting condition and the offset of the field that breaks it. -/
abbrev DChk := Bool × Nat

def Fmt.bytes2 (f : Fmt) : Int := max 1 ((f.width / 8 : Nat) : Int)

/-- Formats and shapes by kind (R338 to R343). -/
def descShape (d : Desc) (gang : Nat) (perPass : Bool) (want : Bool) (f g : Fmt) : List DChk :=
  let k := d.kind
  let r := d.rank
  let deep := if gang = 2 then 512 else 128
  let strides := (List.range 5).map (fun i => (decide (i < r ∧ d.str (i + 1) % f.bytes2 ≠ 0), 0x24 + 4 * i))
  let odd (n off : Nat) : DChk := (decide (1 ≤ r ∧ n % 2 ≠ 0), off)
  let fed : List DChk :=
    [(!feedFmts.contains g || !convDefined f g, 1), (d.arr != 0 && (gang == 2 || gang == 3), 2),
     (d.sub != 0 && gang != 1, 2), (d.scomp && gang == 1 && perPass && d.sub != 0, 2), (d.scomp && d.last, 1)]
  (want != (k == 4), 0) ::
  (match k with
   | 1 =>
     [(!convDefined f g, 0), (d.trans && r == 0, 2), (d.trans && decide (128 < d.cnt 0), 0x18),
      (d.trans && decide (128 < d.cnt 1), 0x1A), (decide (1 ≤ r ∧ d.dstr 1 % g.bytes2 ≠ 0), 0x38),
      (decide (2 ≤ r ∧ d.dstr 2 % g.bytes2 ≠ 0), 0x3C)] ++ strides
     ++ (if f.width = 4 then [odd (d.cnt 0) 0x18] else [])
     ++ (if g.width = 4 then [if d.trans then odd (d.cnt 1) 0x1A else odd (d.cnt 0) 0x18] else [])
   | 2 => fed ++ [(decide (deep < d.cnt 0), 0x18)] ++ strides ++ (if f.width = 4 then [odd (d.cnt 0) 0x18] else [])
   | 3 =>
     let w := d.geom
     fed ++ [(decide (deep < d.cnt 0 * d.cnt 1 * d.cnt 2), 0x18)] ++ strides
     ++ (if f.width = 4 then [odd (d.cnt 0) 0x18] else [])
     ++ [(Work.geoIH w == 0, 0x10), (Work.geoIW w == 0, 0x12), (Work.geoSY w == 0 || Work.geoSX w == 0, 0x15),
         (Work.geoDY w == 0 || Work.geoDX w == 0, 0x16), (decide (fld w 63 56 ≠ 0), 0x17)]
   | 4 => [(f != .P16, 0), (g != .P16, 1), (r != 0, 1)]
   | _ => [])

/-- D1 to D5 of R338. -/
def Desc.dstrs (d : Desc) : List Int :=
  let d3 := d.dstr 2 * d.cnt 2
  let d4 := d3 * d.cnt 3
  [d.dstr 1, d.dstr 2, d3, d4, d4 * d.cnt 4]

/-- The work that a descriptor describes. -/
def State.descWork (s : State) (d : Desc) (a feeder : Nat) : Work :=
  { kind := match d.kind with | 1 => .copy | 2 => .feed | 3 => .conv | _ => .scale
    desc := a, sfmt := d.sfmt.getD .P8, dfmt := d.dfmt.getD .P8, cnt := (List.range 6).map d.cnt, src := d.src,
    sstr := (List.range 5).map (fun i => d.str (i + 1)), dst := if d.kind = 1 then d.dst else 0, dstr := d.dstrs,
    trans := d.trans, rsrc := s.sideDev d.rsrc d.devid, rdst := s.sideDev d.rdst d.devid, feeder := feeder,
    geom := d.geom }

/-- The bytes that strided runs span: from the base, a run, and each dimension's last index times its stride. -/
def spanOf (base : Nat) (run : Nat) (cs : List Nat) (ss : List Int) : Int × Int :=
  (cs.zip ss).foldl (fun (s : Int × Int) cs =>
    let e := ((cs.1 - 1 : Nat) : Int) * cs.2
    if e < 0 then (s.1 + e, s.2) else (s.1, s.2 + e)) ((base : Int), (base : Int) + run)

/-- The input coordinates that a kernel dimension touches: lowest and highest inside the input. -/
def convRange (k o st dl pad lim : Nat) : Option (Int × Int) :=
  (List.range k).foldl (fun (r : Option (Int × Int)) kk =>
    let off : Int := (kk * dl : Nat) - (pad : Int)
    -- outputs whose coordinate st × o + off lies in [0, lim)
    let first : Int := if off < 0 then (-off + st - 1) / st else 0
    let last : Int := min ((o : Int) - 1) (((lim : Int) - 1 - off) / st)
    if first ≤ last ∧ off ≤ (lim : Int) - 1 then
      let a := first * st + off
      let b := last * st + off
      match r with
      | some (x, y) => some (min x a, max y b)
      | none => some (a, b)
    else r) none

/-- The bytes a work reads; none when it reads nothing. -/
def Work.srcSpan (w : Work) : Option (Int × Int) :=
  let run := (w.c 0 * w.sw + 7) / 8
  if w.kind = .conv then
    let g := w.geom
    match convRange (w.c 1) (w.c 3) (Work.geoSX g) (Work.geoDX g) (Work.geoPL g) (Work.geoIW g),
          convRange (w.c 2) (w.c 4) (Work.geoSY g) (Work.geoDY g) (Work.geoPT g) (Work.geoIH g) with
    | some (x0, x1), some (y0, y1) =>
      let sx := w.sstr.getD 0 0
      let sy := w.sstr.getD 1 0
      let sn := w.sstr.getD 4 0 * ((w.c 5 - 1 : Nat) : Int)
      let b : Int := w.src
      some (b + min (x0 * sx) (x1 * sx) + min (y0 * sy) (y1 * sy) + min 0 sn,
            b + max (x0 * sx) (x1 * sx) + max (y0 * sy) (y1 * sy) + max 0 sn + run)
    | _, _ => none
  else some (spanOf w.src run (w.cnt.drop 1) w.sstr)

/-- The bytes a copy writes. -/
def Work.dstSpan (w : Work) : Int × Int :=
  let c := if w.trans then w.c 1 else w.c 0
  let o := if w.trans then w.c 0 :: w.cnt.drop 2 else w.cnt.drop 1
  spanOf w.dst ((c * w.dfmt.width + 7) / 8) o w.dstr

/-- A span of a side is outside what the stream may reach: on this module the partition's reach, on another one every
device-physical address, which its target judges (R336; 10 R369, R389; 16 R611). -/
def State.sideBad (s : State) (t : Nat) (k write : Bool) (dev : Option Nat) (x : Int × Int) : Bool :=
  match dev with
  | some _ => (remoteReach x.1 x.2).isSome
  | none => (s.sideReach t (s.ctx t k).level k write x.1 x.2).isSome

/-- The spans of a descriptor (R336, 10 R389). -/
def State.descSpans (s : State) (t : Nat) (k : Bool) (d : Desc) (w : Work) : List DChk :=
  [((match w.srcSpan with | some x => s.sideBad t k false w.rsrc x | none => false), 8),
   (d.kind == 1 && s.sideBad t k true w.rdst w.dstSpan, 0x10)]

/-- The byte offset of the first offending field, if a descriptor is to be rejected (R336). `want` says that a SCALE
must stand here. -/
def State.descReject (s : State) (t : Nat) (k : Bool) (gang : Nat) (perPass want : Bool) (d : Desc) :
    Option Nat :=
  let kd := d.kind
  let zeros : List DChk := descFields.map (fun f => (!descUses d f.2 && decide (fld d f.1 f.2 ≠ 0), fieldOff f.2))
  let code : List DChk := [(decide (kd = 0 ∨ 6 < kd), 0)]
  let tensor := decide (1 ≤ kd ∧ kd ≤ 4)
  let chk : List DChk :=
    if kd = 5 then
      [(d.last, 1),
       (decide (d.src % 64 ≠ 0) || (s.inReach (s.tilePart t) false d.src (d.src + 64)).isSome, 8)]
    else if kd = 6 then [(want, 0)]
    else if !tensor then []
    else match d.sfmt, d.dfmt with
      | none, _ => [(true, 0)]
      | some _, none => [(true, 1)]
      | some f, some g =>
        if 5 < d.rank then [(want != (kd == 4), 0), (true, 1)]
        else
          let shape := descShape d gang perPass want f g
          shape ++ [(d.rsrc && d.rdst, 0xF)]
            ++ (if shape.any (·.1) then [] else s.descSpans t k d (s.descWork d 0 0))
  let offs := ((code ++ zeros ++ chk).filter (·.1)).map (·.2)
  offs.min?

end Sys2Proof.Machine
end

