-- ==== Sys2Proof/Machine/Retr.lean ====
section
/-! DEFINITION. The retriever: queues, requests, delivery, descriptors, faults, quiescence, deadlines and the sled chain
(09 R322 to R360, R694, R698; 08 R294 to R299). -/
namespace Sys2Proof.Machine

def State.modRetr (s : State) (t : Nat) (f : Retr → Retr) : State := s.modTile t (fun x => { x with retr := f x.retr })
def State.modStrm (s : State) (t : Nat) (k : Bool) (serial : Nat) (f : Strm → Strm) : State :=
  s.modRetr t (fun r => { r with
    strms := r.strms.map (fun y => if y.kctx == k && y.serial == serial then f y else y) })
def Strm.putWork (x : Strm) (w : Work) : Strm :=
  { x with works := x.works.map (fun y => if y.id = w.id then w else y) }

/-- The queue an entry of class RTV names (08 R294, R296). -/
def Entry.qid (e : Entry) : Nat := if fld e.word 7 0 = 0x81 then fld e.word 34 32 else fld e.word 45 43

/-! Faults of a stream -/

/-- A stream ends with a fault: nothing more is issued or written (08 R285, R287). -/
def State.failStrm (s : State) (t : Nat) (k : Bool) (serial : Nat) (x : Exc) (info : Nat) : State :=
  (s.modStrm t k serial Strm.stop).faultEntry t k serial x info

/-- A stopped stream of a drained context, or of an instruction that has completed, is gone once nothing of it is
outstanding (R362, 11 R429). -/
def State.dropQuiet (s : State) (t : Nat) (k : Bool) (serial : Nat) : State :=
  match s.stream t k serial with
  | some x =>
    if x.stopping && x.quiet && (decide ((s.ctx t k).st = .draining) || (s.entry t k serial).isNone) then
      (s.dropStream t k serial).dropEntry t k serial
    else s
  | none => s

/-- Writes RTV_FAULT and RTV_FAULT_VA (R363). -/
def State.putRtvFault (s : State) (t q : Nat) (f : StrFault) : State :=
  (s.setReg (tilePage t oRtvFault)
    (BitVec.ofNat 64 (f.desc <<< 8 + (if f.write then 16 else 0) + 8 + q))).setReg (tilePage t oRtvFaultVa)
    (BitVec.ofNat 64 f.va)

/-- A resumable translation fault halts a stream and its queue, and reports it (R354, 10 R390, R400, 11 R426). -/
def State.haltStrm (s : State) (t : Nat) (x : Strm) (desc va : Nat) (write : Bool) : State :=
  let held := bit (s.reg (tilePage t oRtvFault)) 3
  let f : StrFault := { desc := desc, va := va, write := write, reported := !held }
  let s := s.modStrm t x.kctx x.serial (fun y => { y with fault := some f })
  let s := if held then s else s.putRtvFault t x.qid f
  match s.tilePart t with
  | some p => (s.addRegF (partPage p oXltFstat) 63 32 1).msix (128 * p + 65)
  | none => s

/-- The faulted stream of a queue. -/
def Retr.faulted (r : Retr) (q : Nat) : Option Strm := r.strms.find? (fun x => x.qid == q && x.fault.isSome)

/-- RTV_FAULT, once cleared, takes the lowest other faulted queue not yet reported (R356). -/
def State.refillFault (s : State) (t : Nat) : State :=
  let r := (s.tile t).retr
  match ((List.range 8).filterMap r.faulted).find? (fun x => (x.fault.map (fun f => !f.reported)).getD false) with
  | some x =>
    match x.fault with
    | some f =>
      (s.putRtvFault t x.qid f).modStrm t x.kctx x.serial (fun y => { y with fault := some { f with reported := true } })
    | none => s
  | none => s

/-- A write of RTV_CTL: KILL ends, RESUME restarts the stream of a faulted queue (R355, R364). -/
def State.rtvCtl (s : State) (t : Nat) (v : Word) : State :=
  (List.range 8).foldl (fun s q =>
    match (s.tile t).retr.faulted q with
    | none => s
    | some x =>
      if bit v (8 + q) then s.failStrm t x.kctx x.serial .xlate ((x.fault.map (·.va)).getD 0)
      else if bit v q then s.modStrm t x.kctx x.serial (fun y => { y with fault := none })
      else s) s

/-! Room in feeders and companions (R341, R343) -/

def Retr.works (r : Retr) : List Work := (r.strms.filter (fun x => !x.stopping)).flatMap (·.works)
def Work.isFeed (w : Work) : Bool := w.kind == .feed || w.kind == .conv

/-- Vectors read for a feeder and not yet in it. -/
def Retr.inFlight (r : Retr) (f : Nat) : Nat :=
  ((r.works.filter (fun w => w.isFeed && w.feeder == f)).map (fun w => ceilDiv w.pos w.vec - w.done / w.vec)).sum
/-- Entries read for a companion buffer and not yet in it. -/
def Retr.compFlight (r : Retr) (f : Nat) : Nat :=
  ((r.works.filter (fun w => w.kind == .scale && w.feeder == f)).map (fun w => w.pos - w.done)).sum

/-- A read of the elements before this one may start now: what they need at the fed array has room. A request that
starts carries every further element of its block (R325). -/
def State.readLimit (s : State) (t : Nat) (w : Work) : Nat :=
  let x := s.tile t
  match w.kind with
  | .copy => w.n
  | .scale => min w.n (w.pos + (512 - ((SMap.get [] x.pack.comp w.feeder).length + x.retr.compFlight w.feeder)))
  | _ => min w.n ((ceilDiv w.pos w.vec + (8 - ((SMap.get [] x.pack.feed w.feeder).length + x.retr.inFlight w.feeder))) * w.vec)

/-- Addresses of the tile's own window are read and written through the local port (R324). -/
def isLocal (t : Nat) (dev : Option Nat) (a : Nat) : Bool :=
  dev.isNone && (match regionOf a with | .sram u _ => u == t | _ => false)
def Work.localSrc (t : Nat) (w : Work) : Bool := isLocal t w.rsrc w.src
def Work.localDst (t : Nat) (w : Work) : Bool := w.kind == .copy && isLocal t w.rdst w.dst

/-! Sending sled beats (R349, R352) -/

/-- Addresses of the sled buffer of a tile on another module, for the header and for data: the spec names none, so
these lie in the window's unpopulated part. -/
def sledOff (header : Bool) : Nat := if header then 0x1A0000 else 0x1A0040

/-- The header beat's 16 bytes on a link: format, device and tile of the HEAD, byte count. -/
def SledBeat.data (b : SledBeat) : List Byte :=
  if b.header then toBytesLE 8 (b.fmt + b.headDev <<< 16 + b.headTile <<< 32) ++ toBytesLE 8 b.count else b.bytes

def SledBeat.txn (b : SledBeat) (dev part : Nat) : Txn :=
  { type := .wr, dst := dev, part := part, addr := tileBase b.dst + sledOff b.header, len := b.data.length,
    vc := .sled, data := b.data }

/-- Sends beats to another module until a tag is wanting; the rest wait. -/
def State.pumpSleds (s : State) (t : Nat) (k : Bool) (serial : Nat) : List SledBeat → State
  | [] => s.modStrm t k serial (fun x => { x with sledOut := [] })
  | b :: bs =>
    match s.freeTag t with
    | none => s.modStrm t k serial (fun x => { x with sledOut := b :: bs })
    | some _ =>
      let dev := b.dstDev.getD 0
      match s.sendReq t (b.txn dev (s.partOf t)) (.sledBeat t k serial b.last) with
      | (some _, s) => s.pumpSleds t k serial bs
      | (none, s) => s.failStrm t k serial .noRoute dev

/-- Sends one beat to the next stage, that SN names. -/
def State.sendSled (s : State) (t : Nat) (e : Entry) (b : SledBeat) : State :=
  let tg := Target.ofWord e.x1
  let b := { b with src := t, srcDev := none, kctx := e.kctx, serial := e.serial, dst := tg.tile,
                    dstDev := s.sideDev tg.remote tg.dev }
  if b.dstDev.isNone then { s with sleds := s.sleds ++ [b] }
  else
    let q := match s.stream t e.kctx e.serial with | some x => x.sledOut | none => []
    s.pumpSleds t e.kctx e.serial (q ++ [b])

/-- Bytes of the block of an `ldw`. -/
def TD.blockBytes (d : TD) : Nat := d.rows * d.rowLen (d.fmt.getD .P8)

/-- The HEAD sends the data beats whose bytes are at hand. -/
def State.headData (s : State) (t : Nat) (e : Entry) : Nat → State
  | 0 => s
  | f + 1 =>
    match s.stream t e.kctx e.serial with
    | none => s
    | some x =>
      let left := x.total - x.sent
      let n := min 64 left
      if x.stopping || left = 0 || x.sledBuf.length < n then s
      else
        let s := s.modStrm t e.kctx e.serial (fun x =>
          { x with sledBuf := x.sledBuf.drop n, sent := x.sent + n })
        (s.sendSled t e { src := t, dst := 0, last := n == left, bytes := x.sledBuf.take n }).headData t e f

/-! Delivery (R338, R340, R341, R343) -/

/-- Places bytes of a block in the stream's waiting writes (R325). A request to another module is one run. -/
def pushSeg (w : Work) (wq : List WrReq) (seg : Nat × List Byte) : List WrReq :=
  let id := w.id
  let dev := w.rdst
  let blk := seg.1 / 64 * 64
  let new : WrReq := { work := id, desc := w.desc, va := blk, segs := [seg], dev := dev }
  match wq.getLast? with
  | none => [new]
  | some q =>
    let ends : Option (Nat × List Byte) := q.segs.getLast?
    let meets := match ends with | some (a, bs) => a + bs.length == seg.1 | none => false
    if !q.closed && q.work == id && q.va == blk && q.dev == dev && (dev.isNone || meets) then
      let segs := match ends with
        | some (a, bs) => if meets then q.segs.dropLast ++ [(a, bs ++ seg.2)] else q.segs ++ [seg]
        | none => [seg]
      wq.dropLast ++ [{ q with segs := segs }]
    else wq.dropLast ++ [{ q with closed := true }, new]

/-- Puts the bytes of a unit into the waiting write requests. -/
def State.putUnit (s : State) (t : Nat) (x : Strm) (w : Work) (segs : List (Nat × List Byte)) : State :=
  let cuts := segs.flatMap (fun g => cut64 g.1 g.2)
  s.modStrm t x.kctx x.serial (fun (y : Strm) => { y with wq := cuts.foldl (pushSeg w) y.wq })

/-- Rows of bytes of the tile's quire store, from addresses. -/
def quireSpan (t : Nat) (g : Nat × List Byte) : Int × Int :=
  let a : Int := (g.1 : Int) - (tileBase t + quireOff : Nat)
  (a, a + g.2.length)

/-- A `drn` that was issued before a stream, or in the other context, reads bytes that the stream would write: they wait
until it has completed (05 R176). -/
def State.drnHolds (s : State) (t : Nat) (k : Bool) (serial : Nat) (segs : List (Nat × List Byte)) : Bool :=
  s.drnReads t (segs.map (quireSpan t)) (fun e => e.kctx != k || decide (e.serial < serial))

/-- What the next unit goes to has room for it, and no `drn` holds it back (R341, R343, 05 R176). -/
def State.unitFits (s : State) (t : Nat) (x : Strm) (w : Work) (vs : List (Option Nat)) : Bool :=
  let p := (s.tile t).pack
  match w.kind with
  | .feed | .conv => decide ((SMap.get [] p.feed w.feeder).length < 8)
  | .scale => decide ((SMap.get [] p.comp w.feeder).length < 512)
  | .copy => !s.drnHolds t x.kctx x.serial (w.bytes (vs.map (fun v => v.getD 0)))

/-- Delivers one unit. -/
def State.deliverUnit (s : State) (t : Nat) (x : Strm) (w : Work) (vs : List (Option Nat)) : State :=
  let ws := vs.map (fun v => v.getD 0)
  let s : State := match w.kind with
    | .feed | .conv =>
      s.modPack t (fun p => { p with feed := SMap.set p.feed w.feeder (SMap.get [] p.feed w.feeder ++ [vs]) })
    | .scale =>
      let c := (SMap.get [] (s.tile t).pack.comp w.feeder) ++ ws.zipIdx.map (fun (e, i) =>
        ({ entry := BitVec.ofNat 32 e, addr := (w.srcAt (w.done + i)).getD 0 } : ScaleEnt))
      s.modPack t (fun p => { p with comp := SMap.set p.comp w.feeder c })
    | .copy =>
      let segs : List (Nat × List Byte) := w.bytes ws
      let s := if w.localDst t then s else s.putUnit t x w segs
      if x.kind == SKind.ldwHead then
        s.modStrm t x.kctx x.serial (fun y => { y with sledBuf := y.sledBuf ++ segs.flatMap Prod.snd })
      else s
  let d := w.done + w.unit
  s.modStrm t x.kctx x.serial (fun x => x.putWork { w with done := d, buf := w.buf.filter (fun e => decide (d ≤ e.1)) })

/-- Delivers the units at hand of a work, in order, while they fit. What goes through the local port is collected and
written last, bytes that follow on in one write (R324). -/
def State.deliver (t : Nat) (k : Bool) (serial id : Nat) : Nat → List (Nat × List Byte) → State → State
  | 0, acc, s => acc.foldl (fun s g => s.store g.1 g.2) s
  | f + 1, acc, s =>
    let stop := acc.foldl (fun s g => s.store g.1 g.2) s
    match s.stream t k serial with
    | none => stop
    | some x =>
      match x.works.find? (fun w => w.id == id) with
      | none => stop
      | some w =>
        match w.ready with
        | none => stop
        | some vs =>
          if !s.unitFits t x w vs then stop
          else
            let l := if w.localDst t then (w.bytes (vs.map (fun v => v.getD 0))).foldl joinRun acc else acc
            State.deliver t k serial id f l (s.deliverUnit t x w vs)

/-- The last request or element read of the descriptors taken up has issued (R344). -/
def Strm.worksIssued (t : Nat) (x : Strm) : Bool :=
  x.again.isEmpty && x.wq.isEmpty
    && x.works.all (fun w => w.pos == w.n && (w.kind != .copy || w.localDst t || w.done == w.n))

/-- The last request, or last element read, of a stream has issued (R323). -/
def Strm.allIssued (t : Nat) (x : Strm) : Bool :=
  x.listEnd && !x.mark && x.needScale.isNone && x.worksIssued t
    && (!(x.kind == .ldwMember || x.kind == .ldwTail) || (x.header && x.sent == x.total))

/-- Closes finished works and their last write request, and notes the last request. -/
def State.settle (s : State) (t : Nat) (k : Bool) (serial : Nat) : State :=
  s.modStrm t k serial (fun x =>
    let fin := (x.works.filter (fun w => w.done == w.n)).map (·.id)
    let x := { x with
      works := x.works.filter (fun w => w.done != w.n)
      wq := x.wq.map (fun (q : WrReq) => if fin.contains q.work then { q with closed := true } else q) }
    { x with issued := x.issued || x.allIssued t })

/-- After elements have come in: delivery, sled beats, closing. -/
def State.flow (s : State) (t : Nat) (k : Bool) (serial id : Nat) : State :=
  match s.stream t k serial with
  | none => s
  | some x =>
    let n := match x.works.find? (fun w => w.id == id) with | some w => w.buf.length | none => 0
    let s := State.deliver t k serial id n [] s
    let s := match s.entry t k serial with
      | some e => if x.kind == SKind.ldwHead then s.headData t e (n * 32) else s
      | none => s
    s.settle t k serial

/-- A work passes over the pad marks before what it may read (R342). -/
def State.padWork (s : State) (t : Nat) (w : Work) : Work :=
  let lim := s.readLimit t w
  if w.localSrc t then w else w.pads lim (lim - w.pos)

/-- What has come in and did not fit is passed on as room comes, and pad marks are passed over. -/
def State.passOn (s : State) (t : Nat) : State :=
  ((s.tile t).retr.strms.filter (fun x => !x.stopping)).foldl (fun s x =>
    x.works.foldl (fun s w =>
      (s.modStrm t x.kctx x.serial (fun y =>
        { y with works := y.works.map (fun v => if v.id = w.id then s.padWork t v else v) })).flow t x.kctx x.serial w.id) s) s

/-! Queues (R322, R323) -/

/-- The stream of a queue whose turn it is to issue. -/
def Retr.issuing (r : Retr) (q : Nat) : Option Strm :=
  r.strms.find? (fun x => x.qid == q && !x.stopping && (!x.again.isEmpty || (x.started && !x.issued)))
/-- It is neither halted nor quiesced. -/
def Strm.runs (x : Strm) : Bool := !x.stopping && !x.quiesced && x.fault.isNone

/-- A HEAD that starts to issue sends its header (R349, R351). -/
def State.startStrm (s : State) (t : Nat) (k : Bool) (serial : Nat) : State :=
  let s := s.modStrm t k serial (fun x => { x with started := true })
  match s.stream t k serial, s.entry t k serial with
  | some x, some e =>
    if x.kind == .ldwHead then
      s.sendSled t e { src := t, dst := 0, header := true, fmt := (TD.ofWord e.t2).fmtCode, count := x.total,
                       headDev := s.link.en.devid, headTile := t }
    else s
  | _, _ => s

/-- The stream of an entry when its queue accepts it. -/
def State.newStrm (s : State) (t : Nat) (e : Entry) : Strm :=
  let x : Strm := { serial := e.serial, kctx := e.kctx, qid := e.qid, listEnd := true }
  let b := TD.ofWord e.t2
  if fld e.word 7 0 = 0x81 then
    let a := TD.ofWord e.t1
    let w := s.tdWork .copy a b 0
    let x := { x with total := b.blockBytes }
    match fld e.word 31 30 with
    | 0 => { x with kind := .ldwCopy, works := [w] }
    | 1 => { x with kind := .ldwHead, works := [w] }
    | 2 => { x with kind := .ldwMember }
    | _ => { x with kind := .ldwTail }
  else
    let slice := tileBase t + actOff + handleOff e.x1
    let a := if bit e.word 41 then { TD.ofWord e.t1 with base := slice, remote := false } else TD.ofWord e.t1
    match fld e.word 36 35 with
    | 0 =>
      let f := if (s.tile t).pack.gang = 1 then fld e.word 40 39 else fld e.word 38 37
      { x with kind := .feed, works := [s.tdWork .feed a b f] }
    | 1 => { x with kind := .copy, works := [s.tdWork .copy a b 0] }
    | _ => { x with kind := .desc, next := a.base, listEnd := false }

/-- The devices whose routes a stream needs at handover (08 R285). -/
def State.strmDevs (s : State) (e : Entry) (x : Strm) : List Nat :=
  let sides := x.works.flatMap (fun w => w.rsrc.toList ++ w.rdst.toList)
  let tg := Target.ofWord e.x1
  sides ++ (if x.kind == .ldwHead || x.kind == .ldwMember then (s.sideDev tg.remote tg.dev).toList else [])

/-- The first device of a list without a route. -/
def State.noRoute (s : State) (t : Nat) : List Nat → Option Nat × State
  | [] => (none, s)
  | d :: ds => match s.hasRoute d t with
    | (true, s) => s.noRoute t ds
    | (false, s) => (some d, s)

/-- A queue accepts a stream (R322, 08 R236). -/
def State.acceptStrm (s : State) (t : Nat) (e : Entry) : State :=
  let x := s.newStrm t e
  let s := s.begin_ t e.kctx e.serial
  match s.noRoute t (s.strmDevs e x) with
  | (some d, s) => s.faultEntry t e.kctx e.serial .noRoute d
  | (none, s) =>
    let ahead := (s.tile t).retr.strms.any (fun y => y.qid == x.qid && !y.stopping && !y.issued)
    let s := s.modRetr t (fun r => { r with strms := r.strms ++ [x] })
    if ahead then s else s.startStrm t e.kctx e.serial

/-- Streams of a queue that have not issued their last request: it holds four. -/
def Retr.held (r : Retr) (q : Nat) : Nat := (r.strms.filter (fun x => x.qid == q && !x.stopping && !x.issued)).length

def execStreamQueueAccept (t q : Nat) (s : State) : Host.Outcome State Fault Refusal :=
  match (s.herder t).nextOf (fun e => e.cls == .rtv) with
  | some e =>
    if s.enginesRun t && e.qid == q && decide ((s.tile t).retr.held q < 4) then .next (s.acceptStrm t e) else .next s
  | none => .next s

/-- The first stream of a queue that has not started, once those ahead of it have issued their last request. -/
def Retr.starter (r : Retr) (q : Nat) : Option Strm :=
  let l := r.strms.filter (fun x => x.qid == q && !x.stopping && !x.issued)
  match l with
  | x :: _ => if x.started then none else some x
  | [] => none

def execStreamIssueStart (t q : Nat) (s : State) : Host.Outcome State Fault Refusal :=
  match (s.tile t).retr.starter q with
  | some x => if s.enginesRun t then .next (s.startStrm t x.kctx x.serial) else .next s
  | none => .next s

/-! Descriptor lists (R335, R336, R344, R346) -/

def burstBytes : Nat := 1024

/-- Descriptor addresses of a burst. -/
def burstAddrs (blk : Nat) : List Nat := (List.range 16).map (fun i => blk + 64 * i)

/-- A word of a burst to be asked for; one outside the partition's reach is not fetched (R336). -/
def State.burstWord (s : State) (part : Option Nat) (a : Nat) : BurstWord :=
  if (match part with | some p => s.reach p a 64 | none => false) then .want else .outside

/-- Reads a burst of the tile's own SRAM; the first word that does not read ends it (R344, R360). -/
def State.readBurst (s : State) : List Nat → Except Nat (List BurstWord) × State
  | [] => (.ok [], s)
  | a :: as =>
    match s.loadE a 64 with
    | (.error x, s) => (.error x, s)
    | (.ok bs, s) =>
      match s.readBurst as with
      | (.ok l, s) => (.ok (.data (BitVec.ofNat 512 (ofBytesLE bs)) :: l), s)
      | (.error x, s) => (.error x, s)

/-- The block to fetch next: that of the next descriptor, or the one after it when four or fewer descriptors of the
burst remain. -/
def Strm.wantsBurst (x : Strm) : Option Nat :=
  let blk := x.next / burstBytes * burstBytes
  let held (b : Nat) : Bool := x.bursts.any (fun y => y.1 == b)
  if !held blk then some blk
  else if (blk + burstBytes - x.next) / 64 ≤ 4 ∧ !held (blk + burstBytes) then some (blk + burstBytes)
  else none

/-- The stream of a queue that works through a list. -/
def State.lister (s : State) (t q : Nat) : Option Strm :=
  match (s.tile t).retr.issuing q with
  | some x => if s.enginesRun t && x.runs && x.kind == .desc && x.started && !x.listEnd && !x.mark then some x else none
  | none => none

/-- Fetches a burst: in one go through the local port, else as read requests that are then ready to issue (R344). -/
def State.fetchBurst (s : State) (t : Nat) (x : Strm) (b : Nat) : State :=
  let put (s : State) (ws : List BurstWord) : State :=
    s.modStrm t x.kctx x.serial (fun y => { y with bursts := y.bursts ++ [(b, ws)] })
  if isLocal t none b then
    match s.readBurst (burstAddrs b) with
    | (.ok ws, s) => put s ws
    | (.error a, s) => s.failStrm t x.kctx x.serial .memEcc a
  else put s ((burstAddrs b).map (s.burstWord (s.tilePart t)))

def execDescBurstFetch (t q : Nat) (s : State) : Host.Outcome State Fault Refusal :=
  match s.lister t q with
  | some x =>
    match x.wantsBurst with
    | some b => .next (s.fetchBurst t x b)
    | none => .next s
  | none => .next s

/-- The word of the next descriptor, if its burst is held. -/
def Strm.nextWord (x : Strm) : Option BurstWord :=
  (x.bursts.find? (fun y => y.1 == x.next / burstBytes * burstBytes)).bind (fun y => y.2[(x.next % burstBytes) / 64]?)

/-- Lets go of bursts: what has not been asked for is not fetched, and what returns is discarded. -/
def Strm.keepBursts (x : Strm) (keep : Nat → Bool) : Strm :=
  let gone (r : RdReq) : Bool := match r.blk with | some b => !keep b | none => false
  { x with
    bursts := x.bursts.filter (fun b => keep b.1)
    reads := x.reads.map (fun r => if gone r then { r with blk := none } else r)
    again := x.again.filter (fun r => !gone r) }

/-- Moves past a descriptor; bursts that are no longer needed are let go. -/
def Strm.step (x : Strm) (last : Bool) : Strm :=
  let n := x.next + 64
  { x.keepBursts (fun b => !last && decide (n < b + burstBytes)) with next := n, listEnd := last }

/-- The SCL_LAYOUT bit of the array, in a gang that of array 0, selects per-pass records (05 R155, R184, 09 R343). -/
def State.perPassAt (s : State) (t a : Nat) : Bool :=
  !bit (s.reg (tilePage t oQntCfg)) (4 + if s.gang t = 0 then a else 0)

/-- A checked descriptor takes effect. -/
def State.takeDesc (s : State) (t : Nat) (x : Strm) (d : Desc) (gang : Nat) : State :=
  if d.kind = 5 then
    s.modStrm t x.kctx x.serial (fun y => { y.keepBursts (fun _ => false) with next := d.src })
  else if d.kind = 6 then
    s.modStrm t x.kctx x.serial (fun y => { (y.step d.last).keepBursts (fun _ => false) with mark := true })
  else
    let feeder := if d.kind = 4 then x.needScale.getD 0 else if gang = 1 then d.sub else d.arr
    let w := { s.descWork d x.next feeder with id := x.taken + 1 }
    match s.noRoute t (w.rsrc.toList ++ w.rdst.toList) with
    | (some dev, s) => s.failStrm t x.kctx x.serial .noRoute dev
    | (none, s) =>
      s.modStrm t x.kctx x.serial (fun y =>
        { y.step d.last with
          works := y.works ++ [w], taken := y.taken + 1,
          needScale := if (d.kind = 2 ∨ d.kind = 3) ∧ d.scomp then some feeder else none })

/-- Checks the next descriptor and takes it up (R336). -/
def State.takeUp (s : State) (t : Nat) (x : Strm) (w : BurstWord) : State :=
  let fail (e : Exc) (i : Nat) : State := s.failStrm t x.kctx x.serial e i
  match w with
  | .outside => fail .format (2 ^ 63 + x.next)
  | .want | .wait => s
  | .data d =>
    if fld d 63 32 ≠ complN 32 (fld d 31 0) then
      (s.log .compMem .none (s.tilePart t) t x.next).failStrm t x.kctx x.serial .complement 4
    else
      let gang := (s.tile t).pack.gang
      match s.descReject t x.kctx gang (s.perPassAt t (Desc.arr d)) x.needScale.isSome d with
      | some off => fail .format off
      | none => s.takeDesc t x d gang

/-- Every word of the next descriptor's burst has been asked for. -/
def Strm.burstAsked (x : Strm) : Bool :=
  x.bursts.all (fun b => b.1 != x.next / burstBytes * burstBytes || !b.2.contains .want)

def execDescTakeUp (t q : Nat) (s : State) : Host.Outcome State Fault Refusal :=
  match s.lister t q with
  | some x =>
    match x.nextWord with
    | some w =>
      if x.worksIssued t && x.burstAsked then
        .next ((s.takeUp t x w).settle t x.kctx x.serial)
      else .next s
    | none => .next s
  | none => .next s

def execMarkSatisfied (t q : Nat) (s : State) : Host.Outcome State Fault Refusal :=
  match (s.tile t).retr.issuing q with
  | some x =>
    if s.enginesRun t && x.runs && x.mark && x.works.isEmpty && x.quiet && x.wq.isEmpty then
      .next ((s.modStrm t x.kctx x.serial (fun y => { y with mark := false, bursts := [] })).settle t x.kctx x.serial)
    else .next s
  | none => .next s

/-! Local reads (R324) -/

/-- Reads elements up to a bound into the work, until one does not read. -/
def State.readElems (w : Work) (lim : Nat) : Nat → State → (Except Nat Unit × Flags × Work × State)
  | 0, s => (.ok (), {}, w, s)
  | f + 1, s =>
    if lim ≤ w.pos then (.ok (), {}, w, s)
    else match w.srcAt w.pos with
      | none => State.readElems { w with pos := w.pos + 1, buf := w.buf ++ [(w.pos, none)] } lim f s
      | some a =>
        match s.loadE a w.slen with
        | (.error x, s) => (.error x, {}, w, s)
        | (.ok bs, s) =>
          let r := w.cvt (w.raw w.pos bs)
          let (z, fl, w, s) := State.readElems { w with pos := w.pos + 1, buf := w.buf ++ [(w.pos, some r.word)] } lim f s
          (z, r.fl.or fl, w, s)

/-- Elements read in one go through the local port: to the end of the dimension-0 run or the vector, at most 1 KiB. -/
def State.localLimit (s : State) (t : Nat) (w : Work) : Nat :=
  min (min w.rowEnd (s.readLimit t w)) (w.pos + 8192 / w.sw)

def State.readLocal (s : State) (t : Nat) (x : Strm) (w : Work) (lim : Nat) : State :=
  let (z, fl, w, s) := State.readElems w lim (lim - w.pos) s
  let s := s.setFlags t fl
  match z with
  | .error a => s.failStrm t x.kctx x.serial .memEcc a
  | .ok _ => (s.modStrm t x.kctx x.serial (fun y => y.putWork w)).flow t x.kctx x.serial w.id

def execLocalElementRead (t q : Nat) (s : State) : Host.Outcome State Fault Refusal :=
  let s := if s.enginesRun t then s.passOn t else s
  match (s.tile t).retr.issuing q with
  | some x =>
    match x.works.getLast? with
    | some w =>
      let lim := s.localLimit t w
      if s.enginesRun t && x.runs && x.started && w.localSrc t && decide (w.pos < lim) then
        .next (s.readLocal t x w lim)
      else .next s
    | none => .next s
  | none => .next s

/-! Requests (R325 to R330) -/

/-- Requests outstanding (R326). -/
def Strm.out (x : Strm) : Nat := x.reads.length + x.wout.length
def Retr.outQ (r : Retr) (q : Nat) : Nat := ((r.strms.filter (fun x => x.qid == q)).map Strm.out).sum
def Retr.out (r : Retr) : Nat := (r.strms.map Strm.out).sum

/-- Two device-physical addresses of one 64-byte block. -/
def sameBlock (a b : Nat) : Bool := a / 64 == b / 64

/-- The writes of a tile that have issued and not reached their target on this module. -/
def Retr.onWay (r : Retr) : List (Strm × WrReq) :=
  r.strms.flatMap (fun x => (x.wout.filter (fun w => w.dev.isNone && !w.arrived)).map (fun w => (x, w)))

/-- A read of a block that issued before a request has not been served yet. -/
def Retr.readAhead (r : Retr) (a n : Nat) : Bool :=
  r.strms.any (fun x => !x.stopping && x.reads.any (fun y =>
    y.dev.isNone && y.got.isNone && sameBlock y.addr a && decide (y.seq < n)))

/-- Performs a write at its target. -/
def State.performWrite (s : State) (w : WrReq) : State :=
  w.runs.foldl (fun s g => (s.touch w.addr).store (w.addr + g.1) g.2) s

/-- Performs writes of a tile in the order in which they issued. -/
def State.arriveWrites (s : State) (t : Nat) (p : Strm → WrReq → Bool) : State :=
  let l := ((s.tile t).retr.onWay.filter (fun y => p y.1 y.2)).map (·.2)
  let l := l.mergeSort (fun a b => decide (a.seq ≤ b.seq))
  let s := l.foldl State.performWrite s
  s.modRetr t (fun r => { r with strms := r.strms.map (fun x => { x with
    wout := x.wout.map (fun w => if w.dev.isNone && p x w then { w with arrived := true } else w) }) })

/-- A write reaches its target, after those before it of its stream and to its block; none passes an older read of its
block (01 R23, R340). None when one of them cannot yet. -/
def State.landWrite (s : State) (t : Nat) (x : Strm) (w : WrReq) : Option State :=
  let r := (s.tile t).retr
  let p (y : Strm) (v : WrReq) : Bool :=
    decide (v.seq ≤ w.seq) && ((y.kctx == x.kctx && y.serial == x.serial) || sameBlock v.addr w.addr)
  let l := r.onWay.filter (fun y => p y.1 y.2)
  if l.all (fun y => s.targetReady y.2.addr && !r.readAhead y.2.addr y.2.seq) then some (s.arriveWrites t p) else none

/-! Completion of requests (R326, R340, R360) -/

/-- The word of an element that two requests carry, once both halves are there. -/
def Work.joinFrag (w : Work) (r : RdReq) (bs : List Byte) : Option (List Byte) × Work :=
  match w.frag.find? (fun f => f.1 == r.first) with
  | some (_, other) =>
    (some (if r.part = 1 then bs ++ other else other ++ bs),
      { w with frag := w.frag.filter (fun f => f.1 != r.first) })
  | none => (none, { w with frag := w.frag ++ [(r.first, bs)] })

/-- The elements that returned bytes hold, converted, and their flags. -/
def Work.takeData (w : Work) (r : RdReq) (bs : List Byte) : Work × Flags :=
  if r.part = 0 then
    let es := (List.range r.n).map (fun i =>
      let p := r.first + i
      match w.srcAt p with
      | none => (p, none, ({} : Flags))
      | some a => let c := w.cvt (w.raw p (bs.drop (a - r.va))); (p, some c.word, c.fl))
    ({ w with buf := w.buf ++ es.map (fun e => (e.1, e.2.1)) }, es.foldl (fun f e => f.or e.2.2) {})
  else
    match w.joinFrag r bs with
    | (some all, w) =>
      let c := w.cvt (w.raw r.first all)
      ({ w with buf := w.buf ++ [(r.first, some c.word)] }, c.fl)
    | (none, w) => (w, {})

/-- A word of a burst has come (R344). -/
def Strm.putBurst (x : Strm) (b i : Nat) (bs : List Byte) : Strm :=
  { x with bursts := x.bursts.map (fun y =>
      if y.1 = b then (y.1, y.2.set i (.data (BitVec.ofNat 512 (ofBytesLE bs)))) else y) }

/-- A read request ends: with its bytes, or with an exception. The data of a burst that has been let go is
discarded. -/
def State.finishRead (s : State) (t : Nat) (x : Strm) (r : RdReq) (res : Except (Exc × Nat) (List Byte)) : State :=
  let k := x.kctx
  let s := s.modStrm t k x.serial (fun y => { y with reads := y.reads.erase r })
  if x.stopping then s.dropQuiet t k x.serial
  else
    let s := s.advance t k
    match r.blk, x.works.find? (fun w => w.id == r.work), res with
    | none, none, _ => s
    | _, _, .error (e, i) => s.failStrm t k x.serial e i
    | some b, _, .ok bs => s.modStrm t k x.serial (fun y => y.putBurst b r.first bs)
    | none, some w, .ok bs =>
      let (w, fl) := w.takeData r bs
      ((s.setFlags t fl).modStrm t k x.serial (fun y => y.putWork w)).flow t k x.serial w.id

/-- Outstanding reads of a queue on this module, in issue order. -/
def Retr.readsOf (r : Retr) (q : Nat) : List (Strm × RdReq) :=
  (r.strms.filter (fun x => x.qid == q)).flatMap (fun x => (x.reads.filter (fun y => y.dev.isNone)).map (fun y => (x, y)))

def execReadDataReturn (t q i : Nat) (s : State) : Host.Outcome State Fault Refusal :=
  match ((s.tile t).retr.readsOf q)[i]? with
  | some (x, r) =>
    if !s.enginesRun t then .next s
    else match r.got with
    | some bs => .next (s.finishRead t x r (.ok bs))
    | none =>
      if !s.targetReady r.addr then .next s
      else
        -- writes of the tile to the block that issued before it have reached it (01 R23)
        let s := s.arriveWrites t (fun _ w => decide (w.seq < r.seq) && sameBlock w.addr r.addr)
        let (res, s) := (s.touch r.addr).loadE r.addr r.bytes
        .next (s.finishRead t x r (match res with | .ok bs => .ok bs | .error a => .error (.memEcc, a)))
  | none => .next s

/-- A write request is acknowledged. -/
def State.finishWrite (s : State) (t : Nat) (x : Strm) (p : WrReq → Bool) : State :=
  let s := s.modStrm t x.kctx x.serial (fun y => { y with wout := y.wout.eraseP p })
  (s.advance t x.kctx).dropQuiet t x.kctx x.serial

/-- Outstanding writes of a queue on this module. -/
def Retr.writesOf (r : Retr) (q : Nat) : List (Strm × WrReq) :=
  (r.strms.filter (fun x => x.qid == q)).flatMap (fun x => (x.wout.filter (fun y => y.dev.isNone)).map (fun y => (x, y)))

def execWriteAck (t q i : Nat) (s : State) : Host.Outcome State Fault Refusal :=
  match ((s.tile t).retr.writesOf q)[i]? with
  | some (x, w) =>
    if w.arrived then .next (s.finishWrite t x (fun y => y == w))
    else match s.landWrite t x w with
    | some s => .next (s.finishWrite t x (fun y => y == { w with arrived := true }))
    | none => .next s
  | none => .next s

/-! Completion of streams (R299, R349, 08 R295) -/

/-- A stream completes. -/
def State.completeStrm (s : State) (t : Nat) (x : Strm) : State :=
  match s.entry t x.kctx x.serial with
  | some e => ((s.dropStream t x.kctx x.serial).complete t x.kctx x.serial).countRt t e
  | none => s.dropStream t x.kctx x.serial

/-- All of a stream is delivered and every write has completed at its target. -/
def Strm.allDone (x : Strm) : Bool :=
  !x.stopping && x.started && x.issued && x.works.isEmpty && x.quiet && x.wq.isEmpty && x.again.isEmpty

def execStreamComplete (t q : Nat) (s : State) : Host.Outcome State Fault Refusal :=
  match (s.tile t).retr.strms.find? (fun x =>
    x.qid == q && x.allDone && x.kind != .ldwHead && x.kind != .ldwMember) with
  | some x => if s.enginesRun t then .next (s.completeStrm t x) else .next s
  | none => .next s

def execLdwAcceptReport (t q : Nat) (s : State) : Host.Outcome State Fault Refusal :=
  match (s.tile t).retr.strms.find? (fun x =>
    x.qid == q && x.allDone && (x.kind == .ldwHead || x.kind == .ldwMember) && x.acceptPend) with
  | some x =>
    if !s.enginesRun t then .next s
    else if x.badHeader then .next (s.failStrm t x.kctx x.serial .format 0)
    else .next (s.completeStrm t x)
  | none => .next s

/-! Deadlines and quiescence (R357, R359) -/

/-- A real-time stream of a queue past its deadline whose miss is not counted. -/
def Entry.misses (now q : Nat) (e : Entry) : Bool :=
  e.isRt && e.qid == q && decide (e.x2.toNat ≤ now) && !e.bits.testBit 7

def execStreamDeadlineMiss (t q : Nat) (s : State) : Host.Outcome State Fault Refusal :=
  let h := s.herder t
  match (h.board ++ h.park).find? (Entry.misses s.now q) with
  | some e =>
    let mark (y : Entry) : Entry := if y.is e.kctx e.serial then { y with bits := y.bits ||| 0x80 } else y
    .next ((s.modHerder t (fun h => { h with board := h.board.map mark, park := h.park.map mark })).addRegF
      (tilePage t oRtvDlCnt) 63 32 1)
  | none => .next s

/-- The reads of the user streams are cancelled, to be issued again, and QUIESCED is set; what had returned has been
written (R357). -/
def Retr.quiesce (r : Retr) : Retr :=
  { r with
    quiesced := true
    strms := r.strms.map (fun x => if x.kctx || x.stopping then x
      else { x with again := x.reads.map (fun y => { y with got := none }) ++ x.again, reads := [] }) }

def execQuiesceComplete (t : Nat) (s : State) : Host.Outcome State Fault Refusal :=
  let c := s.ctx t true
  if s.enginesRun t && decide (c.st = .run) && decide (c.wait = .quiesce)
      && (s.tile t).retr.strms.all (fun x => x.kctx || x.stopping || x.wq.isEmpty) then
    .next ((s.modRetr t Retr.quiesce).nextPc t true)
  else .next s

/-! The sled chain at a MEMBER and a TAIL (R349 to R351) -/

/-- Writes bytes of a block into a tensor from an offset on. -/
def State.putBlockBytes (td : TD) (f : Fmt) : Nat → State → Nat → List Byte → State
  | 0, s, _, _ => s
  | n + 1, s, off, bs =>
    if bs.isEmpty then s
    else
      let l := td.rowLen f
      let r := off / l
      let o := off % l
      let m := min bs.length (l - o)
      State.putBlockBytes td f n (s.store ((td.rowAddr r).toNat + o) (bs.take m)) (off + m) (bs.drop m)

/-- Where a beat comes from. -/
def SledBeat.from (b : SledBeat) : Option Nat × Nat := (b.srcDev, b.src)

/-- The `ldw` that takes a beat: the oldest MEMBER or TAIL that waits for one from there. -/
def Retr.sledTaker (r : Retr) (b : SledBeat) : Option Strm :=
  r.strms.find? (fun x => (x.kind == .ldwMember || x.kind == .ldwTail) && !x.stopping && !x.quiesced
    && (if b.header then !x.header else x.header && x.from_ == some b.from && decide (x.sent < x.total)))

/-- A beat of an abandoned `ldw` is discarded. -/
def Retr.dropBeat (r : Retr) (b : SledBeat) : Option Retr :=
  let hit (d : SledDrop) : Bool :=
    (!d.far || b.srcDev.isSome) && (if b.header then d.from_.isNone else d.from_ == some b.from)
  match r.sledDrop.find? hit with
  | none => none
  | some d =>
    let d' : SledDrop := if b.header then { d with from_ := some b.from, left := b.count } else { d with left := d.left - b.bytes.length }
    some { r with sledDrop := (r.sledDrop.replace d d').filter (fun x => x.from_.isNone || x.left != 0) }

/-- The header reaches a stage. -/
def State.sledHeader (s : State) (t : Nat) (x : Strm) (e : Entry) (b : SledBeat) : State :=
  let k := x.kctx
  let bad := b.fmt != (TD.ofWord e.t2).fmtCode || b.count != x.total
  let s := s.modStrm t k x.serial (fun y =>
    { y with header := true, badHeader := bad, from_ := some b.from, total := b.count })
  if x.kind == .ldwMember then s.sendSled t e { b with last := false }
  else if bad then
    (s.modRetr t (fun r => { r with sledDrop := r.sledDrop ++ [{ from_ := some b.from, left := b.count }] })).failStrm t k x.serial .format 0
  else s

/-- A data beat reaches a stage: written, and sent on by a MEMBER. -/
def State.sledData (s : State) (t : Nat) (x : Strm) (e : Entry) (b : SledBeat) : State :=
  let k := x.kctx
  let td := TD.ofWord e.t2
  let s := if x.badHeader then s else State.putBlockBytes td (td.fmt.getD .P8) 64 s x.sent b.bytes
  let s := s.modStrm t k x.serial (fun y => { y with sent := y.sent + b.bytes.length })
  let s := if x.kind == .ldwMember then s.sendSled t e { b with last := decide (x.total ≤ x.sent + b.bytes.length) } else s
  s.settle t k x.serial

/-- The sender of a last beat on this module learns that it was accepted (08 R295); a sender on another module gets
WRA (12 R468). -/
def State.sledAccepted (s : State) (b : SledBeat) : State :=
  if b.srcDev.isSome then
    let x : Txn := { type := .wr, dst := s.link.en.devid, src := b.srcDev.getD 0, srcTile := b.src, part := b.part,
                     tag := b.tag, addr := tileBase b.dst + sledOff b.header }
    s.respondTo 0 x .ok []
  else if b.last && b.srcDev.isNone then s.modStrm b.src b.kctx b.serial (fun y => { y with acceptPend := true }) else s

/-- A tile takes a beat; none while no `ldw` of it does. -/
def State.acceptSled (s : State) (t : Nat) (b : SledBeat) : Option State :=
  let r := (s.tile t).retr
  match r.dropBeat b with
  | some r' => some ((s.modRetr t (fun _ => r')).sledAccepted b)
  | none =>
    match r.sledTaker b with
    | none => none
    | some x =>
      match s.entry t x.kctx x.serial with
      | none => none
      | some e => some ((if b.header then s.sledHeader t x e b else s.sledData t x e b).sledAccepted b)

/-- Discards the local beats of a list that are for abandoned `ldw`s of a tile, in order; their senders learn that
they were accepted. -/
def State.purgeSled (t : Nat) : List SledBeat → State → List SledBeat × State
  | [], s => ([], s)
  | b :: bs, s =>
    match (if b.dst == t && b.srcDev.isNone then (s.tile t).retr.dropBeat b else none) with
    | some r => State.purgeSled t bs ((s.modRetr t (fun _ => r)).sledAccepted b)
    | none =>
      let (l, s) := State.purgeSled t bs s
      (b :: l, s)

/-- A drain is complete: see `State.settleDrops` (11 R429 step 6). -/
def State.settleSledDrops (s : State) (t : Nat) : State :=
  let (l, s) := State.purgeSled t (s.tile t).retr.sled s
  let (m, s) := State.purgeSled t s.sleds s
  let keep (d : SledDrop) : Bool := match d.from_ with | some (none, _) => false | _ => true
  let far (d : SledDrop) : SledDrop := { d with far := true }
  { s with sleds := m }.modRetr t (fun r => { r with sled := l, sledDrop := (r.sledDrop.filter keep).map far })

def execSledBeatArrive (t : Nat) (s : State) : Host.Outcome State Fault Refusal :=
  if !s.enginesRun t then .next s
  else match (s.tile t).retr.sled with
  | b :: rest =>
    match s.acceptSled t b with
    | some s => .next (s.modRetr t (fun r => { r with sled := rest }))
    | none =>
      -- the router takes in a further beat while it has room
      match s.sleds.find? (fun b => b.dst == t) with
      | some b' =>
        if (s.tile t).retr.sled.length < 32 then
          .next ({ s with sleds := s.sleds.erase b' }.modRetr t (fun r => { r with sled := r.sled ++ [b'] }))
        else .next s
      | none => .next s
  | [] =>
    match s.sleds.find? (fun b => b.dst == t) with
    | some b =>
      match s.acceptSled t b with
      | some s' => .next { s' with sleds := s'.sleds.erase b }
      | none => .next ({ s with sleds := s.sleds.erase b }.modRetr t (fun r => { r with sled := [b] }))
    | none => .next s

end Sys2Proof.Machine
end

