-- ==== Sys2Proof/Machine/SfuRows.lean ====
section
/-! DEFINITION. The SFU's instructions (06 R188 to R217; 08 R303 to R306, R310 to R313): `sfu`, `topk` and `smp`
from their handover to their completion. -/
namespace Sys2Proof.Machine

def Entry.sto (e : Entry) : TO := TO.ofWord e.t3
def Entry.opc (e : Entry) : Nat := fld e.word 7 0

/-! Handover (06 R209, R210; 08 R285, R286, R313) -/

def State.addSfu (s : State) (t : Nat) (r : SfuRun) : State := s.modTile t (fun x => { x with sfu := x.sfu ++ [r] })
def State.dropSfu (s : State) (t : Nat) (k : Bool) (serial : Nat) : State :=
  s.modTile t (fun x => { x with sfu := x.sfu.filter (fun d => !(d.kctx == k && d.serial == serial)) })

/-- What an SPB rejects, with the byte offset of the field (06 R209): of several the one of the lowest offset (DESIGN
CHOICE, log entry 94). -/
def spbReject (v : Nat) : Option Nat :=
  if nfld v 31 2 ≠ 0 then some 0
  else if badP32 false (nfld v 63 32) then some 4
  else if (positVal 32 (nfld v 95 64)).isNone then some 8
  else if nfld v 127 96 ≠ 0 then some 0xC
  else none

/-- `smp` reads its SPB and SSR and checks them. A list of more than 64 entries has INFO 0, and the reserved bits of the
SSR's word 0x18 are ignored (DESIGN CHOICE, log entry 94). -/
def State.handSmp (s : State) (t : Nat) (e : Entry) : State :=
  let k := e.kctx
  let n := e.serial
  match s.loadE e.a1.toNat 16 with
  | (.error x, s) => s.faultEntry t k n .memEcc x
  | (.ok bs, s) =>
    let v := ofBytesLE bs
    let d := TD.ofWord e.t1
    match spbReject v with
    | some i => s.faultEntry t k n .spb i
    | none =>
      if 2 ≤ nfld v 1 0 ∧ 64 < d.cnt.getD 0 1 then s.faultEntry t k n .spb 0
      else match s.loadE e.a2.toNat 32 with
        | (.error x, s) => s.faultEntry t k n .memEcc x
        | (.ok bs, s) =>
          let r := ofBytesLE bs
          if nfld r 127 64 ≠ complN 64 (nfld r 63 0) then
            (s.log .compMem .none (s.tilePart t) t e.a2.toNat).faultEntry t k n .complement 0
          else s.addSfu t { kctx := k, serial := n, spb := v, ssr := r }

/-- An `sfu`, `topk` or `smp` is handed to the SFU; a chain `topk` becomes a stage. -/
def State.handSfu (s : State) (t : Nat) (e : Entry) : State :=
  let s := s.begin_ t e.kctx e.serial
  if e.opc = 0x87 then s.handSmp t e
  else
    let g := s.stageOf e
    let chain := e.opc == 0x86 && g.role != 0
    match s.routeOk t (if chain && g.role != 3 then g.ndev else none) with
    | (false, s) => s.faultEntry t e.kctx e.serial .noRoute (g.ndev.getD 0)
    | (true, s) =>
      let s := if chain then s.addStage t g else s
      s.addSfu t { kctx := e.kctx, serial := e.serial }

def execSfuHandover (t : Nat) (s : State) : Host.Outcome State Fault Refusal :=
  match (s.herder t).nextOf (fun e => e.cls == .sfu) with
  | some e =>
    let busy := (s.herder t).begunOf .sfu
    if s.enginesRun t && !s.paused t e.kctx && !busy then .next (s.handSfu t e) else .next s
  | none => .next s

/-! Rows of `sfu` -/

/-- What a row delivers: its output words or bytes, its flags, and what its status says. -/
structure RowOut where
  /-- Element outputs in the output format; empty for the other forms. -/
  words : List Nat := []
  /-- The bytes of a value, an entry or a record. -/
  bytes : List Byte := []
  fl : Flags := {}
  n : Nat := 0
  nar : Bool := false
  any : Bool := false
  all : Bool := false

def orFlags (l : List Rounded) : Flags := l.foldl (fun a r => a.or r.fl) {}

/-- The STATS record of a row (06 R200, R201, R204). -/
def statsOut (f : Fmt) (o : TO) (st : RowStats) : List Byte × Flags :=
  let v (op : Nat) : Rounded := rowValue op f .P32 st
  let vs := [v 1, v 3, v 4, v 5, v 6]
  let idx := match st.best with | some e => (o.i0 + e.i) % 2 ^ 32 | none => 0xFFFFFFFF
  (vs.flatMap (fun r => toBytesLE 4 r.word) ++ toBytesLE 4 idx ++ toBytesLE 4 st.n ++ toBytesLE 4 0, orFlags vs)

/-- The ARGMAX entry of a row (06 R200, R204). -/
def argmaxOut (f : Fmt) (o : TO) (st : RowStats) : List Byte :=
  let e : TkEntry := match st.best with
    | some e => ⟨e.w, (o.i0 + e.i) % 2 ^ 32⟩
    | none => ⟨0, 0xFFFFFFFF⟩
  toBytesLE 8 (tkWord f e).toNat

/-- One row of a row operation other than ELEMENT. -/
def rowOut (op : Nat) (f dst : Fmt) (o : TO) (gamma beta : List Nat) (es : List Elem) : RowOut :=
  let st := rowStats f o.i0 es
  let all := decide (st.n = 0)
  let base : RowOut := { n := st.n, any := st.anyMasked, all := all, nar := !all && st.nar && op != 1 && op != 2 }
  let full (l : List Rounded) (nar : Bool) : RowOut :=
    { base with words := l.map (·.word), fl := orFlags l, nar := base.nar || nar }
  if op = 2 then { base with bytes := argmaxOut f o st }
  else if op = 7 then let (bs, fl) := statsOut f o st; { base with bytes := bs, fl := fl }
  else if op = 8 then full (softmaxRow f dst ((positVal 32 o.scale).getD .zero) es st) false
  else if op = 9 ∨ op = 0xA then
    let (l, z) := normRow (op == 0xA) f dst ((positVal 32 o.eps).getD .zero) gamma beta es st
    full l z
  else if op = 0xB then full (maskRow f dst es st) false
  else
    let r := rowValue op f dst st
    { base with bytes := toBytesLE (dst.width / 8) r.word, fl := r.fl }

/-- One row of ELEMENT: masks are ignored (06 R199). -/
def elementOut (fn : Nat) (f dst : Fmt) (ws : List Nat) : RowOut :=
  let l := ws.map (sfuElement fn f dst)
  { words := l.map (·.word), fl := orFlags l, n := ws.length }

/-- Reads a P16 vector of the operand register. -/
def State.loadVec (s : State) (t : Nat) (use : Bool) (off l : Nat) : Except Nat (List Nat) × State :=
  if !use then (.ok [], s)
  else
    let (x, s) := s.loadE (tileBase t + off) (2 * l)
    (x.map (fun bs => unpackRow .P16 bs l), s)

/-- Computes row r of an `sfu`. -/
def State.sfuRow (s : State) (t : Nat) (e : Entry) (r : Nat) : Except Nat RowOut × State :=
  let op := sfuOp e.word
  let d := TD.ofWord e.t1
  let o := e.sto
  let f := d.fmt.getD .P8
  let dst := (TD.ofWord e.t2).fmt.getD .P8
  if op = 0 then
    let (x, s) := s.loadRow f d r
    (x.map (elementOut (fld e.word 38 33) f dst), s)
  else
    match s.loadElems t f d o (fld e.word 40 39) r with
    | (.error x, s) => (.error x, s)
    | (.ok es, s) =>
      match s.loadVec t (op == 9 || op == 0xA) o.gamma es.length with
      | (.error x, s) => (.error x, s)
      | (.ok g, s) =>
        let (b, s) := s.loadVec t (op == 0xA) o.beta es.length
        (b.map (fun b => rowOut op f dst o g b es), s)

/-- Writes row r of an `sfu`, its status word and its counts. -/
def State.putRow (s : State) (t : Nat) (e : Entry) (r : Nat) (x : RowOut) : State :=
  let op := sfuOp e.word
  let td := TD.ofWord e.t2
  let dst := td.fmt.getD .P8
  let o := e.sto
  let s :=
    if op = 0 ∨ 8 ≤ op then
      (List.range (td.n 1)).foldl (fun s i =>
        s.store (td.rowAddr (r * td.n 1 + i)).toNat (packRow dst ((x.words.drop (i * td.n 0)).take (td.n 0)))) s
    else s.store (td.base + r * x.bytes.length) x.bytes
  let s := if o.statusEn then
      s.store (tileBase t + o.status + 4 * r) (toBytesLE 4 (rowStatusWord x.n x.nar x.any x.all))
    else s
  let s := (s.setFlags t x.fl).addRegF (tilePage t oSfuRowCnt) 31 0 1
  let s := if x.all then (s.addRegF (tilePage t oSfuRowCnt) 63 32 1).setRegF (tilePage t oSfuStatus) 0 0 1 else s
  let s := if x.nar then s.setRegF (tilePage t oSfuStatus) 1 1 1 else s
  (s.modEntry t e.kctx e.serial (fun e =>
    { e with bits := e.bits ||| (if x.all then 0x20 else 0) ||| (if x.nar then 0x40 else 0) })).advance t e.kctx

/-- The rows of an `sfu` from row r on; a row that does not read ends it. -/
def State.sfuRows (s : State) (t : Nat) (e : Entry) : Nat → Nat → Option Nat × State
  | 0, _ => (none, s)
  | n + 1, r =>
    match s.sfuRow t e r with
    | (.error x, s) => (some x, s)
    | (.ok o, s) => (s.putRow t e r o).sfuRows t e n (r + 1)

/-! `smp` (06 R211 to R216) -/

/-- The format in which `smp` compares logits or list values of a format, and the word of one in it: its own where R146
orders it, else P32 by R55 (08 R321 lists no FORMAT for `smp`; DESIGN CHOICE, log entry 94). -/
def logitFmt (f : Fmt) : Fmt := if tkFmts.contains f then f else .P32
def logitWord (f : Fmt) (w : Nat) : Nat := if tkFmts.contains f then w else (convert f .P32 w).word

/-- The draw of an `smp`. -/
def State.smpDraw (s : State) (t : Nat) (e : Entry) (run : SfuRun) : Except Nat Draw × State :=
  let d := TD.ofWord e.t1
  let o := e.sto
  let f := d.fmt.getD .P8
  let mode := nfld run.spb 1 0
  let rt := (positVal 32 (nfld run.spb 63 32)).getD .zero
  let tp := (positVal 32 (nfld run.spb 95 64)).getD .zero
  let seed := nfld run.ssr 63 0
  let step := nfld run.ssr 191 128
  if 2 ≤ mode then
    let n := d.cnt.getD 0 1
    let (x, s) := s.loadE d.base (8 * n)
    (x.map (fun bs => drawList (logitFmt f) (mode == 3) rt tp seed step ((listWords n bs).map (fun w =>
      let e := tkOfWord f w
      { e with w := logitWord f e.w }))), s)
  else
    let (x, s) := s.loadElems t f d o (fld e.word 38 37) 0
    (x.map (fun es =>
      let es := es.map (fun e => { e with w := logitWord f e.w })
      if mode = 0 then drawGreedy (logitFmt f) o.i0 es else drawGumbel (logitFmt f) o.i0 rt seed step es), s)

/-- The result entry, the step and the counts of an `smp`. -/
def State.putDraw (s : State) (t : Nat) (e : Entry) (run : SfuRun) (d : Draw) : State :=
  let w := match d with | some (v, i) => i % 2 ^ 32 + (v % 2 ^ 32) <<< 32 | none => 0xFFFFFFFF
  let s := s.store (TD.ofWord e.t2).base (toBytesLE 8 w)
  let s := if run.ssr.testBit 192 then s.store (e.a2.toNat + 16) (toBytesLE 8 (nfld run.ssr 191 128 + 1)) else s
  let s := s.addRegF (tilePage t oSfuSmpCnt) 31 0 1
  if d.isNone then
    ((s.addRegF (tilePage t oSfuSmpCnt) 63 32 1).setRegF (tilePage t oSfuStatus) 2 2 1).modEntry t e.kctx e.serial
      (fun e => { e with bits := e.bits ||| 0x10 })
  else s

/-! Completion -/

/-- The instruction leaves the SFU and completes, or faults. -/
def State.endSfu (s : State) (t : Nat) (e : Entry) (f : Option (Exc × Nat)) : State :=
  let s := s.modTile t (fun x => { x with chain := { x.chain with
    stages := x.chain.stages.filter (fun g => !g.is e.kctx e.serial) } })
  let s := (s.dropSfu t e.kctx e.serial).advance t e.kctx
  match f with
  | some (x, i) => s.faultEntry t e.kctx e.serial x i
  | none => s.complete t e.kctx e.serial

/-- The local selection of a `topk` outside a chain, or at its HEAD, which also sends its list (04 R149, R696). -/
def State.topkHead (s : State) (t : Nat) (e : Entry) : State :=
  let g := s.stageOf e
  match s.topkOwn t e with
  | (.ok l, s) =>
    let s := s.store g.lo (listBytes l)
    let s := if g.role = 1 then s.sendList t g (some l) else s
    if g.role = 1 then s.modStage t e.kctx e.serial (fun g => { g with merged := true }) else s.endSfu t e none
  | (.error x, s) =>
    if g.role = 1 then
      (s.sendList t g none).modStage t e.kctx e.serial (fun g => { (g.fail .memEcc x) with merged := true })
    else s.endSfu t e (some (.memEcc, x))

/-- A `topk`: outside a chain and at a HEAD it selects; a chain stage completes once it has merged or sent its list
and every beat has left. -/
def State.topkStep (s : State) (t : Nat) (e : Entry) : State :=
  let g0 := s.stageOf e
  let s := match s.findStage t e.kctx e.serial with
    | some g => if g.merged || g0.role != 1 then s else s.topkHead t e
    | none => if g0.role = 0 then s.topkHead t e else s
  match s.findStage t e.kctx e.serial with
  | some g => if g.merged && g.outq.isEmpty then s.endSfu t e g.bad else s
  | none => s

/-- The instruction in the SFU runs to its completion. -/
def State.runSfu (s : State) (t : Nat) (e : Entry) (run : SfuRun) : State :=
  if e.opc = 0x84 then
    let (x, s) := s.sfuRows t e (sfuR (TD.ofWord e.t1)) 0
    s.endSfu t e (x.map (fun i => (.memEcc, i)))
  else if e.opc = 0x86 then s.topkStep t e
  else match s.smpDraw t e run with
    | (.ok d, s) => (s.putDraw t e run d).endSfu t e none
    | (.error x, s) => s.endSfu t e (some (.memEcc, x))

def execSfuComplete (t : Nat) (s : State) : Host.Outcome State Fault Refusal :=
  match (s.tile t).sfu.find? (fun r => !s.paused t r.kctx) with
  | some run =>
    match s.entry t run.kctx run.serial with
    | some e => if s.enginesRun t then .next (s.runSfu t e run) else .next s
    | none => .next s
  | none => .next s

end Sys2Proof.Machine
end

