-- ==== Sys2Proof/Machine/Arm.lean ====
section
/-! DEFINITION. Arming of a chain stage: what the older tensor instructions of its context target (04 R141). -/
namespace Sys2Proof.Machine

/-- Rows of the quire store as addresses of the module. -/
def quireAbs (t : Nat) (rows : List (Int × Int)) : List (Int × Int) :=
  rows.map (fun r => (r.1 + (tileBase t + quireOff : Nat), r.2 + (tileBase t + quireOff : Nat)))

/-- The pass of an `mma`. -/
def Pack.passOf (p : Pack) (k : Bool) (serial : Nat) : Option Pass :=
  (p.held ++ p.parked ++ p.arrs.flatMap (fun a => a.2.passes)).find? (fun x => x.kctx == k && x.serial == serial)

/-- The bytes of this module that a descriptor writes. -/
def State.descTargets (s : State) (d : Desc) : List (Int × Int) :=
  let w := s.descWork d 0 0
  if d.kind = 1 ∧ w.rdst.isNone then [w.dstSpan] else []

/-- What the descriptors of a list from an address on write, as they stand in memory, to the end of the list. -/
def State.listTargets (s : State) : Nat → Nat → List (Int × Int)
  | 0, _ => []
  | n + 1, a =>
    let d : Desc := BitVec.ofNat 512 (ofBytesLE (s.rawRead a 64))
    if d.kind = 0 ∨ 6 < d.kind then []
    else if d.kind = 5 then s.listTargets n d.src
    else s.descTargets d ++ (if d.last then [] else s.listTargets n (a + 64))

/-- Descriptors of a list that arming looks at: the model's bound on lists that link back to themselves. -/
def listBound : Nat := 4096

/-- Byte ranges of memory of this module that an entry may write. -/
def State.entryTargets (s : State) (t : Nat) (e : Entry) : List (Int × Int) :=
  let rows (d : TD) : List (Int × Int) := if s.isRemote d then [] else quireAbs t (tensorRows t d)
  match fld e.word 7 0 with
  | 0x80 =>
    match (s.tile t).pack.passOf e.kctx e.serial with
    | some p => quireAbs t (p.rows t)
    | none => quireAbs t (mmaRows t e.word e.t1 e.t2 (s.gang t))
  | 0x82 =>
    let x := (s.stream t e.kctx e.serial).getD (s.newStrm t e)
    let open_ := (x.works.filter (fun w => w.kind == .copy && w.rdst.isNone)).map Work.dstSpan
    if x.kind == .desc && !x.listEnd then open_ ++ s.listTargets listBound x.next else open_
  | 0x85 | 0x86 => let g := s.stageOf e; [((g.lo : Int), (g.hi : Int))]
  | 0x87 => let d := TD.ofWord e.t2; [((d.base : Int), (d.base + 8 : Nat))]
  | _ => rows (TD.ofWord e.t2)

/-- Every older tensor instruction of the context that targets a stage's elements has completed. -/
def State.stageFree (s : State) (t : Nat) (g : Stage) : Bool :=
  ((s.herder t).older g.kctx g.serial).all (fun e => !rowsMeet (s.entryTargets t e) [((g.lo : Int), (g.hi : Int))])

/-- Arms a stage; that of a `topk` selects its own list first and writes it (06 R208, 08 R311). -/
def State.armStage (s : State) (t : Nat) (g : Stage) : State :=
  let s := s.modStage t g.kctx g.serial (fun g => { g with armed := true })
  if !g.list then s
  else match s.entry t g.kctx g.serial with
    | none => s
    | some e =>
      match s.topkOwn t e with
      | (.ok l, s) => (s.modStage t g.kctx g.serial (fun g => { g with own := l })).store g.lo (listBytes l)
      | (.error x, s) => s.modStage t g.kctx g.serial (fun g => g.fail .memEcc x)

def execChainStageArm (t : Nat) (s : State) : Host.Outcome State Fault Refusal :=
  match (s.tile t).chain.stages.find? (fun g => !g.armed && g.role != 1 && !s.paused t g.kctx && s.stageFree t g) with
  | some g => if s.enginesRun t then .next (s.armStage t g) else .next s
  | none => .next s

end Sys2Proof.Machine
end

