-- ==== Sys2Proof/Machine/Pins.lean ====
section
/-! DEFINITION. The contacts of the module's connectors (18 R672 to R676, R688, R689), and the pin that the state
drives (18 R676). -/
namespace Sys2Proof.Machine

/-- The connectors (R672). -/
inductive Connector where
  | hs1 | hs2 | pwr | mgt
  deriving DecidableEq, Repr

/-- What a high-speed pair carries (R675). -/
inductive PairUse where
  | hiric (link lane : Nat)
  | pcie (lane : Nat)
  | unconnected
  deriving DecidableEq, Repr

/-- What a contact carries. -/
inductive Contact where
  | ground
  | pair (use : PairUse) (receive negative : Bool)
  | perstN | clkreqN | prsntN | faultN
  | v54 | rtn | chassis
  /-- The management chain: the upstream or the downstream side, into or out of the module. -/
  | chain (downstream out negative : Bool)
  deriving DecidableEq, Repr

/-- The use of pair index g of a high-speed connector (R675). -/
def pairUse (hs2 : Bool) (g : Nat) : PairUse :=
  if g < 144 then .hiric ((if hs2 then 18 else 0) + g / 8) (g % 8)
  else if hs2 then .unconnected else .pcie (g - 144)

/-- Column L (R676). -/
def sideband (hs2 : Bool) (row : Nat) : Contact :=
  if row = 5 then .prsntN
  else if hs2 then .ground
  else if row = 1 then .perstN else if row = 3 then .clkreqN else if row = 7 then .faultN else .ground

/-- The contact of a high-speed connector in a column, numbered from 0 for A to 10 for L without I, and a row from 1
(R674, R675). -/
def hsContact (hs2 : Bool) (col row : Nat) : Contact :=
  if col = 10 then sideband hs2 row
  else
    let g := 32 * (col / 2) + (row - 1) / 3
    if row % 3 = 1 then .ground else .pair (pairUse hs2 g) (decide (col % 2 = 1)) (decide (row % 3 = 0))

/-- The contacts of PWR: rows A, B and C of six (R688). -/
def pwrContact (row : Nat) : Contact := if row = 0 then .v54 else if row = 1 then .rtn else .chassis

/-- The contacts of MGT: rows A and B, contacts from 1 to 6 (R689). -/
def mgtContact (row i : Nat) : Contact :=
  if i % 3 = 0 then .ground
  else
    let out := if row = 0 then decide (3 < i) else decide (i < 3)
    .chain (decide (row = 1)) out (decide (i % 3 = 2))

/-- The contact at a row and column of a connector; none beyond its array. -/
def contact : Connector → Nat → Nat → Option Contact
  | .hs1, col, row => if col ≤ 10 ∧ 1 ≤ row ∧ row ≤ 96 then some (hsContact false col row) else none
  | .hs2, col, row => if col ≤ 10 ∧ 1 ≤ row ∧ row ≤ 96 then some (hsContact true col row) else none
  | .pwr, row, i => if row ≤ 2 ∧ 1 ≤ i ∧ i ≤ 6 then some (pwrContact row) else none
  | .mgt, row, i => if row ≤ 1 ∧ 1 ≤ i ∧ i ≤ 6 then some (mgtContact row i) else none

/-- FAULT_N is low from the detection of a Crimson error until the module reset begins (R676). -/
def State.faultN (s : State) : Bool := !s.sec.crimson

end Sys2Proof.Machine
end

