-- ==== Sys2Proof/Machine/Reset.lean ====
section
/-! DEFINITION. Resetting the engines and the tiles of a partition: poison writes for discarded writes, and what a
partition reset clears (10 R396; 11 R430; 15 R569). -/
namespace Sys2Proof.Machine

/-- A poison write to a block of this module, named by the address its stream used (10 R396). -/
def State.poisonBlock (s : State) (p t va : Nat) : State :=
  match s.translate t p va true with
  | (.ok a, s) => s.poisonRange (a / 64 * 64) 64
  | (_, s) => s

/-- Poison writes in place of discarded writes: at once on this module, queued for another one. -/
def State.poisonWrites (s : State) (p t : Nat) (l : List (Nat × Option Nat)) : State :=
  l.foldl (fun (s : State) x =>
    match x.2 with
    | none => s.poisonBlock p t x.1
    | some d => s.modPart p (fun y => { y with poison := y.poison ++ [(t, d, x.1)] })) s

/-- The poison write of a block of another module: a WR whose STATUS is 5. -/
def poisonTxn (p d a : Nat) : Txn :=
  { type := .wr, dst := d, part := p, addr := a / 64 * 64, len := 64, status := TStat.poison.code
    data := List.replicate 64 0 }

/-- Sends the queued poison writes for which a tag is free; one without a route is not sent. -/
def State.pumpPoison (s : State) (p : Nat) : State :=
  let l := (s.part p).poison
  let s := s.modPart p (fun y => { y with poison := [] })
  l.foldl (fun (s : State) x =>
    if (s.freeTag x.1).isNone then s.modPart p (fun y => { y with poison := y.poison ++ [x] })
    else (s.sendReq x.1 (poisonTxn p x.2.1 x.2.2) (.poison p)).2) s

/-- Every poison write of a partition has been acknowledged. -/
def State.poisonDone (s : State) (p : Nat) : Bool :=
  (s.part p).poison.isEmpty && s.link.outst.all (fun o => decide (o.what ≠ .poison p))

/-- The blocks of a tile's writes that are discarded: those that have not left it (10 R396). -/
def Tile.lostWrites (x : Tile) : List (Nat × Option Nat) :=
  x.retr.unsent ++ x.retr.strms.flatMap (fun y => y.wq.map WrReq.place)
    ++ x.drn.flatMap (fun d => d.outq.map (fun y => (y.1, some d.dev)))

/-- The beats that wait for a tile go: those for its stages are discarded there, and what is still to come for them
later; every beat of another module is answered (11 R429, 12 R467). -/
def State.dropBeats (s : State) (t : Nat) : State :=
  let s := s.modTile t (fun x => { x with
    chain := { stages := [], drops := x.chain.drops ++ x.chain.stages.flatMap Stage.drops }
    retr := { x.retr with strms := [], sledDrop := x.retr.sledDrop ++ x.retr.strms.flatMap Strm.sledLeft } })
  let s := (s.settleDrops t).settleSledDrops t
  let held := (s.tile t).held
  let sleds := s.sleds.filter (fun b => b.dst == t && b.srcDev.isNone)
  let s := { s with beats := s.beats.filter (fun b => b.dst != t || b.srcDev.isSome)
                    sleds := s.sleds.filter (fun b => b.dst != t || b.srcDev.isSome) }
  let s := s.modTile t (fun x => { x with held := [] })
  sleds.foldl State.sledAccepted (held.foldl State.beatAnswered s)

/-- The engines of a tile are reset: scoreboard, streams, passes, chain stages, `drn` and SFU (11 R430). Writes that have
left the tile reach their targets (10 R396). -/
def State.engineReset (s : State) (p t : Nat) : State :=
  let lost := (s.tile t).lostWrites
  let s := (s.arriveWrites t (fun _ _ => true)).dropBeats t
  let s := (s.tile t).drn.foldl (fun s d => s.setFlags t d.flags) s
  let s := s.modTile t (fun x => { x with
    herder := { x.herder with board := [], park := [], out := [] }
    retr := { x.retr with unsent := [] }
    pack := { x.pack with arrs := [], feed := [], comp := [], parked := [], held := [] }
    drn := [], sfu := [] })
  (s.poisonWrites p t lost).pumpPoison p

/-- A context after a partition reset: idle, its registers zero. The model's own serial goes on. -/
def Ctx.cleared (c : Ctx) (lvl : Level) : Ctx := { level := lvl, serial := c.serial }

/-- What a partition reset clears in a tile (15 R569 step 3). -/
def State.resetTile (s : State) (p t : Nat) : State :=
  let s := s.engineReset p t
  let s := (s.tile t).retr.sled.foldl State.sledAccepted s
  let s := s.modTile t (fun x => { x with
    herder := { user := x.herder.user.cleared .u, kern := x.herder.kern.cleared .k }
    retr := { x.retr with quiesced := false, cache := [], sled := [] }
    pack := { x.pack with icr := [], pendFull := [], sclPend := x.pack.sclPend } })
  let s := s.setReg (tilePage t oNumFlags) 0
  let s := s.setReg (tilePage t oRtvFault) 0
  s.setReg (tilePage t oRtvFaultVa) 0

/-- A partition's drain and reset begin without a log entry: PART_RESET and FLR (11 R414, 16 R610). -/
def State.quietReset (s : State) (p : Nat) (flr : Bool) : State :=
  if (s.part p).seqOn then
    if flr then s.modPart p (fun x => { x with seqFlr := true }) else s
  else
    (s.modPart p (fun x => { x with seqOn := true, seqRust := false, seqFlr := flr, rustAt := s.now })).drainPart p

end Sys2Proof.Machine
end

