-- ==== Sys2Proof/Machine/FrontEnd.lean ====
section
/-! DEFINITION. The command front end (11_command_front_end.md): doorbells, fetch, validation, dispatch, completion
records, deadlines, stall budgets and drains. -/
namespace Sys2Proof.Machine

/-! Rings (R402 to R405) -/

def two32 : Nat := 0x100000000
def Ring.setTail (r : Ring) (v : Nat) : Ring := { r with tail := v, tailC := complN 32 v }
def Ring.setFetched (r : Ring) (v : Nat) : Ring := { r with fetched := v, fetchedC := complN 32 v }
def Ring.setDone (r : Ring) (v : Nat) : Ring := { r with done := v, doneC := complN 32 v }
/-- The stored complements of the counts agree (R404). -/
def Ring.countsOk (r : Ring) : Bool :=
  r.tailC == complN 32 r.tail && r.fetchedC == complN 32 r.fetched && r.doneC == complN 32 r.done

/-- The difference of two counts modulo 2^32 (R404). -/
def cntSub (a b : Nat) : Nat := (a + two32 - b) % two32

def State.ringEn (s : State) (g : Nat) : Bool := bit (s.ringCfg g) 0
def State.ringSys (s : State) (g : Nat) : Bool := bit (s.ringCfg g) 3
def State.ringRt (s : State) (g : Nat) : Bool := bit (s.ringCfg g) 4
/-- The slice in ns (R436). -/
def State.ringSlice (s : State) (g : Nat) : Nat :=
  let v := fld (s.ringCfg g) 25 16
  1000 * (if v = 0 then 20 else v)
def State.ringSize (s : State) (g : Nat) : Nat := 2 ^ s.regF (ringReg g oRingBase) 3 0
def State.ringBase (s : State) (g : Nat) : Nat := s.regF (ringReg g oRingBase) 47 12 <<< 12
def State.ringCbase (s : State) (g : Nat) : Nat := s.regF (ringReg g oRingCbase) 47 12 <<< 12

/-- The front end works: from the phase LINKS on, and not while a Crimson error, Jet or a failed start holds the
module (15 R571, 17 R647). -/
def State.feRuns (s : State) : Bool :=
  !s.fe.halted && !s.sec.crimson && !s.power.jet && !s.power.railsOff && decide (3 ≤ s.mgt.phase.code ∧ s.mgt.phase ≠ .sit)

/-- A use of a ring's complement-stored values (15 R588): false, with a Rust error for its partition, when a pair
fails; the ring then stays stopped. -/
def State.useRing (s : State) (g : Nat) : Bool × State :=
  if (s.ring g).broken then (false, s)
  else
    let a := ringReg g oRingBase
    let (i, s) := s.injComp a
    let (j, s) := s.injComp (ringReg g oRingDone)
    let base := i || !s.twinOk a
    if base || j || !(s.ring g).countsOk then
      let s := s.modRing g (fun r => { r with broken := true })
      (false, s.withInj (i || j) (fun s =>
        s.rustError .compPart (g / 64) 0x7FF (if base then a else ringReg g oRingDone)))
    else (true, s)

/-- Fires the fault vector of a ring (R426). -/
def State.ringVector (s : State) (g : Nat) : State := s.msix (128 * (g / 64) + g % 64)

/-- A ring error (R405, R439). -/
def State.ringError (s : State) (g code : Nat) : State :=
  let a := ringReg g oRingStat
  ((s.setRegF a 0 0 1).setRegF a 23 16 code).ringVector g

/-- A doorbell (R405): 64 bits written to FE_RING_DB by a writer that may ring it. -/
def State.ringBell (s : State) (part : Option Nat) (g : Nat) (v : Word) : State :=
  if !s.ringEn g then (s.ringError g 2).config part (ringReg g oRingDb)
  else match s.useRing g with
    | (false, s) => s
    | (true, s) =>
      let r := s.ring g
      let tail := fld v 31 0
      if fld v 63 32 ≠ complN 32 tail then s.compWrite part (ringReg g oRingDb)
      else if s.ringSize g < cntSub tail r.done ∨ cntSub tail r.done < cntSub tail r.tail then s.ringError g 1
      else if tail = r.tail then s
      else s.setRing g { r.setTail tail with bells := r.bells ++ [(tail, s.now)] }

/-! Fetching (R407, R408) -/

/-- The ring's next slot is covered by a doorbell and there is room for its packet. -/
def State.fetchable (s : State) (g : Nat) : Bool :=
  let r := s.ring g
  s.ringEn g && !r.broken && decide (r.pkts.length < 64)
    && decide (r.pkts.length < cntSub r.tail r.done)

def State.fetchables (s : State) : List Nat := (s.fe.rings.map (·.1)).filter s.fetchable

/-- A packet of ring g may be fetched now: kernel rings come first, user rings in turn. -/
def State.fetchTurn (s : State) (g : Nat) : Bool :=
  let l := s.fetchables
  if !l.contains g then false
  else if s.ringKernel g then true
  else if l.any s.ringKernel then false
  else
    let rank (x : Nat) : Nat := (x + 1024 - s.fe.lastUser - 1) % 1024
    l.all (fun x => decide (rank g ≤ rank x))

/-- The time of the doorbell that covered packet n: the first whose TAIL lies past it (R434). -/
def Ring.bellOf (r : Ring) (n : Nat) : Nat :=
  ((r.bells.find? (fun b => decide (cntSub n r.done < cntSub b.1 r.done))).map (·.2)).getD 0

/-- A packet has been read: doorbells that cover nothing more are forgotten. -/
def Ring.takeIn (r : Ring) (n : Nat) (words : List Word) : Ring :=
  { r with
    pkts := r.pkts ++ [{ count := n, words := words, dbAt := r.bellOf n }]
    bells := r.bells.filter (fun b => decide (cntSub n r.done + 1 < cntSub b.1 r.done)) }

def execPacketFetch (g : Nat) (s : State) : Host.Outcome State Fault Refusal :=
  if !s.feRuns || !s.fetchTurn g then .next s
  else match s.useRing g with
    | (false, s) => .next s
    | (true, s) =>
      let r := s.ring g
      let n := (r.done + r.pkts.length) % two32
      let a := s.ringBase g + 64 * (n % s.ringSize g)
      let s := if s.ringKernel g then s else { s with fe := { s.fe with lastUser := g } }
      if !s.reach (g / 64) a 64 then .next s
      else match (s.touch a).load a 64 true with
        | (some bs, s) =>
          let ws := (List.range 8).map (fun i => BitVec.ofNat 64 (ofBytesLE ((bs.drop (8 * i)).take 8)))
          .next (s.modRing g (fun r => r.takeIn n ws))
        | (none, s) => .next s

/-! The packet's fields (R409, R410) -/

def Pkt.w (p : Pkt) (i : Nat) : Word := p.words.getD i 0
def Pkt.kind (p : Pkt) : Nat := fld (p.w 0) 3 0
def Pkt.isTask (p : Pkt) : Bool := p.kind == 1
def Pkt.isCmd (p : Pkt) : Bool := p.kind == 2
def Pkt.persist (p : Pkt) : Bool := bit (p.w 0) 4
def Pkt.stored (p : Pkt) : Bool := bit (p.w 0) 5
def Pkt.ordered (p : Pkt) : Bool := bit (p.w 0) 6
def Pkt.opcode (p : Pkt) : Nat := fld (p.w 0) 15 8
/-- The stall budget in ns. -/
def Pkt.budget (p : Pkt) : Nat := 1000000 * (if fld (p.w 0) 31 16 = 0 then 50 else fld (p.w 0) 31 16)
def Pkt.deadline (p : Pkt) : Nat := (p.w 6).toNat

/-- A rectangle of logical tiles. -/
structure Rect where
  row0 : Nat
  col0 : Nat
  rows : Nat
  cols : Nat
  deriving DecidableEq, Repr

/-- The rectangle of bits [21:0] of a word, in packets and in FE_RING_GRP. -/
def Rect.ofWord (w : Word) : Rect := ⟨fld w 4 0, fld w 10 5, fld w 15 11 + 1, fld w 21 16 + 1⟩
def Rect.onMesh (r : Rect) : Bool := decide (r.row0 + r.rows ≤ 24 ∧ r.col0 + r.cols ≤ 48)
def Rect.within (r o : Rect) : Bool :=
  decide (o.row0 ≤ r.row0 ∧ r.row0 + r.rows ≤ o.row0 + o.rows ∧ o.col0 ≤ r.col0 ∧ r.col0 + r.cols ≤ o.col0 + o.cols)
def Rect.meets (r o : Rect) : Bool :=
  decide (r.row0 < o.row0 + o.rows ∧ o.row0 < r.row0 + r.rows ∧ r.col0 < o.col0 + o.cols ∧ o.col0 < r.col0 + r.cols)
/-- Its tiles in rising order of ID. -/
def Rect.tiles (r : Rect) : List Nat :=
  (List.range r.rows).flatMap (fun i => (List.range r.cols).map (fun j => (r.row0 + i) * 48 + r.col0 + j))

def State.ringGroup (s : State) (g : Nat) : Rect := Rect.ofWord (s.reg (ringReg g oRingGrp))
def Pkt.group (p : Pkt) : Rect := Rect.ofWord (p.w 2)

/-- A dependency word of a partition is satisfied. -/
def State.depOk (s : State) (p : Nat) (d : Word) : Bool :=
  !bit d 39 || decide (cntSub (s.ring (64 * p + fld d 37 32)).done (fld d 31 0) < 0x80000000)

/-- The packet's dependencies and order allow it to go ahead. -/
def State.depsOk (s : State) (g : Nat) (k : Pkt) : Bool :=
  s.depOk (g / 64) (k.w 4) && s.depOk (g / 64) (k.w 5) && (!k.ordered || decide (k.count = (s.ring g).done))

/-! Validation (R411 to R413, R420, R421) -/

/-- The operand bits that each command names, for words 1 to 3; none for a reserved OPCODE (R414). -/
def cmdOperands (op : Nat) : Option (List Nat) :=
  let all := 0xFFFFFFFFFFFFFFFF
  match op with
  | 0x01 | 0x02 | 0x03 => some [0xF, 0, 0]
  | 0x04 => some [0x3F, 0, 0]
  | 0x08 => some [all, all, all]
  | 0x09 => some [0xFF, 0xFFFFFFFFFFFF, 0xFFF]
  | 0x0A => some [0xFF, 0, 0]
  | 0x10 => some [all, 0xFFFF, 0]
  | 0x11 => some [all, 0, 0]
  | 0x20 => some [0, 0, 0]
  | _ => none

/-- Bits of a word outside a mask. -/
def outBits (w : Word) (mask : Nat) : Bool := decide (w &&& ~~~ BitVec.ofNat 64 mask ≠ 0)

/-- The limit of RATE in units of 2^-32 ns (13 R497). -/
def rateOk (v : Int) : Bool := decide (-429497 ≤ v ∧ v ≤ 429497)

/-- Check 0x01 FORMAT. -/
def Pkt.badFormat (k : Pkt) : Bool :=
  let w0 := k.w 0
  bit w0 7 || outBits (k.w 4) 0xBFFFFFFFFF || outBits (k.w 5) 0xBFFFFFFFFF || decide (k.w 7 ≠ 0)
  || (match k.kind with
    | 1 => decide (k.opcode ≠ 0) || decide (fld (k.w 1) 63 60 ≠ 0) || decide (fld (k.w 2) 31 22 ≠ 0)
        || (k.stored && decide (fld (k.w 1) 59 8 ≠ 0))
    | 2 => decide (fld w0 5 4 ≠ 0)
        || (match cmdOperands k.opcode with
          | none => true
          | some m => outBits (k.w 1) (m.getD 0 0) || outBits (k.w 2) (m.getD 1 0) || outBits (k.w 3) (m.getD 2 0))
        || (k.opcode == 0x11 && !rateOk (k.w 1).toInt)
    | 3 => decide (k.opcode ≠ 0) || decide (fld w0 5 4 ≠ 0) || decide (fld (k.w 1) 63 60 ≠ 0)
        || decide (fld (k.w 2) 31 22 ≠ 0)
    | _ => true)

/-- Check 0x02 COMPLEMENT. -/
def Pkt.badComplement (k : Pkt) : Bool :=
  decide (fld (k.w 0) 63 32 ≠ complN 32 (fld (k.w 0) 31 0))
  || (k.isTask && decide (fld (k.w 2) 63 32 ≠ complN 32 (fld (k.w 2) 31 0)))

/-- Check 0x03 PRIV (R414). -/
def State.badPriv (s : State) (g : Nat) (k : Pkt) : Bool :=
  let op := k.opcode
  k.isCmd && (!s.ringKernel g
    || (!s.ringSys g && ((decide (1 ≤ op ∧ op ≤ 3) && decide (fld (k.w 1) 3 0 ≠ g / 64)) || decide (0x10 ≤ op))))

/-- The instruction memory of a context in bytes (R420). -/
def State.imemBytes (s : State) (p : Nat) (kernel : Bool) : Nat :=
  let k := 4096 * s.regF (partPage p oPartCtl) 3 0
  if kernel then k else 0x8000 - k

/-- The current version of a stored program. -/
def State.currentProg (s : State) (p id : Nat) : Option ProgVer :=
  (SMap.get [] s.fe.progs p).find? (fun v => v.id == id && v.current)

/-- Cuts [a, a + n) at 2 MiB boundaries. -/
def cutPages (a n : Nat) : List (Nat × Nat) :=
  let m := 0x200000 - a % 0x200000
  if n ≤ m then [(a, n)] else [(a, m), (a + m, n - m)]

/-- Translates the pages of a user program; none when one fails (R388). -/
def State.translateFe (s : State) (p : Nat) : List (Nat × Nat) → Option (List (Nat × Nat)) × State
  | [] => (some [], s)
  | (a, n) :: rs =>
    match s.lookupFe p a with
    | (none, s) => (none, s)
    | (some b, s) =>
      match s.translateFe p rs with
      | (some l, s) => (some ((b, n) :: l), s)
      | (none, s) => (none, s)

/-- Checks 0x05 PROGRAM and 0x06 XLATE: the byte ranges of the program and its version, or the reason. -/
def State.checkProg (s : State) (g : Nat) (k : Pkt) : Except Nat (List (Nat × Nat) × Nat) × State :=
  let p := g / 64
  let kern := s.ringKernel g
  let fits (n : Nat) : Bool := decide (8 * n ≤ s.imemBytes p kern)
  if k.stored then
    match s.currentProg p (fld (k.w 1) 7 0) with
    | none => (.error 5, s)
    | some v =>
      if v.addr % 8 = 0 ∧ s.reach p v.addr (8 * v.plen) ∧ fits v.plen then (.ok ([(v.addr, 8 * v.plen)], v.version), s)
      else (.error 5, s)
  else
    let a := fld (k.w 1) 47 0
    let n := fld (k.w 1) 59 48 + 1
    let virt := !kern && isVirt a
    if a % 8 ≠ 0 ∨ !fits n ∨ !(if virt then decide (a + 8 * n ≤ virtTop) else s.reach p a (8 * n)) then (.error 5, s)
    else if virt then
      match s.translateFe p (cutPages a (8 * n)) with
      | (some l, s) => (.ok (l, 0), s)
      | (none, s) => (.error 6, s)
    else (.ok ([(a, 8 * n)], 0), s)

/-- The outcome of validation: a reason of R411, or the program of a TASK. -/
def State.checkPkt (s : State) (g : Nat) (k : Pkt) : Except Nat (List (Nat × Nat) × Nat) × State :=
  if k.badFormat then (.error 1, s)
  else if k.badComplement then (.error 2, s)
  else if s.badPriv g k then (.error 3, s)
  else if !k.isTask then (.ok ([], 0), s)
  else if !k.group.onMesh || !k.group.within (s.ringGroup g) then (.error 4, s)
  else match s.checkProg g k with
    | (.ok x, s) => if s.fe.sit.on then (.error 7, s) else (.ok x, s)
    | (.error e, s) => (.error e, s)

/-! Stored programs (R421) -/

/-- Versions that are no longer current and have no live task retire. -/
def State.retireProgs (s : State) (p : Nat) : State :=
  let l := SMap.get [] s.fe.progs p
  let dead := l.filter (fun v => !v.current && v.live == 0)
  let s := dead.foldl (fun (s : State) v => s.event (partPage p oProgStat) 32 (v.id + v.version <<< 16)) s
  { s with fe := { s.fe with progs := SMap.set s.fe.progs p (l.filter (fun v => v.current || v.live != 0)) } }

/-- Changes the live count of a version. -/
def State.modLive (s : State) (p id version : Nat) (f : Nat → Nat) : State :=
  { s with fe := { s.fe with progs := SMap.set s.fe.progs p ((SMap.get [] s.fe.progs p).map (fun v =>
    if v.id == id && v.version == version then { v with live := f v.live } else v)) } }

/-! Records and retirement (R412, R423, R424) -/

/-- The completion record of an ended packet. -/
def Pkt.record (k : Pkt) : List Byte :=
  let w0 := k.result.code + k.code <<< 8 + (if k.missed then 1 <<< 16 else 0) + (if k.preempted then 1 <<< 17 else 0)
    + k.count <<< 32
  toBytesLE 8 w0 ++ toBytesLE 8 k.start ++ toBytesLE 8 k.endAt ++ toBytesLE 8 (k.version + k.tile <<< 16)

def State.pkt (s : State) (g n : Nat) : Option Pkt := (s.ring g).pkts.find? (fun k => k.count = n)
def State.modPkt (s : State) (g n : Nat) (f : Pkt → Pkt) : State := s.modRing g (fun r => r.modPkt n f)

/-- Writes the record of an ended packet; a stored program's version loses a live task. -/
def State.putRecord (s : State) (g n : Nat) : State :=
  match s.pkt g n with
  | none => s
  | some k =>
    -- the record's place uses FE_RING_BASE.LOG2SIZE (15 R588)
    let s := (s.useRing g).2
    let a := s.ringCbase g + 32 * (n % s.ringSize g)
    let s := if s.reach (g / 64) a 32 then (s.touch a).store a k.record else s
    let s := s.modPkt g n (fun k => { k with recorded := true })
    if k.version = 0 then s
    else (s.modLive (g / 64) (fld (k.w 1) 7 0) k.version (fun x => x - 1)).retireProgs (g / 64)

def TaskRes.fires : TaskRes → Bool
  | .fault | .hung | .killed | .rejected => true
  | _ => false

/-- A packet ends: its record is written and the ring's vector fires where R426 says so. -/
def State.endPkt (s : State) (g n : Nat) (res : TaskRes) (code tile : Nat) : State :=
  let s := s.modPkt g n (fun k => { k with st := .ended, result := res, code := code, tile := tile, endAt := s.now })
  let s := s.putRecord g n
  if res.fires then s.ringVector g else s

/-- A command or NOP ends with RESULT OK, or as given, and START = END. -/
def State.endCmd (s : State) (g n : Nat) (res : TaskRes := .ok) (code : Nat := 0) : State :=
  (s.modPkt g n (fun k => { k with start := s.now })).endPkt g n res code 0x7FF

/-- A rejection (R412, 15 R588). -/
def State.reject (s : State) (g : Nat) (k : Pkt) (reason : Nat) : State :=
  let a := ringReg g oRingStat
  let s := (s.addRegF a 47 32 1).setRegF a 31 24 reason
  let s := if reason = 2 then
      s.log .compMem .none (some (g / 64)) 0x7FF (s.ringBase g + 64 * (k.count % s.ringSize g))
    else s
  s.endPkt g k.count .rejected reason 0x7FF

/-- A NOP, or nothing more than one, is satisfied. -/
def State.nopOk (s : State) (g : Nat) (k : Pkt) : Bool := decide (k.st = .valid) && k.kind == 3 && s.depsOk g k

/-- The ring's oldest packet that waits: not yet validated, or not dispatched or executed (R410). -/
def State.head (s : State) (g : Nat) : Option Pkt :=
  (s.ring g).pkts.find? (fun k => decide (k.st = .fetched ∨ k.st = .valid) && !s.nopOk g k)

/-- The head packet, if it is valid and its dependencies are satisfied. -/
def State.readyHead (s : State) (g : Nat) : Option Pkt :=
  (s.head g).filter (fun k => decide (k.st = .valid) && s.depsOk g k)

def execPacketRetire (g : Nat) (s : State) : Host.Outcome State Fault Refusal :=
  if !s.feRuns || (s.ring g).broken then .next s
  else match (s.ring g).pkts with
    | [] => .next s
    | k :: _ =>
      let s := if s.nopOk g k then s.endCmd g k.count else s
      match s.pkt g k.count with
      | some k =>
        if k.st = .ended then
          let s := if k.recorded then s else s.putRecord g k.count
          .next (s.modRing g (fun r => { r.setDone ((r.done + 1) % two32) with pkts := r.pkts.tail }))
        else .next s
      | none => .next s

/-! Dispatch (R415 to R419) -/

/-- Partition p may run tasks: it has been released, is NORMAL and no reset of it runs (15 R569, 17 R650). -/
def State.partOpen (s : State) (p : Nat) : Bool :=
  (s.part p).released && decide ((s.part p).st = .normal) && !(s.part p).seqOn

/-- The context of a tile holds no task and none is on its way. -/
def Herder.ctxFree (h : Herder) (k : Bool) : Bool :=
  decide ((h.ctx k).st = .idle) && h.launches.all (fun l => l.kctx != k)

/-- The head packet of a ring is a task that could be dispatched, the turn apart (R417). -/
def State.dispatchable (s : State) (g : Nat) : Option Pkt :=
  (s.readyHead g).filter (fun k =>
    k.isTask && s.ringEn g && !(s.ring g).broken && s.partOpen (g / 64) && !s.fe.sit.on
    && (s.ringKernel g || !s.fe.stopped.contains (g / 64))
    && k.group.tiles.all (fun t => s.ownsTile (g / 64) t && (s.herder t).ctxFree (s.ringKernel g)))

/-- The user rings of a scheduling set. -/
def State.setRings (s : State) (p grp : Nat) : List Nat :=
  (List.range 64).map (64 * p + ·) |>.filter (fun g =>
    s.ringEn g && !s.ringKernel g && s.regF (ringReg g oRingGrp) 21 0 == grp)

/-- The deadline for the comparison of R418: 0 is later than every other. -/
def Pkt.dueKey (k : Pkt) : Nat := if k.deadline = 0 then 2 ^ 64 else k.deadline

/-- The ring the turn passes to (R418). -/
def State.turnTo (s : State) (rings : List Nat) (lastNon : Nat) : Option Nat :=
  let ready := rings.filterMap (fun g => (s.dispatchable g).map (fun k => (g, k.dueKey)))
  match ready.filter (fun x => s.ringRt x.1) with
  | x :: xs => some (xs.foldl (fun a b => if b.2 < a.2 then b else a) x).1
  | [] =>
    let rank (g : Nat) : Nat := (g + 64 - lastNon % 64 - 1) % 64
    match ready.map (·.1) with
    | x :: xs => some (xs.foldl (fun a b => if rank (b % 64) < rank (a % 64) then b else a) x)
    | [] => none

/-- The turn of a set; before anyone has held it, ring 0 is next. -/
def State.turnOf (s : State) (p grp : Nat) : Turn :=
  (s.fe.turns.find? (fun x => x.part == p && x.grp == grp)).getD ⟨p, grp, none, 0, 63⟩

def State.putTurn (s : State) (x : Turn) : State :=
  { s with fe := { s.fe with turns := s.fe.turns.filter (fun y => !(y.part == x.part && y.grp == x.grp)) ++ [x] } }

/-- The turn passes, or stays with nobody. -/
def State.passTurn (s : State) (x : Turn) : Turn :=
  match s.turnTo (s.setRings x.part x.grp) x.lastNon with
  | some g => { x with holder := some g, since := s.now, lastNon := if s.ringRt g then x.lastNon else g }
  | none => { x with holder := none }

/-- Another ring of the set has a dispatchable head packet. -/
def State.otherReady (s : State) (x : Turn) (g : Nat) : Bool :=
  (s.setRings x.part x.grp).any (fun j => j != g && (s.dispatchable j).isSome)

/-- The turn of a ring's set as it now stands: it passes when its holder has no dispatchable head packet, or when
its slice has run out and another ring is ready; a slice that runs out alone starts again. -/
def State.settleTurn (s : State) (x : Turn) : Turn :=
  match x.holder with
  | none => s.passTurn x
  | some h =>
    if (s.dispatchable h).isNone then s.passTurn x
    else if x.since + s.ringSlice h ≤ s.now then
      if s.otherReady x h then s.passTurn x else { x with since := s.now }
    else x

def State.ringTurn (s : State) (g : Nat) : Turn := s.turnOf (g / 64) (s.regF (ringReg g oRingGrp) 21 0)

def execSliceExpiry (g : Nat) (s : State) : Host.Outcome State Fault Refusal :=
  let x := s.ringTurn g
  if s.feRuns && x.holder == some g && decide (x.since + s.ringSlice g ≤ s.now) && !s.ringKernel g then
    .next (s.putTurn (s.settleTurn x))
  else .next s

/-- The bytes of ranges read by the front end. -/
def State.loadFe (s : State) (l : List (Nat × Nat)) : Except Nat (List Byte) × State :=
  l.foldl (fun (r : Except Nat (List Byte) × State) (x : Nat × Nat) =>
    match r with
    | (.error e, s) => (.error e, s)
    | (.ok bs, s) =>
      match (s.touch x.1).load x.1 x.2 true with
      | (some cs, s) => (.ok (bs ++ cs), s)
      | (none, s) => (.error x.1, s)) (.ok [], s)

/-- Sends a task's program to the tiles of its group (R422). -/
def State.dispatch (s : State) (g : Nat) (k : Pkt) : State :=
  match s.loadFe k.prog with
  | (.error _, s) => s
  | (.ok bs, s) =>
    let ws := (List.range (bs.length / 8)).map (fun i => BitVec.ofNat 64 (ofBytesLE ((bs.drop (8 * i)).take 8)))
    let ts := k.group.tiles
    let kern := s.ringKernel g
    let s := ts.zipIdx.foldl (fun (s : State) ti => s.modHerder ti.1 (fun h => { h with launches := h.launches ++ [
      { kctx := kern, task := ⟨g, k.count⟩, rank := ti.2, size := ts.length, arg := k.w 3, prog := ws,
        persist := k.persist }] })) s
    s.modPkt g k.count (fun k => { k with st := .running })

def execTaskDispatch (g : Nat) (s : State) : Host.Outcome State Fault Refusal :=
  if !s.feRuns then .next s
  else match s.dispatchable g with
    | none => .next s
    | some k =>
      match s.useRing g with
      | (false, s) => .next s
      | (true, s) =>
        if s.ringKernel g then .next (s.dispatch g k)
        else
          let x := s.settleTurn (s.ringTurn g)
          if x.holder = some g then .next ((s.putTurn x).dispatch g k) else .next s

/-! A tile starts its task (R422, 07 R228) -/

/-- The registers of a starting context. -/
def Launch.start (l : Launch) (c : Ctx) (t dev : Nat) : Ctx :=
  { st := .run, level := if l.kctx then .k else .u, task := some l.task, persist := l.persist, prog := l.prog,
    serial := c.serial
    s := [(1, BitVec.ofNat 64 t), (2, BitVec.ofNat 64 l.rank), (3, BitVec.ofNat 64 l.size), (4, l.arg),
          (5, BitVec.ofNat 64 dev)]
    a := [(1, BitVec.ofNat 48 (tileBase t))] }

def execTileTaskStart (t : Nat) (s : State) : Host.Outcome State Fault Refusal :=
  let h := s.herder t
  match h.launches.find? (fun l => (h.ctx l.kctx).st = .idle) with
  | none => .next s
  | some l =>
    if !s.tileRuns t then .next s
    else
      let s := s.modHerder t (fun h => { h with launches := h.launches.erase l })
      let s := s.setCtx t l.kctx (l.start (s.ctx t l.kctx) t s.link.en.devid)
      let s := s.advance t l.kctx
      .next (s.modPkt l.task.ring l.task.count (fun k =>
        if k.started then k else { k with started := true, start := s.now }))

/-! Ends (R423, R425) -/

def execTaskEnd (g n : Nat) (s : State) : Host.Outcome State Fault Refusal :=
  match s.pkt g n with
  | some k =>
    if s.feRuns && decide (k.st = .running) && (s.taskTiles ⟨g, n⟩).isEmpty then
      -- a task that `ucancel` has cancelled ends as CANCELLED (08 R320)
      .next (s.endPkt g n (if k.result = .cancelled then .cancelled else .ok) 0 0x7FF)
    else .next s
  | none => .next s

/-- A validated task that has not ended. -/
def Pkt.live (k : Pkt) : Bool :=
  k.isTask && (match k.st with | .valid | .running | .draining _ _ => true | _ => false)

def execTaskDeadlineMiss (g n : Nat) (s : State) : Host.Outcome State Fault Refusal :=
  match s.pkt g n with
  | some k =>
    if s.feRuns && k.live && !k.missed && decide (k.deadline ≠ 0 ∧ k.deadline ≤ s.now) then
      .next ((s.modPkt g n (fun k => { k with missed := true })).addRegF (ringReg g oRingStat) 63 48 1)
    else .next s
  | none => .next s

/-! Stall budgets (R427, R428; 15 R591) -/

/-- How a tile counts at a check: the time since its last advance, or none while its timer is held at zero. -/
def State.stallTime (s : State) (t : Nat) (k : Bool) : Option Nat :=
  let h := s.herder t
  let c := h.ctx k
  let waits := match c.wait with | .hget _ _ | .time _ => true | _ => false
  if c.task.isNone || waits || (!k && h.preempted) || s.suspended t then none
  else some (s.now - max (if k then h.advK else h.advU) (s.heldUntil t))

/-- A running task is hung (R428). -/
def State.hung (s : State) (g : Nat) (k : Pkt) : Bool :=
  let ts := (s.taskTiles ⟨g, k.count⟩).filterMap (fun x => s.stallTime x.1 x.2)
  decide (k.st = .running) && !ts.isEmpty && ts.all (fun d => decide (k.budget ≤ d))

/-- The lowest tile of a hung task that holds it. -/
def State.hungTile (s : State) (g : Nat) (k : Pkt) : Nat :=
  ((s.taskTiles ⟨g, k.count⟩).filterMap (fun x => (s.stallTime x.1 x.2).map (fun _ => x.1))).foldl min 0x7FF

def execStallCheck (s : State) : Host.Outcome State Fault Refusal :=
  if !s.feRuns then .next s
  else
    let hung := s.fe.rings.flatMap (fun gr => (gr.2.pkts.filter (s.hung gr.1)).map (fun k => (gr.1, k)))
    let s := hung.foldl (fun (s : State) gk => s.drainTask ⟨gk.1, gk.2.count⟩ 0 .hung 0 0x7FF) s
    .next s.holdTimers

/-! Drains (R429, R430) -/

/-- The drain of a context is complete: nothing of it in the scoreboard, no request outstanding. -/
def State.ctxDrained (s : State) (t : Nat) (k : Bool) : Bool :=
  (s.herder t).board.all (fun e => e.kctx != k)
    && (s.tile t).retr.strms.all (fun x => x.kctx != k || x.quiet)
    && s.link.outst.all (fun o => !(o.tile == t && (match o.what with
        | .rtvRead _ k' _ | .rtvWrite _ k' _ | .drnWrite _ k' _ => k' == k
        | _ => false)))

/-- The contexts of a task become IDLE. -/
def State.idleTask (s : State) (r : TaskRef) : State :=
  (s.taskTiles r).foldl (fun (s : State) tk => s.endCtx tk.1 tk.2) s

def execDrainComplete (g n : Nat) (s : State) : Host.Outcome State Fault Refusal :=
  match s.pkt g n with
  | some k =>
    match k.st with
    | .draining _ _ =>
      let ts := s.taskTiles ⟨g, n⟩
      if s.feRuns && ts.all (fun x => s.ctxDrained x.1 x.2) then
        let s := s.idleTask ⟨g, n⟩
        let s := ts.foldl (fun (s : State) x => (s.settleDrops x.1).settleSledDrops x.1) s
        let s := if (s.part (g / 64)).seqOn then s
          else ts.foldl (fun (s : State) x => s.modTile x.1 (fun y => { y with retr := { y.retr with unsent := [] } })) s
        .next (s.endPkt g n k.result (if k.result = .fault then k.code else 0) (if k.result = .fault then k.tile else 0x7FF))
      else .next s
    | _ => .next s
  | none => .next s

def execDrainKill (g n : Nat) (s : State) : Host.Outcome State Fault Refusal :=
  match s.pkt g n with
  | some k =>
    match k.st with
    | .draining c b =>
      let p := g / 64
      let ts := s.taskTiles ⟨g, n⟩
      if s.feRuns && decide (b + 1000000 ≤ s.now) && !(s.part p).seqOn then
        let tile := ((ts.filter (fun x => !s.ctxDrained x.1 x.2)).map (·.1)).foldl min 0x7FF
        -- every tile of the group, those whose context has ended too
        let s := k.group.tiles.foldl (fun (s : State) t => s.engineReset p t) s
        let s := s.idleTask ⟨g, n⟩
        let s := s.hangLog g tile c true
        let s := s.endPkt g n .killed 0 0x7FF
        .next (s.rustError .drainKill p tile (g % 64))
      else .next s
    | _ => .next s
  | none => .next s

end Sys2Proof.Machine
end

