-- ==== Sys2Proof/Machine/Power.lean ====
section
/-! DEFINITION. Power states of tiles, channel sets and the module, held packets, Jet, and the governor
(14_power_and_clocks.md). -/
namespace Sys2Proof.Machine

/-! Which states are allowed (R539, R541, R543) -/

/-- Exit latencies in ns (R539). -/
def PwrSt.latency : PwrSt → Nat
  | .ivory => 0 | .dove => 200 | .ash => 4000 | .slate => 60000

/-- The deepest state a tolerance allows. -/
def deepest (ltr : Nat) : PwrSt :=
  if 60000 ≤ ltr then .slate else if 4000 ≤ ltr then .ash else if 200 ≤ ltr then .dove else .ivory

/-- A use of a partition's tolerance: a failed pair reads as 0 (15 R588). -/
def State.useLtr (s : State) (p : Nat) : Nat × State :=
  match s.useCw (some p) (partPage p oLtr) with
  | (true, s) => (0, s)
  | (false, s) => (s.regF (partPage p oLtr) 31 0, s)

/-- The deepest state allowed for a tile: Slate while no released partition owns it. -/
def State.deepestFor (s : State) (t : Nat) : PwrSt × State :=
  match s.tilePart t with
  | some p =>
    if (s.part p).released then
      match s.useLtr p with
      | (l, s) => (deepest l, s)
    else (.slate, s)
  | none => (.slate, s)

/-- A partition is in the state of its shallowest tile. -/
def State.partState (s : State) (p : Nat) : PwrSt :=
  let ts := s.partTiles p
  let has (x : PwrSt) : Bool := ts.any (fun t => decide ((s.tile t).pwr.st = x))
  if has .ivory then .ivory else if has .dove then .dove else if has .ash then .ash else .slate

/-- The state of a partition's channel sets (R536). -/
def PwrSt.ch : PwrSt → ChSt
  | .ivory | .dove => .active
  | .ash => .powerDown
  | .slate => .selfRefresh

def State.mySets (s : State) (p : Nat) : List Nat := (List.range 16).filter (s.ownsSet p)

/-- Sets a channel set's state; a set that goes back to active by an exit is listed until the exit is done. -/
def State.putCh (s : State) (c : Nat) (x : ChSt) : State :=
  { s with power := { s.power with ch := SMap.set s.power.ch c x } }

/-- Channel sets follow a partition that has gone deeper. -/
def State.sinkSets (s : State) (p : Nat) : State :=
  let x := (s.partState p).ch
  (s.mySets p).foldl (fun (s : State) c => s.putCh c x) s

/-- Channel sets begin their exit with a tile that leaves Ash or Slate (R551). -/
def State.raiseSets (s : State) (p : Nat) : State :=
  let cs := (s.mySets p).filter (fun c =>
    decide (SMap.get .selfRefresh s.power.ch c ≠ .active) && !s.power.chExit.contains c)
  { s with power := { s.power with chExit := s.power.chExit ++ cs } }

def execChannelSetExitComplete (cs : Nat) (s : State) : Host.Outcome State Fault Refusal :=
  if s.power.chExit.contains cs then
    let s := s.putCh cs .active
    .next { s with power := { s.power with chExit := s.power.chExit.filter (· != cs) } }
  else .next s

/-! Idle tiles descend (R540 to R547) -/

def State.modPwr (s : State) (t : Nat) (f : TilePwr → TilePwr) : State :=
  s.modTile t (fun x => { x with pwr := f x.pwr })

/-- A context reads IDLE, WAIT_HQ or WAIT_TIME. -/
def Ctx.rests (c : Ctx) : Bool :=
  match c.st, c.wait with
  | .idle, _ => true
  | .run, .hget _ _ => true
  | .run, .time _ => true
  | _, _ => false

/-- The retriever has no write outstanding; while no entry stands in the scoreboard no queue holds a stream. -/
def Retr.still (r : Retr) : Bool := r.strms.all (·.wout.isEmpty)

/-- A tile is idle (R540). -/
def Tile.idle (x : Tile) : Bool :=
  let h := x.herder
  h.user.rests && h.kern.rests && h.launches.isEmpty && h.board.isEmpty && h.park.isEmpty && h.out.isEmpty
    && x.pack.idle && x.sfu.isEmpty && x.retr.still && x.pwr.held.isEmpty

/-- A tile in a state may descend to another: it is idle, awake or at rest, and its tolerance allows the state. -/
def State.mayDescend (s : State) (t : Nat) (src dst : PwrSt) : Bool × State :=
  let x := s.tile t
  if decide (t < 1152) && decide (x.pwr.st = src) && !x.pwr.exiting && x.idle && !s.power.jet then
    match s.deepestFor t with
    | (d, s) => (decide (dst.code ≤ d.code), s)
  else (false, s)

/-- The tile takes a deeper state and its partition's channel sets follow. -/
def State.sink (s : State) (t : Nat) (x : PwrSt) : State :=
  let s := s.modPwr t (fun p => { p with st := x, handshake := false })
  match s.tilePart t with
  | some p => s.sinkSets p
  | none => s

def execDoveEntry (t : Nat) (s : State) : Host.Outcome State Fault Refusal :=
  match s.mayDescend t .ivory .dove with
  | (true, s) => .next (s.sink t .dove)
  | (false, s) => .next s

def execAshHandshake (t : Nat) (s : State) : Host.Outcome State Fault Refusal :=
  match s.mayDescend t .dove .ash with
  | (true, s) => .next (s.modPwr t (fun p => { p with handshake := true }))
  | (false, s) => .next s

def execAshEntry (t : Nat) (s : State) : Host.Outcome State Fault Refusal :=
  if (s.tile t).pwr.handshake && decide ((s.tile t).pwr.st = .dove) && (s.tile t).idle then .next (s.sink t .ash)
  else .next s

def execHandshakeAbort (t : Nat) (s : State) : Host.Outcome State Fault Refusal :=
  if (s.tile t).pwr.handshake then
    let s := s.modPwr t (fun p => { p with handshake := false, st := .ivory })
    match s.tilePart t with
    | some p => .next ((s.sinkSets p).addRegF (partPage p oWakeCnt) 31 0 1)
    | none => .next s
  else .next s

/-- The arrays lose their planes and in-cell registers (R535). -/
def State.losePlanes (s : State) (t : Nat) : State :=
  s.modTile t (fun x => { x with pack := { x.pack with
    arrs := x.pack.arrs.map (fun ka => (ka.1, { ka.2 with front := none })), icr := [] } })

def execSlateEntry (t : Nat) (s : State) : Host.Outcome State Fault Refusal :=
  if !(s.tile t).pack.icr.isEmpty then .next s
  else match s.mayDescend t .ash .slate with
    | (true, s) => .next ((s.losePlanes t).sink t .slate)
    | (false, s) => .next s

/-! Exits (R548 to R554) -/

/-- Starts a tile's exit to a shallower state; an exit under way goes to the shallower of the two. -/
def State.startExit (s : State) (t : Nat) (target : PwrSt) : State :=
  let x := (s.tile t).pwr
  if x.st.code ≤ target.code then s
  else
    let g := if x.exiting ∧ x.target.code < target.code then x.target else target
    let s := s.modPwr t (fun p => { p with exiting := true, target := g, handshake := false })
    if 2 ≤ x.st.code then
      match s.tilePart t with
      | some p => s.raiseSets p
      | none => s
    else s

/-- A packet held for a tile is delivered (R549). -/
def State.deliverHeld (s : State) (h : HeldPkt) : State :=
  match h with
  | .handle src => s.nextHandle src
  | .write src k n =>
    match s.stream src k n with
    | some x =>
      match x.wout.find? (fun w => w.dev.isNone && !w.arrived) with
      | some w => (s.landWrite src x w).getD s
      | none => s
    | none => s
  | .read _ _ _ | .other => s

def execHeldPacketArrive (t : Nat) (pkt : HeldPkt) (s : State) : Host.Outcome State Fault Refusal :=
  let x := (s.tile t).pwr
  if decide (1152 ≤ t) || decide (x.st = .ivory) || x.handshake || decide (64 ≤ x.held.length) || s.power.jet then .next s
  else .next ((s.modPwr t (fun p => { p with held := p.held ++ [pkt] })).startExit t .ivory)

/-- The count an `at` of a tile waits for. -/
def Herder.atCount (h : Herder) : Option Nat :=
  [h.kern, h.user].findSome? (fun c => match c.st, c.wait with
    | .run, .time n => some n
    | _, _ => none)

def execAtEarlyWake (t : Nat) (s : State) : Host.Outcome State Fault Refusal :=
  let x := (s.tile t).pwr
  match (s.herder t).atCount with
  | some c =>
    if x.st ≠ .ivory ∧ c ≤ s.now + x.st.latency + 1000 ∧ !s.power.jet then .next (s.startExit t .ivory) else .next s
  | none => .next s

def execStateExitComplete (t : Nat) (s : State) : Host.Outcome State Fault Refusal :=
  let x := (s.tile t).pwr
  if !x.exiting || s.power.jet then .next s
  else
    let s := s.modPwr t (fun p => { p with
      st := x.target, exiting := false, target := .ivory, held := if x.target = .ivory then [] else p.held })
    let s := match s.tilePart t with
      | some p =>
        let s := if 2 ≤ x.st.code then s.addRegF (partPage p oWakeCnt) 63 32 1 else s
        (s.mySets p).foldl (fun (s : State) c => if (s.partState p).ch = .active then s.putCh c .active else s) s
      | none => s
    .next (if x.target = .ivory then x.held.foldl State.deliverHeld s else s)

/-- The source of a discarded request gets a LOST response: NO_ROUTE for this module, and a Rust error of the
source's partition (15 R593, 12 R466). A program beat or a host access has no response that this model holds. -/
def State.lostHeld (s : State) (t : Nat) (h : HeldPkt) : State :=
  let rust (src : Nat) (s : State) : State :=
    match s.tilePart src with
    | some p => s.rustError .lost p t (tileBase t)
    | none => s
  let ends (src : Nat) (k : Bool) (n : Nat) (s : State) : State :=
    rust src (match s.stream src k n with
      | some x => if x.stopping then s else s.failStrm src k n .noRoute s.link.en.devid
      | none => s)
  match h with
  | .handle src =>
    let toTile (o : OutHandle) : Bool :=
      o.sent && !(Target.ofWord o.target).remote && (Target.ofWord o.target).tile == t
    match splitFirst (fun _ o => toTile o) [] (s.herder src).out with
    | some (pre, o, rest) =>
      rust src ((s.modHerder src (fun x => { x with out := pre ++ rest })).raise src o.kctx false .noRoute o.pc s.link.en.devid 0)
    | none => s
  | .write src k n =>
    match s.stream src k n with
    | some x =>
      match x.wout.find? (fun w => w.dev.isNone && !w.arrived) with
      | some w => ends src k n (s.finishWrite src x (fun y => y == w))
      | none => s
    | none => s
  | .read src k n =>
    match s.stream src k n with
    | some x =>
      match x.reads.find? (fun r => r.dev.isNone && r.got.isNone && tileOf r.addr == t) with
      | some r => rust src (s.finishRead src x r (.error (.noRoute, s.link.en.devid)))
      | none => s
    | none => s
  | .other => s

def execWakeFail (t : Nat) (s : State) : Host.Outcome State Fault Refusal :=
  let x := (s.tile t).pwr
  if !x.exiting || s.power.jet then .next s
  else
    let s := s.modPwr t (fun p => { p with held := [] })
    let s := match s.tilePart t with
      | some p => s.rustError .wakeFail p t x.st.code
      | none => s.log .wakeFail .rust none t x.st.code
    .next (x.held.foldl (fun s h => s.lostHeld t h) s)

/-- Tiles whose state a new tolerance no longer allows start their exit (R544). -/
def State.applyLtr (s : State) (p : Nat) : State :=
  (s.partTiles p).foldl (fun (s : State) t =>
    match s.deepestFor t with
    | (d, s) => s.startExit t d) s

/-! The module's state (R537) -/

/-- A use of the module's tolerance: a failed pair reads as 0 (15 R588). -/
def State.useModLtr (s : State) : Nat × State :=
  match s.useCw none rPwrLtr with
  | (true, s) => (0, s)
  | (false, s) => (s.regF rPwrLtr 31 0, s)

/-- The module's state under a tolerance as PWR_MOD_STATUS gives it: the shallowest partition state, no deeper than
the tolerance allows once a partition has been released. -/
def State.modState (s : State) (ltr : Nat) : Nat :=
  if s.power.jet then 4
  else
    let ps := (List.range 16).filter (fun p => decide (0 < s.nCol p))
    let m := (ps.map (fun p => (s.partState p).code)).foldl min 3
    if ps.any (fun p => (s.part p).released) then min m (deepest ltr).code else m

/-! The governor (R557 to R560) -/

/-- The sum of the last 1,000 bins in mW: 1,000 times the 1 ms mean (R557). -/
def PowerUnit.sum (u : PowerUnit) : Nat := u.bins.foldl (· + ·) 0

/-- MEAN_W and BIN_W in whole watts, rounded down (R563). -/
def PowerUnit.meanW (u : PowerUnit) : Nat := u.sum / 1000000
def PowerUnit.binW (u : PowerUnit) : Nat := u.bins.headD 0 / 1000

/-- The bin limit in mW (R558). -/
def PowerUnit.limit (u : PowerUnit) : Nat :=
  match u.excursion with
  | some n => if u.admitted ∧ n < 9000 then 2790000 else 2390000
  | none => 2390000

/-- A bin joins the window; excursions begin and end with the mean. -/
def PowerUnit.bin (u : PowerUnit) (mw : Nat) : PowerUnit × Bool :=
  let u := { u with bins := (mw :: u.bins).take 1000, sinceRaise := u.sinceRaise + 1 }
  if 2400000000 < u.sum then
    match u.excursion with
    | some n => ({ u with excursion := some (n + 1) }, false)
    | none => ({ u with excursion := some 0, admitted := decide (90000 ≤ u.since90), since90 := 0 }, true)
  else ({ u with excursion := none, since90 := min 90000 (u.since90 + 1) }, false)

/-- The step the law of R559 sets; whether the fast rail limit acted. -/
def PowerUnit.govern (u : PowerUnit) (mw maW maE : Nat) : PowerUnit × Bool :=
  let k := u.step
  let kmax := if 150000 < mw then k * (u.limit - 150000) / (mw - 150000) else 16
  let fast := decide (1475000 < maW ∨ 1475000 < maE)
  let kmax := if fast then min kmax (k - 2) else kmax
  if u.override then ({ u with step := 16 }, fast)
  else if kmax < k then ({ u with step := max kmax 1 }, fast)
  else if 10 ≤ u.sinceRaise then
    let k' := min (min (k + 1) kmax) 16
    ({ u with step := k', sinceRaise := if k < k' then 0 else u.sinceRaise }, fast)
  else (u, fast)

def execGovernorTick (mw maW maE : Nat) (s : State) : Host.Outcome State Fault Refusal :=
  if s.power.jet || s.power.railsOff then .next s
  else
    let s := if s.power.step < 16 then s.addRegF rPwrGovCnt 63 32 1 else s
    let (u, began) := s.power.bin mw
    let (u, fast) := u.govern mw maW maE
    let s := { s with power := u }
    let s := if began then s.addRegF rPwrGovCnt 31 16 1 else s
    .next (if fast then s.addRegF rPwrGovCnt 15 0 1 else s)

/-! Jet (R555, R556) -/

/-- Every released partition is stopped by PART_STOP and runs no task. -/
def State.jetOk (s : State) : Bool :=
  (List.range 16).all (fun p => !(s.part p).released || s.fe.stopped.contains p)
    && s.fe.rings.all (fun gr => gr.2.pkts.all (fun k => match k.st with
        | .running | .draining _ _ => false
        | _ => true))

/-- The tile as Jet leaves it: its engines and planes are lost. -/
def Tile.jet (x : Tile) : Tile :=
  { herder := { user := x.herder.user.cleared .u, kern := x.herder.kern.cleared .k }
    pack := { gang := x.pack.gang, sclPend := x.pack.sclPend }, digPend := x.digPend }

/-- Entry to Jet: memory, keys and engine state are lost; links go down. -/
def State.enterJet (s : State) : State :=
  let s := (List.range 36).foldl (fun (s : State) k => s.linkDown k .disabled) s
  { s with
    mem := [], eccW := [], eccB := [], beats := [], sleds := []
    tiles := s.tiles.map (fun kt => (kt.1, kt.2.jet))
    sec := { s.sec with parts := s.sec.parts.map (fun kp => (kp.1, { kp.2 with key := 0 })) }
    fe := { s.fe with cache := [] }
    power := { s.power with jet := true, jetExit := false, ch := [], chExit := [] }
    time := { s.time with locked := false, holdover := true, good := 0, ex := none } }

/-- A key of 512 bits from the random bit generator, drawn again while its halves are equal (16 R636). -/
def pickKey : Nat → Nat → BitVec 512
  | 0, c => Config.freeKey c
  | n + 1, c => if fld (Config.freeKey c) 511 256 = fld (Config.freeKey c) 255 0 then pickKey n (c + 1) else Config.freeKey c

def State.drawKey (s : State) (p : Nat) : State :=
  let k := pickKey 63 s.freeCtr
  let s := { s with freeCtr := s.freeCtr + 64 }
  s.modPart p (fun x => { x with key := k })

/-- Links with EN = 1 start training from DISABLED (12 R449). -/
def State.startLinks (s : State) : State :=
  (List.range 36).foldl (fun (s : State) k =>
    if s.regF (linkReg k 0) 0 0 = 1 then s.modLink k (fun l => { l with st := .detect, reason := .none, returns := 0 })
    else s) s

def execJetExitComplete (s : State) : Host.Outcome State Fault Refusal :=
  if !s.power.jetExit then .next s
  else
    let s := { s with power := { s.power with jet := false, jetExit := false } }
    let s := (List.range 16).foldl (fun (s : State) p =>
      let s := s.modPart p (fun x => { x with released := false, st := .normal })
      if s.regF (partPage p oCryptCtl) 0 0 = 1 then s.drawKey p else s) s
    .next { s.startLinks with fe := { s.startLinks.fe with stopped := [] } }

end Sys2Proof.Machine
end

