-- ==== Sys2Proof/Machine/Link.lean ====
section
/-! DEFINITION. Hiric links: flits, credits, replay, the recovery ladder and training (12_hiric_links.md R443 to R463,
R476 to R482, R488). -/
namespace Sys2Proof.Machine

/-! Slots and headers (R454, R464) -/

/-- The 128-bit header of a transaction. -/
def Txn.header (x : Txn) : Nat :=
  x.type.code + (x.hops % 64) <<< 5 + (x.dst % 16384) <<< 11 + (x.src % 16384) <<< 25 + (x.srcTile % 2048) <<< 39
    + (x.part % 16) <<< 50 + (x.tag % 512) <<< 54 + (x.addr % 2 ^ 48) <<< 64 + ((x.len - 1) % 64) <<< 112
    + (x.fmt % 16) <<< 118 + (x.status % 8) <<< 122 + x.vc.code <<< 125

def slotBytes (w : BitVec 128) : List Byte := toBytesLE 16 w.toNat

/-- The slots of a transaction: its header, then its data. -/
def Txn.slots (x : Txn) : List Slot :=
  ⟨true, BitVec.ofNat 128 x.header⟩ ::
    (chunks 16 ((x.data.length + 15) / 16) x.data).map (fun bs => ⟨false, BitVec.ofNat 128 (ofBytesLE bs)⟩)

/-- Whether a type carries data, for a given STATUS: an unsuccessful response carries none (the spec is silent). -/
def TType.hasData (t : TType) (status : Nat) : Bool :=
  match t with
  | .rd | .wra | .qaa | .hpa => false
  | .rdr | .aadr => status == 0
  | _ => true

/-- The virtual channels that carry a type (R465). -/
def TType.rides (t : TType) (v : VC) : Bool :=
  match t, v with
  | .wr, .req | .wr, .sled | .wr, .chain => true
  | .rd, .req | .aadd, .req | .hput, .req | .qadd, .chain | .list, .chain => true
  | .doorbell, .msg | .time, .msg | .enum, .msg => true
  | t, .rsp => t.isResp
  | _, _ => false

/-- The transaction whose slots these are; none for a reserved TYPE or VC. -/
def Txn.ofSlots (h : BitVec 128) (data : List Slot) : Option Txn :=
  match TType.ofCode (fld h 4 0), VC.ofCode (fld h 127 125) with
  | some t, some vc =>
    let len := fld h 117 112 + 1
    let bytes := (data.flatMap (fun s => slotBytes s.word)).take len
    let x : Txn := {
      type := t, hops := fld h 10 5, dst := fld h 24 11, src := fld h 38 25,
      srcTile := fld h 49 39, part := fld h 53 50, tag := fld h 62 54,
      addr := fld h 111 64, len := len, fmt := fld h 121 118,
      status := fld h 124 122, vc := vc, data := bytes }
    if t.rides vc then some x else none
  | _, _ => none

/-- Data slots that follow a header. -/
def headerData (h : BitVec 128) : Nat :=
  match TType.ofCode (fld h 4 0) with
  | some t => if t.hasData (fld h 124 122) then (fld h 117 112 + 16) / 16 else 0
  | none => 0

/-- Takes the complete transactions from the front of received slots (R467). -/
def takeTxns : Nat → List Slot → List Txn × List Slot
  | 0, l => ([], l)
  | _, [] => ([], [])
  | n + 1, h :: l =>
    if !h.start then takeTxns n l
    else
      let k := headerData h.word
      if l.length < k then ([], h :: l)
      else
        let (xs, rest) := takeTxns n (l.drop k)
        (match Txn.ofSlots h.word (l.take k) with
          | some x => x :: xs
          | none => xs, rest)

/-! Flits (R455 to R459) -/

/-- The counter in units of 2^-16 ns. -/
def State.stamp (s : State) : Nat := s.time.ctr / 2 ^ 32
/-- TXT: 48 bits of ns and 16 of fraction. -/
def State.txt (s : State) : Nat := s.stamp / 2 ^ 16 % 2 ^ 48 + (s.stamp % 2 ^ 16) <<< 48

def creditOf (m : SMap Nat) (v : VC) : Nat := SMap.get 0 m v.code

/-- Header bits of any flit: ACK, NAK and credits. -/
def Link.flitBase (l : Link) : Nat :=
  (l.ack % 4096) <<< 16 + (if l.nak then 1 <<< 28 else 0) + (creditOf l.freed .req % 4096) <<< 64
    + (creditOf l.freed .rsp % 4096) <<< 76 + (creditOf l.freed .sled % 4096) <<< 88
    + (creditOf l.freed .chain % 4096) <<< 100 + (creditOf l.freed .msg % 4096) <<< 112

/-- A flit's bytes from its header, its 224 bytes of slots and TXT. -/
def flitBytes (hdr : Nat) (body : List Byte) (txt : Nat) (badCrc : Bool) : List Byte :=
  let bs := toBytesLE 16 hdr ++ (body ++ List.replicate (224 - body.length) 0) ++ toBytesLE 8 txt ++ toBytesLE 4 0
  let c := crc32 bs
  bs ++ toBytesLE 4 (if badCrc then complN 32 c else c)

/-- Bits START and USED of the slots of a DATA flit. -/
def slotBits (sl : List Slot) : Nat :=
  sl.zipIdx.foldl (fun a si => a + (if si.1.start then 1 <<< (32 + si.2) else 0) + 1 <<< (46 + si.2)) 0

def Link.dataFlit (l : Link) (f : KeptFlit) (txt : Nat) (badCrc : Bool) : List Byte :=
  flitBytes (1 + (f.seq % 4096) <<< 4 + l.flitBase + slotBits f.slots) (f.slots.flatMap (fun x => slotBytes x.word)) txt
    badCrc

def Link.idleFlit (l : Link) (txt : Nat) : List Byte := flitBytes (2 + l.flitBase) [] txt false

/-- The command of the next LCF: a pending command, else this module's new device ID, repeated until the link's
state changes (R459, R486). -/
def Link.cmdOut (l : Link) : LcfCmd :=
  if l.lcfOut.cmd ≠ 0 then l.lcfOut
  else match l.idOut with
    | some d => { cmd := 5, id := d }
    | none => {}

def Link.lcf (l : Link) (caps : List Byte) (txt : Nat) : List Byte :=
  let c := l.cmdOut
  let counts := (List.range 8).flatMap (fun i => toBytesLE 4 (l.corr.getD i 0))
  let body := toBytesLE 1 c.cmd ++ toBytesLE 1 c.arg ++ toBytesLE 2 c.id ++ counts ++ List.replicate 12 0 ++ caps
  flitBytes (3 + l.flitBase) body txt false

/-- The capability record (R453). -/
def State.capsRecord (s : State) (k : Nat) : List Byte :=
  let l := s.linkOf k
  let f (t : Nat) : FwObj := SMap.get {} s.mgt.running t
  let full := decide (s.regF (linkReg k 0) 5 4 = 0)
  toBytesLE 8 (s.reg rMgtPartId).toNat ++ toBytesLE 8 (s.reg rMgtSerial).toNat ++ toBytesLE 2 s.link.en.devid
    ++ toBytesLE 1 k ++ toBytesLE 1 l.aligned ++ toBytesLE 1 (if full then 3 else 2) ++ toBytesLE 1 0x0F
    ++ toBytesLE 2 l.loss ++ toBytesLE 2 (f 2).version ++ toBytesLE 2 (f 2).linkLo ++ toBytesLE 2 (f 2).linkHi
    ++ toBytesLE 2 (f 1).version

/-! Blocks and codewords (R446, R447) -/

/-- The eight 257-bit blocks of a flit: F in bit 0, 32 bytes in bits [256:1]. -/
def flitBlocks (bs : List Byte) : List (BitVec 257) :=
  (chunks 32 8 bs).zipIdx.map (fun bi => BitVec.ofNat 257 ((if bi.2 = 0 then 1 else 0) + 2 * ofBytesLE bi.1))

/-- Blocks as one number, the first lowest. -/
def blocksNat (bl : List (BitVec 257)) : Nat := bl.foldr (fun b n => b.toNat + n <<< 257) 0

/-- The codeword of twenty blocks, as symbols in the order sent. -/
def blocksCodeword (bl : List (BitVec 257)) : List (BitVec 10) :=
  let n := blocksNat bl
  (linkCode.encode ((List.range 514).map (fun i => (n >>> (10 * i)) % 1024))).map (BitVec.ofNat 10)

/-- The twenty blocks of the message symbols of a codeword. -/
def codewordBlocks (syms : List Nat) : List (BitVec 257) :=
  let n := packSyms 10 (syms.take 514)
  (List.range 20).map (fun i => BitVec.ofNat 257 (n >>> (257 * i)))

/-- The numbers of the active lanes. -/
def Link.active (l : Link) : List Nat := (List.range 8).filter (fun i => l.lanes.testBit i)

/-- The lane that symbol i of a codeword is sent on: active lane i mod W. -/
def Link.laneOf (l : Link) (i : Nat) : Nat := l.active.getD (i % l.active.length) 0

/-- What one lane carries of the last codewords: nothing while an injection mutes it (15 R594). -/
def Link.onLane (l : Link) (i : Nat) : List (BitVec 10) :=
  if l.mute = some i then []
  else l.wire.flatMap (fun cw => cw.zipIdx.filterMap (fun x => if l.laneOf x.2 = i then some x.1 else none))

/-- Sends the blocks of a flit: twenty blocks leave as a codeword. -/
def Link.put (l : Link) (bs : List Byte) : Link :=
  let q := l.blocks ++ flitBlocks bs
  if 20 ≤ q.length then { l with flit := bs, blocks := q.drop 20, wire := [blocksCodeword (q.take 20)] }
  else { l with flit := bs, blocks := q, wire := [] }

/-- Completes the codeword in hand with IDLE flits, so that the last flit leaves whole. -/
def Link.flush (l : Link) (txt : Nat) : Link :=
  if l.blocks.isEmpty then l
  else
    let idle := flitBlocks (l.idleFlit txt)
    { l with blocks := [], wire := l.wire ++ [blocksCodeword ((l.blocks ++ idle ++ idle ++ idle).take 20)] }

/-! Transmission (R457, R458, R460) -/

/-- Slots of credit left on a virtual channel: the buffer plus freed slots less sent ones, the counters taken
modulo 4,096; more slots can be freed than were sent since the link became ACTIVE. -/
def Link.credit (l : Link) (v : VC) : Nat :=
  let d := (creditOf l.sentSlots v + 4096 - creditOf l.granted v) % 4096
  if d < 2048 then v.slots - d else v.slots + (4096 - d)

/-- What has been put into a flit under construction. -/
structure Fill where
  slots : List Slot := []
  txns : List Txn := []
  left : List Txn := []
  cut : Option (Txn × List Slot) := none
  stalled : List VC := []
  link : Link

/-- Takes transactions in queue order while the flit has room; a virtual channel without credit is passed over. -/
def Fill.take (f : Fill) : List Txn → Fill
  | [] => f
  | x :: xs =>
    let room := 14 - f.slots.length
    if room = 0 ∨ f.stalled.contains x.vc then Fill.take { f with left := f.left ++ [x] } xs
    else if f.link.credit x.vc < x.slots.length then
      Fill.take { f with left := f.left ++ [x], stalled := x.vc :: f.stalled } xs
    else
      let sl := x.slots
      let sent := SMap.set f.link.sentSlots x.vc.code ((creditOf f.link.sentSlots x.vc + sl.length) % 4096)
      Fill.take { f with
        slots := f.slots ++ sl.take room, txns := f.txns ++ [x]
        cut := if room < sl.length then some (x, sl.drop room) else none
        link := { f.link with sentSlots := sent } } xs

/-- The slots of the next new DATA flit. -/
def Link.fill (l : Link) : Fill :=
  match l.cut with
  | some (x, r) =>
    let f : Fill := { slots := r.take 14, txns := [x], link := l }
    if 14 < r.length then { f with left := l.txq, cut := some (x, r.drop 14) } else f.take l.txq
  | none => ({ link := l } : Fill).take l.txq

/-- A DELAY_REQ of the running exchange that leaves sets t3 (13 R506); the link may be in recovery then (R507). -/
def State.stampDelayReq (s : State) (k : Nat) (txns : List Txn) : State :=
  let rec_ := (s.linkOf k).episode.isSome
  match s.time.ex with
  | some e =>
    if txns.any (fun x => x.type == .time && decide (nfld (ofBytesLE x.data) 1 0 = 1 ∧ nfld (ofBytesLE x.data) 31 16 = e.seq))
      && e.t3.isNone then
      { s with time := { s.time with ex := some { e with t3 := some s.stamp, recov := e.recov || rec_ } } }
    else s
  | none => s

/-- The injection of bad CRCs on a link (15 R594 code 7): whether this flit is hit. -/
def State.injCrc (s : State) (k : Nat) : Bool × State :=
  let c := s.reg rRelInjCtl
  if s.sec.inj.armed ∧ fld c 3 0 = 7 ∧ fld c 26 16 = k then
    let n := s.sec.inj.left - 1
    (true, { s with sec := { s.sec with inj := { s.sec.inj with left := n, armed := decide (n ≠ 0) } } })
  else (false, s)

/-- The half of the lanes as a mask. -/
def halfMask (h : Nat) : Nat := if h = 0 then 0x0F else 0xF0

/-- Lanes are aligned again: neither direction has a block in hand (R449). -/
def Link.realign (l : Link) : Link := { l with blocks := [], rxBlocks := [], rxLock := false }

/-- The link enters NARROW (R477). -/
def State.enterNarrow (s : State) (k half : Nat) : State :=
  let s := s.modLink k (fun l => { l.realign with
    st := .narrow, half := half, narrowReq := none, lcfOut := {}, lcfIn := none })
  (s.addRegF (linkReg k 0x20) 55 48 1).log .linkNarrow .amber none k (halfMask half)

/-- Sends one DATA flit. -/
def State.sendData (s : State) (k : Nat) (f : KeptFlit) (g : Link → Link) : State :=
  let (bad, s) := s.injCrc k
  s.modLink k (fun l => (g l).put ((g l).dataFlit f s.txt bad))

/-- A DATA flit, resent or new, or an IDLE flit. -/
def State.sendFlit (s : State) (k : Nat) : State :=
  let l := s.linkOf k
  match l.replay.filter (0 < ·) with
  | some n =>
    match l.kept[l.kept.length - n]? with
    | some f => s.sendData k f (fun l => { l with pos := l.pos + 1, replay := if n = 1 then none else some (n - 1) })
    | none => s.modLink k (fun l => { l with replay := none })
  | none =>
    let f := l.fill
    if f.slots.isEmpty ∨ 512 ≤ l.kept.length then
      s.modLink k (fun l => { l.put (l.idleFlit s.txt) with pos := l.pos + 1 })
    else
      let kf : KeptFlit := { seq := l.nextSeq, slots := f.slots, txns := f.txns }
      (s.stampDelayReq k f.txns).sendData k kf (fun l => { l with
        pos := l.pos + 1, txq := f.left, cut := f.cut, sentSlots := f.link.sentSlots
        nextSeq := (l.nextSeq + 1) % 4096, kept := l.kept ++ [kf] })

/-- Sends a link-control flit. The one that carries NARROW_ACK leaves whole before the link enters NARROW. -/
def State.sendLcf (s : State) (k : Nat) (caps : List Byte) : State :=
  let l := s.linkOf k
  let s := s.modLink k (fun l => l.put (l.lcf caps s.txt))
  if l.st = .active ∧ l.lcfOut.cmd = 2 then (s.modLink k (·.flush s.txt)).enterNarrow k l.lcfOut.arg else s

/-- One flit position of a link. -/
def State.transmit (s : State) (k : Nat) : State :=
  let l := s.linkOf k
  match l.st with
  | .caps => (s.modLink k (fun l => { l with lcfOut := { cmd := 4 } })).sendLcf k (s.capsRecord k)
  | .down => if l.lcfOut.cmd = 3 then s.sendLcf k [] else s
  | .active =>
    if l.pos % 35 = 34 then (s.modLink k (fun l => { l with pos := l.pos + 1 })).sendLcf k [] else s.sendFlit k
  | _ => s

def execFlitTransmit (k : Nat) (s : State) : Host.Outcome State Fault Refusal :=
  if 36 ≤ k then .next s else .next ((s.retryStuck k).transmit k)

/-! Replay (R460 to R462, R476, R477) -/

/-- The half of the lanes that added the fewest corrected symbols during the episode, in both directions. -/
def Link.pickHalf (l : Link) : Nat :=
  let (c0, p0) := match l.episode with
    | some (_, c, p) => (c, p)
    | none => ([], [])
  let add (lo : Nat) : Nat := ([lo, lo + 1, lo + 2, lo + 3].map (fun i =>
    (l.corr.getD i 0 - c0.getD i 0) + (l.pcorr.getD i 0 - p0.getD i 0))).foldl (· + ·) 0
  if add 4 < add 0 then 1 else 0

/-- A replay is needed: one attempt, or the next rung of the ladder. -/
def State.startReplay (s : State) (k : Nat) : State :=
  let l := s.linkOf k
  if l.kept.isEmpty ∨ l.replay.isSome ∨ l.narrowReq.isSome ∨ l.lcfOut.cmd = 2 then s
  else if 8 ≤ l.attempts then
    if l.narrow then s.linkDown k .ladder
    else
      let h := l.pickHalf
      s.modLink k (fun l => { l with narrowReq := some h, lcfOut := { cmd := 1, arg := h } })
  else
    let s := s.addRegF (linkReg k 0x20) 31 16 1
    let top := match l.kept.getLast? with | some f => f.seq | none => 0
    s.modLink k (fun l =>
      let l := { l with attempts := l.attempts + 1, replay := some l.kept.length }
      if l.episode.isSome then l else { l with episode := some (top, l.corr, l.pcorr), epAt := s.now })

def execReplayTimer (k : Nat) (s : State) : Host.Outcome State Fault Refusal :=
  if (s.linkOf k).st = .active then .next (s.startReplay k) else .next s

/-- ACK covers the flits up to a SEQ (R460); an episode ends when its highest SEQ is passed (R476). -/
def State.takeAck (s : State) (k a : Nat) : State :=
  let l := s.linkOf k
  match l.kept.findIdx? (fun f => f.seq == a) with
  | none => s
  | some i =>
    let gone := l.kept.take (i + 1)
    let rest := l.kept.drop (i + 1)
    let done := match l.episode with
      | some (top, _, _) => gone.any (fun f => f.seq == top)
      | none => false
    let s := if done then s.holdTimers.log .linkEpisode .amber none k l.attempts else s
    s.modLink k (fun l => { l with
      kept := rest, attempts := 0, episode := if done then none else l.episode
      replay := l.replay.bind (fun n => if rest.isEmpty then none else some (min n rest.length)) })

/-- ACK, NAK and credits of a received flit. -/
def State.takeHeader (s : State) (k hdr : Nat) : State :=
  let s := s.takeAck k (nfld hdr 27 16)
  let cr := [(0, nfld hdr 75 64), (1, nfld hdr 87 76), (2, nfld hdr 99 88), (3, nfld hdr 111 100), (4, nfld hdr 123 112)]
  let s := s.modLink k (fun l => { l with granted := cr })
  if hdr.testBit 28 then s.startReplay k else s

/-- Corrected symbols of a codeword, by index, counted on their lanes (R448, R492). -/
def State.countFec (s : State) (k : Nat) (fixed : List Nat) : State :=
  (s.addRegF (linkReg k 0x28) 63 0 fixed.length).modLink k (fun l => { l with
    corr := (List.range 8).map (fun j => (l.corr.getD j 0 + (fixed.filter (fun i => l.laneOf i = j)).length) % 2 ^ 32) })

/-- Adds the blocks of a codeword to those received; before the receiver has locked, it skips to the first F bit. -/
def Link.addBlocks (l : Link) (bl : List (BitVec 257)) (bad : Bool) : Link :=
  let bl := if l.rxLock then bl else if bad then [] else bl.dropWhile (fun b => !bit b 0)
  { l with rxBlocks := l.rxBlocks ++ bl.map (fun b => ⟨b, bad⟩), rxLock := l.rxLock || !bl.isEmpty }

/-- Decodes a received codeword (R447, R448); none has arrived with an empty list. An uncorrectable one marks each
flit with a byte in it as bad. -/
def State.takeCodeword (s : State) (k : Nat) (cw : List (BitVec 10)) : State :=
  if cw.isEmpty then s
  else
    let syms := cw.map (·.toNat)
    match linkCode.decode syms with
    | some (w, fixed) => (s.countFec k fixed).modLink k (fun l => l.addBlocks (codewordBlocks w) false)
    | none => (s.addRegF (linkReg k 0x20) 47 32 1).modLink k (fun l => l.addBlocks (codewordBlocks syms) true)

/-- The next received flit, once its eight blocks have arrived, and its mark. -/
def Link.nextFlit (l : Link) : Option (List Byte × Bool) :=
  if l.rxBlocks.length < 8 then none
  else
    let bl := l.rxBlocks.take 8
    some (bl.flatMap (fun b => toBytesLE 32 (b.bits.toNat / 2)), bl.any (·.bad))

def Link.dropFlit (l : Link) : Link := { l with rxBlocks := l.rxBlocks.drop 8 }

/-- A flit of 256 bytes whose CRC is right and that the decoder has not marked. -/
def flitGood (bs : List Byte) (bad : Bool) : Bool :=
  !bad && decide (bs.length = 256) && decide (ofBytesLE (bs.drop 252) = crc32 (bs.take 252))

/-- The used slots of a DATA flit. -/
def flitSlots (bs : List Byte) : List Slot :=
  let hdr := ofBytesLE (bs.take 16)
  (List.range 14).filterMap (fun i =>
    if hdr.testBit (46 + i) then
      some ⟨hdr.testBit (32 + i), BitVec.ofNat 128 (ofBytesLE ((bs.drop (16 + 16 * i)).take 16))⟩
    else none)

/-- Slots freed in a receive buffer (R458). -/
def Link.free (l : Link) (v : VC) (n : Nat) : Link :=
  { l with freed := SMap.set l.freed v.code ((creditOf l.freed v + n) % 4096) }

/-- A DATA flit in order is accepted. -/
def State.acceptFlit (s : State) (k : Nat) (bs : List Byte) (stamp : Nat) : State :=
  s.modLink k (fun l =>
    let sl := l.part ++ flitSlots bs
    let (xs, rest) := takeTxns sl.length sl
    let txt := ofBytesLE ((bs.drop 240).take 8)
    { l with ack := nfld (ofBytesLE (bs.take 16)) 15 4, nak := false, part := rest
             rx := l.rx ++ xs.map (fun x => { txn := x, txt := txt, stamp := stamp }) })

/-- The states in which a link receives flits. -/
def Link.receives (l : Link) : Bool := l.st == .active || l.st == .caps || l.st == .narrow

/-- A link-control flit that passes its checks. -/
def goodLcf (bytes : List Byte) (bad : Bool) : Bool := flitGood bytes bad && nfld (ofBytesLE (bytes.take 16)) 3 0 == 3

/-- A received flit that is no good LCF (R456, R460, R461). A bad one is discarded whole; in ACTIVE a discarded DATA
flit asks for a replay. -/
def State.takeFlit (s : State) (k : Nat) (bytes : List Byte) (bad : Bool) (stamp : Nat) : State :=
  let hdr := ofBytesLE (bytes.take 16)
  let nak (s : State) : State := s.modLink k (fun l => { l with nak := true })
  if !flitGood bytes bad then
    let s := s.addRegF (linkReg k 0x20) 15 0 1
    if (s.linkOf k).st = .active ∧ nfld hdr 3 0 = 1 then nak s else s
  else if (s.linkOf k).st ≠ .active then s
  else
    let s := s.takeHeader k hdr
    if nfld hdr 3 0 ≠ 1 then s
    else if nfld hdr 15 4 = ((s.linkOf k).ack + 1) % 4096 then
      (if (s.linkOf k).nak then s.holdTimers else s).acceptFlit k bytes stamp
    else nak s

/-- A good link-control flit (R459). -/
def State.takeLcf (s : State) (k : Nat) (bytes : List Byte) : State :=
  let s := if (s.linkOf k).st = .active then s.takeHeader k (ofBytesLE (bytes.take 16)) else s
  let b (i n : Nat) : Nat := ofBytesLE ((bytes.drop i).take n)
  let c : LcfCmd := { cmd := b 0x10 1, arg := b 0x11 1, id := b 0x12 2, caps := (bytes.drop 0x40).take 32 }
  s.modLink k (fun l => { l with
    pcorr := (List.range 8).map (fun i => b (0x14 + 4 * i) 4)
    lcfIn := if c.cmd = 0 then l.lcfIn else some c })

/-- The codeword whose symbols i with i mod 4 = j are stream j, for the streams 0 to 3 (R447). -/
def unstripe : List (BitVec 10) → List (BitVec 10) → List (BitVec 10) → List (BitVec 10) → List (BitVec 10)
  | w :: a, x :: b, y :: c, z :: d => w :: x :: y :: z :: unstripe a b c d
  | _, _, _, _ => []

/-- A flit has arrived, with the codeword, if any, that completes it. The row takes the next flit if it is of the
row's kind: LCF_RECEIVE a good link-control flit, FLIT_RECEIVE any other. -/
def State.receive (s : State) (k : Nat) (cw : List (BitVec 10)) (lcf : Bool) (act : State → List Byte → Bool → State) :
    State :=
  if !(s.linkOf k).receives || decide (36 ≤ k) then s
  else
    let s := s.takeCodeword k cw
    match (s.linkOf k).nextFlit with
    | none => s
    | some (bytes, bad) => if goodLcf bytes bad == lcf then act (s.modLink k Link.dropFlit) bytes bad else s

def execFlitReceive (k : Nat) (a b c d : List (BitVec 10)) (stamp : Nat) (s : State) :
    Host.Outcome State Fault Refusal :=
  .next (s.receive k (unstripe a b c d) false (fun s bytes bad => s.takeFlit k bytes bad stamp))

def execLcfReceive (k : Nat) (a b c d : List (BitVec 10)) (s : State) : Host.Outcome State Fault Refusal :=
  .next (s.receive k (unstripe a b c d) true (fun s bytes _ => s.takeLcf k bytes))

/-- The command of a code received and not yet acted on. -/
def State.lcf (s : State) (k cmd : Nat) : Option LcfCmd := (s.linkOf k).lcfIn.filter (fun c => c.cmd == cmd)

def Link.doneLcf (l : Link) : Link := { l with lcfIn := none }

/-- This end has the lower SERIAL. -/
def State.lowSerial (s : State) (k : Nat) : Bool := decide ((s.reg rMgtSerial).toNat < (s.linkOf k).partner.serial)

def execNarrowReq (k : Nat) (s : State) : Host.Outcome State Fault Refusal :=
  match s.lcf k 1 with
  | none => .next s
  | some c =>
    let l := s.linkOf k
    let s := s.modLink k Link.doneLcf
    if l.st ≠ .active ∨ l.narrow ∨ (l.narrowReq.isSome ∧ s.lowSerial k) then .next s
    else .next (s.modLink k (fun l => { l with narrowReq := none, half := c.arg % 2, lcfOut := { cmd := 2, arg := c.arg % 2 } }))

def execNarrowAck (k : Nat) (s : State) : Host.Outcome State Fault Refusal :=
  match s.lcf k 2, (s.linkOf k).narrowReq with
  | some c, some h =>
    if (s.linkOf k).st = .active ∧ c.arg = h then .next (s.enterNarrow k h) else .next (s.modLink k Link.doneLcf)
  | some _, none => .next (s.modLink k Link.doneLcf)
  | none, _ => .next s

def execNarrowDone (k : Nat) (s : State) : Host.Outcome State Fault Refusal :=
  if (s.linkOf k).st ≠ .narrow then .next s
  else .next (s.modLink k (fun l => { l with
    st := .active, narrow := true, lanes := halfMask l.half, pos := 0, attempts := 0
    replay := if l.kept.isEmpty then none else some l.kept.length }))

def execDownNotice (k : Nat) (s : State) : Host.Outcome State Fault Refusal :=
  match s.lcf k 3 with
  | some _ => .next ((s.modLink k Link.doneLcf).linkDown k .partner)
  | none => .next s

def execIdUpdate (k : Nat) (s : State) : Host.Outcome State Fault Refusal :=
  match s.lcf k 5 with
  | some c => .next (s.modLink k (fun l => { l.doneLcf with partner := { l.partner with id := c.id % 16384 } }))
  | none => .next s

/-! Training (R449 to R453) -/

def execSignalDetect (k : Nat) (s : State) : Host.Outcome State Fault Refusal :=
  if (s.linkOf k).st = .detect then .next (s.modLink k (fun l => { l with st := .equalize })) else .next s

def execEqualizeDone (k : Nat) (loss : Nat) (s : State) : Host.Outcome State Fault Refusal :=
  if (s.linkOf k).st = .equalize then .next (s.modLink k (fun l => { l with st := .align, loss := min loss 0x3FF }))
  else .next s

/-- The lanes both ends settle on, and whether that is ×4. -/
def alignLanes (own partner : Nat) : Option (Nat × Bool) :=
  let both := own % 256 &&& partner % 256
  if both = 0xFF then some (0xFF, false)
  else if both &&& 0x0F = 0x0F then some (0x0F, true)
  else if both &&& 0xF0 = 0xF0 then some (0xF0, true)
  else none

def execAlignDone (k ploss lanes planes : Nat) (pfull : Bool) (s : State) : Host.Outcome State Fault Refusal :=
  let l := s.linkOf k
  if l.st ≠ .align then .next s
  else
    let worst := max l.loss ploss
    let full := decide (worst ≤ 300) && pfull && decide (s.regF (linkReg k 0) 5 4 = 0)
    let s := s.modLink k (fun l => { l.realign with ploss := min ploss 0x3FF, aligned := lanes % 256 })
    if 400 < worst then .next (s.linkDown k .loss)
    else match alignLanes lanes planes with
      | none => .next (s.linkDown k .lanes)
      | some (m, n) => .next (s.modLink k (fun l => { l with st := .caps, lanes := m, narrow := n, slow := !full, lcfIn := none }))

/-- The partner as its capability record describes it. -/
def Partner.ofRecord (c : List Byte) : Partner :=
  let b (i n : Nat) : Nat := ofBytesLE ((c.drop i).take n)
  { id := b 0x10 2 % 16384, link := b 0x12 1 % 64, serial := b 8 8, rates := b 0x14 1 % 4, lanes := b 0x13 1, msgset := b 0x15 1,
    mcf := b 0x1E 2, hcf := b 0x18 2 }

/-- The check of R453 that a record fails, if any. -/
def State.capsReject (s : State) (c : List Byte) : Option DownReason :=
  let b (i n : Nat) : Nat := ofBytesLE ((c.drop i).take n)
  let own : FwObj := SMap.get {} s.mgt.running 2
  if b 6 2 ≠ 0x0C4A ∨ b 4 2 ≠ 0x4800 ∨ b 0x15 1 % 16 ≠ 15 then some .caps
  else if b 8 8 = (s.reg rMgtSerial).toNat then some .self
  else if own.version < b 0x1A 2 ∨ b 0x1C 2 < own.version ∨ b 0x18 2 < own.linkLo ∨ own.linkHi < b 0x18 2 then some .fw
  else none

def execCaps (k : Nat) (s : State) : Host.Outcome State Fault Refusal :=
  match s.lcf k 4 with
  | none => .next s
  | some c =>
    if (s.linkOf k).st ≠ .caps then .next s
    else
      let s := s.modLink k (fun l => { l.doneLcf with partner := Partner.ofRecord c.caps })
      match s.capsReject c.caps with
      | some r => .next (s.linkDown k r)
      | none => .next (s.modLink k (fun l => { l with st := .measure }))

/-- A quotient rounded to nearest; a tie goes to a free choice (R452 gives none). -/
def State.roundDiv (s : State) (a b : Nat) : Nat × State :=
  if 2 * (a % b) < b then (a / b, s)
  else if b < 2 * (a % b) then (a / b + 1, s)
  else
    let (w, s) := s.free
    (a / b + (if bit w 0 then 1 else 0), s)

/-- A link as it enters ACTIVE from training: sequence numbers and credits start from zero (R449). -/
def Link.fresh (l : Link) : Link :=
  { l with st := .active, reason := .none, returns := 0, pos := 0, nextSeq := 0, kept := [], cut := none, replay := none,
           attempts := 0, episode := none, ack := 0xFFF, nak := false, part := [], freed := [], granted := [],
           sentSlots := [], corr := [], pcorr := [], lcfOut := {}, idOut := none, lcfIn := none, narrowReq := none }

def execMeasureDone (k : Nat) (sum : Nat) (s : State) : Host.Outcome State Fault Refusal :=
  if (s.linkOf k).st ≠ .measure then .next s
  else
    let (rtt, s) := s.roundDiv sum 64
    let (fl, s) := s.roundDiv rtt 2
    let s := s.modLink k (fun l => { l with rtt := min rtt 0xFFFF, flight := min fl 0xFFFF })
    if 10000 < fl then .next (s.linkDown k .long)
    else
      let auto := decide (s.regF (linkReg k 0) 3 3 = 1)
      .next (s.modLink k (fun l => { l.fresh with
        routed := !s.mgt.xstop && (auto || !l.wasActive), wasActive := true }))

/-- The link returns to DETECT and trains again. -/
def Link.toDetect (l : Link) : Link := { l with st := .detect, mute := none, lcfIn := none, lcfOut := {}, idOut := none }

def execTrainBoundExpiry (k : Nat) (s : State) : Host.Outcome State Fault Refusal :=
  let l := s.linkOf k
  match l.st with
  | .equalize | .align | .caps | .measure =>
    if 2 ≤ l.returns then .next (s.linkDown k .train)
    else .next (s.modLink k (fun l => { l.toDetect with returns := l.returns + 1 }))
  | .narrow => .next (s.linkDown k .ladder)
  | _ => .next s

def execSignalLoss (k : Nat) (s : State) : Host.Outcome State Fault Refusal :=
  match (s.linkOf k).st with
  | .equalize | .align | .caps | .measure | .active | .narrow => .next (s.linkDown k .signal)
  | _ => .next s

def execLinkRetrainTimer (k : Nat) (s : State) : Host.Outcome State Fault Refusal :=
  let l := s.linkOf k
  match l.st, l.reason with
  | .down, .signal | .down, .ladder | .down, .partner => .next (s.modLink k Link.toDetect)
  | _, _ => .next s

/-! LNK_CTL (R478, R480, R488) -/

/-- Start-up has reached link training, and the links are not held in DISABLED (16 R630). -/
def State.linksMayTrain (s : State) : Bool :=
  decide (3 ≤ s.mgt.phase.code) && decide (s.mgt.phase ≠ .sit) && !s.power.jet && !s.sec.crimson

/-- The effects of a write to LNK_CTL that writes EN, with its written bits, after its RW fields have been stored. -/
def State.linkCtl (s : State) (k : Nat) (v : Word) : State :=
  let l := s.linkOf k
  let s :=
    if bit v 0 then
      if l.st = .disabled ∧ s.linksMayTrain then s.modLink k (fun l => { l.toDetect with returns := 0 }) else s
    else if l.st = .disabled then s
    else (s.linkDown k .disabled).modLink k (fun l => { l with st := .disabled, reason := .disabled, lcfOut := {}, returns := 0 })
  let s :=
    if bit v 1 then
      if l.st = .down ∧ bit v 0 then s.modLink k (fun l => { l.toDetect with returns := 0 }) else s.config none (linkReg k 0)
    else s
  if bit v 2 ∧ (s.linkOf k).st = .active ∧ !s.mgt.xstop then s.modLink k (fun l => { l with routed := true }) else s

end Sys2Proof.Machine
end

