-- ==== Sys2Proof/Machine/LinkLocal.lean ====
section
/-! DEFINITION. Link-local messages: enumeration (12 R483 to R486) and global time (13 R501 to R513). -/
namespace Sys2Proof.Machine

/-! Taking received transactions -/

/-- The oldest received transaction of a virtual channel, if a test holds of it; the slots it took are freed. -/
def State.takeRx (s : State) (k : Nat) (v : VC) (p : Txn → Bool) : Option (RxTxn × State) :=
  match (s.linkOf k).rx.find? (fun r => r.txn.vc == v) with
  | none => none
  | some r =>
    if p r.txn then
      some (r, s.modLink k (fun l =>
        let l := { l with rx := l.rx.erase r }
        if r.own then l else l.free v r.txn.nSlots))
    else none

/-! Enumeration (R483 to R486) -/

def State.modEnum (s : State) (f : EnumSt → EnumSt) : State := { s with link := { s.link with en := f s.link.en } }

/-- The holder of the token visits its next ACTIVE link, or ends (R484). -/
def State.visitNext (s : State) (after : Option Nat) : State :=
  let e := s.link.en
  let lo := match after with | some j => j + 1 | none => 0
  match (List.range 36).find? (fun k => decide (lo ≤ k) && (s.linkOf k).st == .active && e.parent != some k) with
  | some k => (s.modEnum (fun e => { e with waiting := some k })).sendEnum k e.next 0 0
  | none =>
    if e.root then s.modEnum (fun e => { e with waiting := none, holding := false, done := true, nextOut := e.next })
    else
      let s := s.modEnum (fun e => { e with waiting := none, holding := false })
      match e.parent with
      | some k => s.sendEnum k e.next 1 0
      | none => s

/-- What follows a mismatch with the expected ID (R486, 17 R649). -/
def State.xmismatch (s : State) : State :=
  let s := (s.modEnum (fun e => { e with xmismatch := true })).setRegF rMgtAlert 2 2 1
  let s := s.config none rEnumXid
  if s.mgt.bootCfg.testBit 3 then
    let s := { s.startFail 4 with mgt := { (s.startFail 4).mgt with xstop := true } }
    { s with link := { s.link with links := s.link.links.map (fun kl => (kl.1, { kl.2 with routed := false })) } }
  else s

/-- The module takes a device ID (R486). -/
def State.takeId (s : State) (d : Nat) : State :=
  let s := s.modEnum (fun e => { e with devid := d })
  let s := { s with link := { s.link with links := s.link.links.map (fun kl =>
    (kl.1, if kl.2.st == .active then { kl.2 with idOut := some d } else kl.2)) } }
  if s.regF rEnumCfg 1 1 = 1 ∧ s.regF rEnumXid 14 14 = 1 ∧ s.regF rEnumXid 13 0 ≠ d then s.xmismatch else s

/-- START written to LNK_ENUM_CFG, after its RW fields have been stored (R483). -/
def State.startEnum (s : State) : State :=
  if s.regF rEnumCfg 0 0 = 0 ∨ s.link.en.started then s.config none rEnumCfg
  else
    let d := s.regF rEnumCfg 29 16
    let s := s.modEnum (fun e => { e with started := true, root := true, rootId := d, next := d + 1, holding := true })
    (s.takeId d).visitNext none

def isEnum (kind : Nat) (x : Txn) : Bool := x.type == .enum && decide (nfld (ofBytesLE x.data) 15 14 = kind)

def execEnumToken (k : Nat) (s : State) : Host.Outcome State Fault Refusal :=
  match s.takeRx k .msg (isEnum 0) with
  | none => .next s
  | some (r, s) =>
    let w := ofBytesLE r.txn.data
    let n := nfld w 13 0
    let root := nfld w 31 18
    if s.link.en.devid ≠ 0x3FFF then .next (s.sendEnum k n 2 0)
    else if 0x3FFE < n then .next ((s.modEnum (fun e => { e with rootId := root })).sendEnum k n 3 1)
    else
      let s := s.modEnum (fun e => { e with started := true, rootId := root, next := n + 1, parent := some k, holding := true })
      .next ((s.takeId n).visitNext none)

/-- A token comes back on the link it was sent on. -/
def State.tokenBack (s : State) (k kind : Nat) (f : State → Nat → State) : State :=
  match s.takeRx k .msg (isEnum kind) with
  | none => s
  | some (r, s) => if s.link.en.waiting = some k then f s (ofBytesLE r.txn.data) else s

def execEnumReturn (k : Nat) (s : State) : Host.Outcome State Fault Refusal :=
  .next (s.tokenBack k 1 (fun s w => (s.modEnum (fun e => { e with next := nfld w 13 0 })).visitNext (some k)))

def execEnumBusy (k : Nat) (s : State) : Host.Outcome State Fault Refusal :=
  .next (s.tokenBack k 2 (fun s _ => s.visitNext (some k)))

def execEnumFail (k : Nat) (s : State) : Host.Outcome State Fault Refusal :=
  .next (s.tokenBack k 3 (fun s w => (s.modEnum (fun e => { e with next := nfld w 13 0 })).enumFail (nfld w 17 16)))

/-! Time messages (13 R503 to R506) -/

def State.timSrc (s : State) : Nat := s.regF rTimCfg 1 0

/-- The upstream link. -/
def State.upstream (s : State) : Option Nat :=
  if s.timSrc ≠ 2 then none
  else if s.regF rTimCfg 7 2 = 0x3F then s.link.en.parent
  else some (s.regF rTimCfg 7 2)

/-- The data of a TIME message. -/
def State.timeData (s : State) (kind seq t : Nat) : List Byte :=
  toBytesLE 16 (kind + (if s.time.locked then 4 else 0) + (if s.timSrc = 2 then s.time.depth else 0) <<< 3 + (seq % 65536) <<< 16
    + t <<< 64)

def State.sendTime (s : State) (k kind seq t : Nat) : State :=
  let x : Txn := { type := .time, vc := .msg, src := s.link.en.devid, len := 16, data := s.timeData kind seq t }
  s.modLink k (fun l => { l with txq := l.txq ++ [x] })

def execSyncSend (s : State) : Host.Outcome State Fault Refusal :=
  if s.timSrc ≠ 2 ∨ s.time.locked then
    let seq := s.time.syncSeq
    let s := (List.range 36).foldl (fun (s : State) k =>
      if (s.linkOf k).st = .active then s.sendTime k 0 seq 0 else s) s
    .next { s with time := { s.time with syncSeq := (seq + 1) % 65536 } }
  else .next s

/-- A TIME message of a kind; none when it is malformed. -/
def timeMsg (x : Txn) : Option (Nat × Nat) :=
  let w := ofBytesLE x.data
  let kind := nfld w 1 0
  if kind = 3 ∨ nfld w 15 7 ≠ 0 ∨ nfld w 63 32 ≠ 0 ∨ (kind ≠ 2 ∧ nfld w 127 64 ≠ 0) then none else some (kind, w)

/-- Takes a TIME message of a kind from a link; malformed ones are taken, to be discarded, with SYNC. -/
def State.takeTime (s : State) (k kind : Nat) : Option (RxTxn × Nat × State) :=
  match s.takeRx k .msg (fun x => x.type == .time && 
      (decide (nfld (ofBytesLE x.data) 1 0 = kind) || (kind == 0 && (timeMsg x).isNone))) with
  | none => none
  | some (r, s) => some (r, ofBytesLE r.txn.data, s)

/-- A 64-bit stamp in units of 2^-16 ns from 48 bits of ns and 16 of fraction. -/
def stampOf (w : Nat) : Nat := nfld w 47 0 <<< 16 + nfld w 63 48

def execSync (k : Nat) (s : State) : Host.Outcome State Fault Refusal :=
  match s.takeTime k 0 with
  | none => .next s
  | some (r, w, s) =>
    if (timeMsg r.txn).isNone ∨ s.upstream ≠ some k ∨ !w.testBit 2 then .next s
    else
      let seq := nfld w 31 16
      let e : Exchange := { seq := seq, t1 := stampOf r.txt, t2 := r.stamp, recov := (s.linkOf k).episode.isSome }
      let s := { s with time := { s.time with ex := some e, depth := min 15 (nfld w 6 3 + 1) } }
      .next (s.sendTime k 1 seq 0)

def execDelayReq (k : Nat) (s : State) : Host.Outcome State Fault Refusal :=
  match s.takeTime k 1 with
  | none => .next s
  | some (r, w, s) =>
    if (timeMsg r.txn).isNone then .next s
    else .next (s.sendTime k 2 (nfld w 31 16) (r.stamp / 2 ^ 16 % 2 ^ 48 + (r.stamp % 2 ^ 16) <<< 48))

/-! The servo (13 R507 to R511) -/

/-- A step of the counter by an amount in units of 2^-48 ns: slices restart and STEPS counts (R498, R513). -/
def State.countStep (s : State) : State :=
  let s := s.addRegF rTimStatus 63 32 1
  { s with fe := { s.fe with turns := s.fe.turns.map (fun x => { x with since := s.now }) } }

def State.stepTime (s : State) (d : Int) : State :=
  State.countStep { s with time := { s.time with ctr := (((s.time.ctr : Int) + d) % (2 : Int) ^ 112).toNat } }

def clampRate (v : Int) : Int := if v < -429497 then -429497 else if 429497 < v then 429497 else v

/-- A difference of two stamps, modulo 2^64 units, as a signed number. -/
def stampDiff (a b : Nat) : Int := toSigned 64 (ofSigned 64 ((a : Int) - b))

/-- The servo on an accepted offset of twice θ in units of 2^-16 ns; `bound` is the lock bound in the same units.
The term that integrates θ has no stated gain: a free value. -/
def State.servo (s : State) (th2 bound : Int) : State :=
  let (w, s) := s.free
  let integ := toSigned 32 (fld w 31 0)
  if 131072000 < th2.natAbs then
    let s := s.stepTime (-(th2 * 2 ^ 31))
    { s with time := { s.time with locked := false, good := 0, holdover := false } }
  else
    let base := -(th2 * 32768).tdiv 100000
    let good := if (th2.natAbs : Int) ≤ bound then s.time.good + 1 else 0
    { s with time := { s.time with
      rate := clampRate (base + integ), integ := integ, holdover := false, good := min good 16
      locked := s.time.locked || decide (16 ≤ good) } }

/-- A DELAY_RESP closes the exchange (R506 to R508). -/
def State.closeExchange (s : State) (k : Nat) (e : Exchange) (t3 t4 : Nat) : State :=
  let s := { s with time := { s.time with ex := none } }
  let a := stampDiff (e.t2 % 2 ^ 64) e.t1
  let b := stampDiff t4 (t3 % 2 ^ 64)
  let d2 := a + b
  let bad := (10 * d2 - 131072 * ((s.linkOf k).flight : Int)).natAbs
  if 1310720 < bad ∨ e.recov ∨ (s.linkOf k).episode.isSome then s else s.servo (a - b) 131072

def execDelayResp (k : Nat) (s : State) : Host.Outcome State Fault Refusal :=
  match s.takeTime k 2 with
  | none => .next s
  | some (r, w, s) =>
    match timeMsg r.txn, s.time.ex with
    | some _, some e =>
      match e.t3 with
      | some t3 =>
        if e.seq = nfld w 31 16 ∧ s.upstream = some k then
          .next (s.closeExchange k e t3 (stampOf (nfld w 127 64)))
        else .next s
      | none => .next s
    | _, _ => .next s

def execExchangeTimeout (s : State) : Host.Outcome State Fault Refusal :=
  match s.time.ex.bind (·.t3) with
  | some t3 =>
    if t3 + 327680000 ≤ s.stamp then .next { s with time := { s.time with ex := none } } else .next s
  | none => .next s

def execHoldoverEntry (s : State) : Host.Outcome State Fault Refusal :=
  if s.timSrc = 2 then .next { s with time := { s.time with locked := false, holdover := true, good := 0 } } else .next s

def execPtmDialogue (off : Int) (s : State) : Host.Outcome State Fault Refusal :=
  if s.timSrc = 1 ∧ !s.power.jet then .next (s.servo (2 * off) 524288) else .next s

/-- A write of TIM_CFG that changes SRC: the new source locks afresh, and a master has depth 0 (R501, R504). -/
def State.newTimSrc (s : State) : State :=
  { s with time := { s.time with
    locked := false, holdover := false, good := 0, ex := none, depth := if s.timSrc = 2 then 15 else 0 } }

/-- TIM_STATUS.DEEP and the rest of the computed bits (R523). -/
def State.timBits (s : State) : Nat :=
  (if s.time.locked then 1 else 0) + (if s.time.holdover then 4 else 0) + (if s.timSrc = 2 ∧ 10 < s.time.depth then 8 else 0)
    + s.time.depth <<< 8

end Sys2Proof.Machine
end

