-- ==== Sys2Proof/Machine/Secure.lean ====
section
/-! DEFINITION. Locks, partition maps, releases and measurement registers (16_partitions_and_security.md R603 to
R631, R635 to R645; 17 R650). -/
namespace Sys2Proof.Machine

/-! Writers and lock violations (R607, R608, R617) -/

/-- The partition a writer belongs to. -/
def Writer.owner (w : Writer) (s : State) : Option Nat :=
  match w with
  | .herder t _ => s.tilePart t
  | .vf p => some p
  | .lockWr p _ => some p
  | _ => none

/-- SEC_VIOL.WRITER. -/
def Writer.code : Writer → Nat
  | .vf _ => 1 | .lockWr _ _ => 2 | _ => 0

/-- A lock violation against a register (R617). -/
def State.violation (s : State) (w : Writer) (a : Nat) : State :=
  match w.owner s with
  | none => s.log .lockViolation .none none 0x7FF a
  | some p =>
    let strict := decide (s.regF rSecCfg 0 0 = 1)
    let s := if strict then s else s.log .lockViolation .none (some p) 0x7FF a
    let s := (s.event (partPage p oViol) 50 (a + w.code <<< 48)).msix (128 * p + 66)
    if strict then s.rustError .lockViolation p 0x7FF a else s

/-! Lock groups (R613, R614, R619) -/

/-- The bits of a register that one lock bit locks; `part` is none for a module group. -/
structure LockSpan where
  part : Option Nat
  group : Nat
  mask : Word
  deriving DecidableEq, Repr

def allBits : Word := 0xFFFFFFFFFFFFFFFF

/-- The LNK_ registers and the route table. -/
def isLinkReg (a : Nat) : Bool :=
  decide (0xF00000020000 ≤ a ∧ a < 0xF00000022400) || decide (0xF00000030000 ≤ a ∧ a ≤ 0xF00000030060)
    || decide (0xF00000100000 ≤ a ∧ a < 0xF00000120000)

/-- The lock spans of a module register. -/
def modSpans (a : Nat) : List LockSpan :=
  if (0xF00000070100 ≤ a ∧ a < 0xF00000070180) ∨ a = rSecMapCommit then [⟨none, 0, allBits⟩]
  else if isLinkReg a then [⟨none, 3, allBits⟩]
  else if a = rTimCfg then [⟨none, 4, allBits⟩]
  else if a = rRelCfg then [⟨none, 5, 2⟩]
  else if a = rRelSpareCtl ∨ a = rRelInjCtl ∨ a = rRelInjAddr then [⟨none, 5, allBits⟩]
  else if a = rPwrLtr ∨ a = rPwrLtr + 8 then [⟨none, 6, allBits⟩]
  else if a = rSecBoot then [⟨none, 7, 0x10001⟩]
  else []

/-- The lock spans of a register of partition p's page. -/
def pageSpans (p off : Nat) : List LockSpan :=
  if off = oAdmit then [⟨none, 1, allBits⟩]
  else if off = oPartBw then [⟨some p, 0, allBits⟩]
  else if off = oXltCfg then [⟨some p, 1, allBits⟩]
  else if off = oCryptCtl then [⟨some p, 2, allBits⟩]
  else if off = oPartCtl then [⟨some p, 3, 0xF⟩]
  else if off = oLtr ∨ off = oLtr + 8 then [⟨some p, 5, allBits⟩]
  else if 0x1000 ≤ off ∧ off < 0x2000 then
    let r := off % 0x40
    if r = oRingBase ∨ r = oRingBaseC ∨ r = oRingCbase ∨ r = oRingGrp then [⟨some p, 4, allBits⟩]
    else if r = oRingCfg then [⟨none, 2, 0xC⟩, ⟨some p, 4, allBits ^^^ 1⟩]
    else []
  else []

/-- What locks a register (R614). -/
def lockSpans (a : Nat) : List LockSpan :=
  if 0xF00200000000 ≤ a ∧ a < 0xF00200100000 then pageSpans ((a / 0x10000) % 16) (a % 0x10000) else modSpans a

/-- SEC_LOCK and SEC_PART_LOCK as they count and read (R619). -/
def State.modLocks (s : State) : Nat := if s.sec.lockBroken then 0xFF else s.regF rSecLock 7 0
def State.partLocks (s : State) (p : Nat) : Nat :=
  if (s.part p).lockBroken then 0x3F else s.regF (partPage p oPartLock) 5 0

def State.locked (s : State) (x : LockSpan) : Bool :=
  match x.part with
  | none => s.modLocks.testBit x.group
  | some p => (s.partLocks p).testBit x.group

/-- The bits of a register that are locked now. -/
def State.lockedBits (s : State) (a : Nat) : Word :=
  (lockSpans a).foldl (fun m x => if s.locked x then m ||| x.mask else m) 0

/-- The security engine checks a partition's lock pair (R619). -/
def State.checkPartLock (s : State) (p : Nat) : State :=
  let a := partPage p oPartLock
  let (i, s) := s.injComp a
  let x := s.part p
  if x.lockBroken || (!i && x.lockC == complN 6 (s.regF a 5 0)) then s
  else (s.modPart p (fun x => { x with lockBroken := true })).withInj i (fun s => s.rustError .compPart p 0x7FF a)

/-- The check of the module's lock pair (R619). -/
def State.checkModLock (s : State) : State :=
  let (i, s) := s.injComp rSecLock
  if s.sec.lockBroken || (!i && s.sec.lockC == complN 8 (s.regF rSecLock 7 0)) then s
  else
    State.withInj { s with sec := { s.sec with lockBroken := true } } i (fun s => s.crimsonError .compModule rSecLock)

/-- The pairs are checked at a write to a lockable register: the module's, and that of the register's partition. -/
def State.checkLocks (s : State) (a : Nat) : State :=
  if (lockSpans a).isEmpty then s
  else
    let s := s.checkModLock
    match (lockSpans a).findSome? (·.part) with
    | some p => s.checkPartLock p
    | none => s

/-- New lock bits are stored with their complement. -/
def State.putPartLock (s : State) (p v : Nat) : State :=
  (s.setRegF (partPage p oPartLock) 5 0 v).modPart p (fun x => { x with lockC := complN 6 v })
def State.putModLock (s : State) (v : Nat) : State :=
  let s := s.setRegF rSecLock 7 0 v
  { s with sec := { s.sec with lockC := complN 8 v } }

/-! SEC_PMR (R635) -/

def Part.pmrBytes (x : Part) : List Byte := (x.pmr ++ List.replicate 48 0).take 48

/-- PMR = SHA-384(PMR ‖ data). -/
def State.extendPmr (s : State) (p : Nat) (data : List Byte) : State :=
  s.modPart p (fun x => { x with pmr := sha384 (x.pmrBytes ++ data) })

/-- The 48 bytes written to SEC_PMR_EXT0 to SEC_PMR_EXT5. -/
def State.extBytes (s : State) (p : Nat) : List Byte :=
  (List.range 6).flatMap (fun w => toBytesLE 8 (s.reg (partPage p (oPmrExt w))).toNat)

/-- A write of EXTEND (R644). -/
def State.startExtend (s : State) (part : Option Nat) (p : Nat) : State :=
  if (s.part p).pmrBusy then s.config part (partPage p oPmrCtl)
  else (s.extendPmr p (s.extBytes p)).modPart p (fun x => { x with pmrBusy := true })

def execPmrExtendDone (p : Nat) (s : State) : Host.Outcome State Fault Refusal :=
  if (s.part p).pmrBusy then .next (s.modPart p (fun x => { x with pmrBusy := false })) else .next s

/-! Releases (17 R650) -/

/-- The steps of a first release and of a release from HELD. -/
def State.releasePart (s : State) (p : Nat) : State :=
  let s := s.modPart p (fun x => { x with pmr := List.replicate 48 0 })
  let s := s.extendPmr p (toBytesLE 8 (s.reg (rSecMap p)).toNat)
  let s := s.extendPmr p (toBytesLE 8 (s.partLocks p))
  let s := s.modPart p (fun x => { x with st := .normal, released := true })
  let s := { s with fe := { s.fe with stopped := s.fe.stopped.filter (· != p) } }
  s.applyLtr p

/-- READY, and no map commit is zeroing. -/
def State.mayRelease (s : State) : Bool := decide (s.mgt.phase = .ready) && !s.sec.mapBusy

/-- The conditions of a first release. -/
def State.firstOk (s : State) (p : Nat) : Bool :=
  !(s.part p).released && s.mayRelease && decide (0 < s.nCol p)
    && (match (s.part p).st with | .normal | .held => true | _ => false)

/-- A release by MGT_PART_REL or AUTO_REL: a first release only. -/
def State.firstRelease (s : State) (part : Option Nat) (p : Nat) : State :=
  if s.firstOk p then s.releasePart p else s.config part rMgtPartRel

/-- A release by PART_RELEASE: first release, release from HELD, or the end of PART_STOP. -/
def State.cmdRelease (s : State) (part : Option Nat) (p : Nat) : State :=
  if s.firstOk p then s.releasePart p
  else if !(s.part p).released then s.config part rMgtPartRel
  else match (s.part p).st with
    | .held => if s.mayRelease then s.releasePart p else s.config part rMgtPartRel
    | .normal =>
      if s.fe.stopped.contains p then { s with fe := { s.fe with stopped := s.fe.stopped.filter (· != p) } }
      else s.config part rMgtPartRel
    | _ => s.config part rMgtPartRel

/-! The partition map (R604, R620 to R625) -/

/-- The shadow of a staged register: its last written value, or the active one. -/
def State.shadowOf (s : State) (a : Nat) : Word := SMap.get (s.reg a) s.shadow a

/-- One map entry. -/
structure MapEntry where
  first : Nat
  n : Nat
  sets : Nat
  deriving DecidableEq, Repr

def MapEntry.ofWord (w : Word) : MapEntry := ⟨fld w 5 0, fld w 11 6, fld w 31 16⟩

/-- An entry alone is valid. -/
def MapEntry.ok (e : MapEntry) : Bool :=
  decide (e.n ≤ 48) && (if e.n = 0 then e.sets == 0 else decide (e.first + e.n ≤ 48))

/-- Two entries share no column and no channel set. -/
def MapEntry.apart (x y : MapEntry) : Bool :=
  (x.n == 0 || y.n == 0 || decide (x.first + x.n ≤ y.first) || decide (y.first + y.n ≤ x.first))
    && (x.sets &&& y.sets) == 0

/-- A set of entries is valid (R604). -/
def mapValid : List MapEntry → Bool
  | [] => true
  | e :: es => e.ok && es.all e.apart && mapValid es

def State.shadowMap (s : State) : List MapEntry :=
  (List.range 16).map (fun p => MapEntry.ofWord (s.shadowOf (rSecMap p)))

/-- A partition's rings all have EN = 0. -/
def State.ringsOff (s : State) (p : Nat) : Bool := (List.range 64).all (fun r => !s.ringEn (64 * p + r))

/-- A partition may change its share (R624). -/
def State.mayRemap (s : State) (p : Nat) : Bool :=
  s.ringsOff p && (!(s.part p).released || decide ((s.part p).st = .held ∨ (s.part p).st = .failed))

/-- Partitions whose entry a commit changes. -/
def State.mapChanges (s : State) : List Nat :=
  (List.range 16).filter (fun p => decide (s.shadowOf (rSecMap p) ≠ s.reg (rSecMap p)))

/-- Resets a tile's register page but for the count of lockstep mismatches (R625, 15 R584, R602). -/
def State.resetTilePage (s : State) (t : Nat) : State :=
  let lo := tilePage t 0
  let n := s.regF (tilePage t oTileCnt) 63 48
  let s := { s with
    regs := SMap.eraseRange s.regs lo (lo + 0x1000)
    cwPend := SMap.eraseRange s.cwPend lo (lo + 0x1000)
    shadow := SMap.eraseRange s.shadow lo (lo + 0x1000) }
  let s := s.modTile t (fun x => { x with
    digPend := none, pack := { x.pack with gang := 0, gangPend := none, cfgWrites := [], sclPend := [] } })
  s.setRegF (tilePage t oTileCnt) 63 48 n

/-- Zeroes the SRAM of a tile and resets its page (R625, 15 R584). -/
def State.wipeTile (s : State) (t : Nat) : State :=
  (s.zeroRange (tileBase t) (tileBase t + tileSize)).resetTilePage t

/-- Installs the shadow map and zeroes what changes owner. -/
def State.installMap (s : State) : State :=
  let regs := (List.range 16).map rSecMap
  let s' := regs.foldl (fun (x : State) a => x.setReg a (s.shadowOf a)) s
  let s' := { s' with
    shadow := regs.foldl SMap.erase s'.shadow
    sec := { s'.sec with mapBusy := true } }
  let ts := (List.range 1152).filter (fun t => s.tilePart t != s'.tilePart t)
  let cs := (List.range 16).filter (fun c => s.setPartOf c != s'.setPartOf c)
  let x := ts.foldl State.wipeTile s'
  cs.foldl (fun (x : State) c => x.zeroRange (c * setBytes) ((c + 1) * setBytes)) x

/-- A write of SEC_MAP_COMMIT.COMMIT (R624). -/
def State.commitMap (s : State) (part : Option Nat) : State :=
  if mapValid s.shadowMap && s.mapChanges.all s.mayRemap then s.installMap
  else (s.setRegF rSecMapCommit 1 1 1).config part rSecMapCommit

def execMapZeroDone (s : State) : Host.Outcome State Fault Refusal :=
  if s.sec.mapBusy then .next { s with sec := { s.sec with mapBusy := false } } else .next s

/-! Channel-scale commits (R622, R623) -/

/-- Array k is idle in the sense of 03 R84. -/
def State.arrIdle (s : State) (t k : Nat) : Bool :=
  let p := (s.tile t).pack
  if p.gang = 0 then (SMap.get {} p.arrs k).passes.isEmpty else p.arrs.all (fun ka => ka.2.passes.isEmpty)

/-- A write of QNT_SCL_COMMIT: commits at once, or at the array's boundary; a commit bit of an array whose commit
waits is ignored and recorded. -/
def State.sclCommit (s : State) (part : Option Nat) (t : Nat) (v : Word) : State :=
  (List.range 4).foldl (fun (s : State) k =>
    if !bit v k then s
    else if (s.tile t).pack.sclPend.contains k then s.config part (tilePage t oSclCommit)
    else if !bit v (4 + k) || s.arrIdle t k then s.installScl t k
    else s.modPack t (fun p => { p with sclPend := p.sclPend ++ [k] })) s

/-! Function Level Reset (R610) and encryption (R636, R637) -/

def execFlr (p : Nat) (s : State) : Host.Outcome State Fault Refusal :=
  if p < 16 ∧ !s.power.jet then .next (s.quietReset p true) else .next s

/-- A write of MEM_CRYPT_CTL: a fresh key when EN rises, none when it falls. -/
def State.putCrypt (s : State) (p : Nat) (on : Bool) : State :=
  let a := partPage p oCryptCtl
  let was := decide (s.regF a 0 0 = 1)
  let s := if on && !was then s.drawKey p else if !on && was then s.modPart p (fun x => { x with key := 0 }) else s
  s.setRegF a 0 0 (if on then 1 else 0)

/-! Sit mode (R630, R631, 11 R433) -/

def State.sitMode (s : State) : Bool := decide (s.mgt.phase = .sit) || s.fe.sit.on

/-- A write of SEC_BOOT.RAISE. -/
def State.raiseMins (s : State) (part : Option Nat) : State :=
  if s.sitMode then s.config part rSecBoot else { s with sec := { s.sec with raise := true } }

end Sys2Proof.Machine
end

