-- ==== Sys2Proof/Machine/Relia.lean ====
section
/-! DEFINITION. Partition resets, tile sparing and error injection (15_reliability.md R569, R570, R582 to R587, R594,
R595; 16 R610). -/
namespace Sys2Proof.Machine

/-! Steps 2 to 4 of a partition's sequence (R569) -/

/-- Tasks of a partition that run or drain. -/
def State.openTasks (s : State) (p : Nat) : List TaskRef :=
  (List.range 64).flatMap (fun r => (s.ring (64 * p + r)).pkts.filterMap (fun k =>
    match k.st with
    | .running | .draining _ _ => some ⟨64 * p + r, k.count⟩
    | _ => none))

/-- Step 3 begins: poison writes go out for what was discarded. -/
def State.beginReset (s : State) (p : Nat) : State :=
  let s := (s.partTiles p).foldl (fun (s : State) t => s.engineReset p t) s
  s.modPart p (fun x => { x with resetting := true, st := if x.seqRust then .reset else x.st })

def execPartitionDrainDone (p : Nat) (s : State) : Host.Outcome State Fault Refusal :=
  let x := s.part p
  if x.seqOn && !x.resetting && (s.openTasks p).isEmpty && !s.sec.crimson then .next (s.beginReset p) else .next s

def execPartitionDrainTimeout (p : Nat) (s : State) : Host.Outcome State Fault Refusal :=
  let x := s.part p
  if x.seqOn && !x.resetting && decide (x.rustAt + 1000000 ≤ s.now) && !s.sec.crimson then
    let open_ := s.openTasks p
    let s := s.beginReset p
    .next (open_.foldl (fun (s : State) r => (s.idleTask r).endPkt r.ring r.count .partReset 0 0x7FF) s)
  else .next s

/-- PART_RESET packets that name a partition and wait for its reset. -/
def State.resetCmds (s : State) (p : Nat) : List TaskRef :=
  s.fe.rings.flatMap (fun gr => (gr.2.pkts.filter (fun k =>
    decide (k.st = .busy) && k.opcode == 3 && decide (fld (k.w 1) 3 0 = p))).map (fun k => ⟨gr.1, k.count⟩))

/-- The state in which a sequence leaves its partition: a Rust sequence and an FLR end in HELD, or in FAILED when a
tile was marked (R569, R584, 16 R610); PART_RESET leaves it unchanged. -/
def Part.afterReset (x : Part) : PartSt :=
  if x.seqRust || x.seqFlr then (if x.retire then .failed else .held) else x.st

def execPartitionResetDone (p : Nat) (s : State) : Host.Outcome State Fault Refusal :=
  let x := s.part p
  if x.seqOn && x.resetting && s.poisonDone p && !s.sec.crimson then
    let s := (s.partTiles p).foldl (fun (s : State) t => s.resetTile p t) s
    let s := s.modPart p (fun x => { x with
      st := x.afterReset, seqOn := false, seqRust := false, seqFlr := false, resetting := false })
    .next ((s.resetCmds p).foldl (fun (s : State) r => s.endCmd r.ring r.count) s)
  else .next s

def execRustTimeout (p : Nat) (s : State) : Host.Outcome State Fault Refusal :=
  let x := s.part p
  if x.seqOn && x.seqRust && decide (x.rustAt + 10000000 ≤ s.now) && !s.sec.crimson then
    .next (s.crimsonError .rustTimeout p)
  else .next s

/-! Sparing (R583, R584, R587) -/

/-- The SKIP of a die without a retirement. -/
def skipHome (east : Bool) : Nat := if east then 0 else 24

/-- Logical columns that a retirement moves. -/
def movedCols (east : Bool) (pend : Nat) : List Nat :=
  (List.range 48).filter (fun c => if east then decide (24 ≤ c ∧ c < 24 + pend) else decide (pend ≤ c ∧ c < 24))

/-- Where the physical tile that now serves a moved column served before; none for the spare. -/
def servedBefore (east : Bool) (c : Nat) : Option Nat :=
  if east then (if c = 24 then none else some (c - 1)) else (if c = 23 then none else some (c + 1))

/-- Takes a pending retirement into effect. -/
def State.retireColumn (s : State) (east : Bool) : State :=
  let r := rRelSpare east
  let pend := s.regF r 12 8
  let cols := movedCols east pend
  let s0 := s
  let s := (s.setRegF r 4 0 pend).setRegF r 14 14 0
  let ts := (List.range 1152).filter (fun t => cols.contains (t % 48))
  let s := ts.foldl (fun (s : State) t =>
    let n := match servedBefore east (t % 48) with
      | some c => s0.regF (tilePage (t - t % 48 + c) oTileCnt) 63 48
      | none => 0
    (s.wipeTile t).setRegF (tilePage t oTileCnt) 63 48 n) s
  { s with mgt := if east then { s.mgt with skipE := pend } else { s.mgt with skipW := pend } }

/-- Partitions that own a tile in a set of columns. -/
def State.colOwners (s : State) (cols : List Nat) : List Nat :=
  (List.range 16).filter (fun p => cols.any (fun c => decide (s.colFirst p ≤ c ∧ c < s.colFirst p + s.nCol p)))

/-- A write of APPLY_W or APPLY_E (R584). -/
def State.applyDie (s : State) (part : Option Nat) (east : Bool) : State :=
  let r := rRelSpare east
  let owners := s.colOwners (movedCols east (s.regF r 12 8))
  let ok := decide (s.regF r 14 14 = 1) && decide (s.regF r 4 0 = skipHome east)
    && owners.all (fun p => decide ((s.part p).st = .held ∨ (s.part p).st = .failed))
  if !ok then s.config part rRelSpareCtl
  else
    let s := s.retireColumn east
    let die := (List.range 48).filter (fun c => decide (24 ≤ c) == east)
    (s.colOwners die).foldl (fun (s : State) p =>
      s.modPart p (fun x => if x.st = .failed then { x with st := .held, retire := false } else x)) s

/-- A pending retirement at start-up (R587). -/
def State.applyPending (s : State) (east : Bool) : State :=
  if s.regF (rRelSpare east) 14 14 = 1 then s.retireColumn east else s

/-! Error injection (R594, R595) -/

/-- A parameter outside its stated range. -/
def injBad (v : Word) : Bool :=
  let code := fld v 3 0
  let info := fld v 63 32
  (code == 2 && decide (info % 64 = info / 64 % 64))
    || (code == 3 && decide (info % 16 = 0 ∨ 8 < info % 16))

/-- A write of REL_INJ_CTL whose fields are no reserved encodings: without permission nothing happens. A 32-bit write is
merged with the other half, so one of the high half arms the CODE that the low half already holds (DESIGN CHOICE, log
entry 83). -/
def State.armInj (s : State) (part : Option Nat) (v : Word) : State :=
  if s.regF rRelCfg 0 0 = 0 then s
  else if s.sec.inj.armed || injBad v then s.config part rRelInjCtl
  else
    let code := fld v 3 0
    let info := fld v 63 32
    let unit := fld v 26 16
    let s := s.setReg rRelInjCtl (v &&& 0xFFFFFFFF07FF000F)
    let left := if code = 7 then info % 256 else 0
    let armed := decide (code ≠ 0 ∧ code ≠ 8) && (code != 7 || decide (left ≠ 0))
    let s := { s with sec := { s.sec with inj := { armed := armed, left := left } } }
    if code = 8 ∧ unit < 36 then s.modLink unit (fun l => { l with mute := some (info % 8) }) else s

end Sys2Proof.Machine
end

