-- ==== Sys2Proof/Machine/Boot.lean ====
section
/-! DEFINITION. Module resets, start-up and telemetry (15 R571, R572; 16 R626 to R631; 17 R646 to R655; 18 R686,
R687). -/
namespace Sys2Proof.Machine

/-! Module resets (15 R572, 17 R646) -/

/-- Registers that a module reset from BOOT onward keeps: the management controller's, the error log and
REL_CRIMSON, and the spare map. -/
def keptReg (a : Nat) : Bool :=
  decide (0xF00000080000 ≤ a ∧ a < 0xF00000083000) || a == rRelLogStat || a == rRelSpare false || a == rRelSpare true
    || decide (0xF00000060040 ≤ a ∧ a ≤ 0xF00000060060)

/-- The fused minimums after a module reset: a RAISE takes effect (16 R631). -/
def State.raisedMins (s : State) : SMap Nat :=
  if s.sec.raise then s.mgt.running.foldl (fun m kv => SMap.set m kv.1 kv.2.svn) s.sec.minSvn else s.sec.minSvn

/-- A firmware operation that a reset cuts off leaves its target slot invalid (17 R665). -/
def MgtUnit.cutFlash (m : MgtUnit) : SMap (List Byte) :=
  match m.fwBusy with
  | some (.open_, t) | some (.write, t) | some (.copy, t) => SMap.set m.flash (2 * t + (1 - m.pref)) []
  | _ => m.flash

/-- A module reset that keeps the items of R572 and enters start-up at a phase. -/
def State.moduleReset (s : State) (ph : BootPhase) : State :=
  let r := State.reset
  { r with
    pending := s.pending, freeCtr := s.freeCtr, host := s.host, hostData := s.hostData
    regs := s.regs.filter (fun kv => keptReg kv.1)
    sec := { r.sec with
      minSvn := s.raisedMins, rootHash := s.sec.rootHash, log := s.sec.log, logNext := s.sec.logNext,
      lastAmber := s.sec.lastAmber }
    time := { r.time with ctr := s.time.ctr, rate := s.time.rate, holdover := true }
    mgt := { s.mgt with
      phase := ph, waiting := false, fail := false, cause := 0, proceed := false, measured := false, xstop := false,
      flash := s.mgt.cutFlash, running := [], runSlot := [], mcf := false, owner := 0, fwBusy := none, fwSlot := 0 } }

/-- Start-up at POWER with fuses and boot flash only. -/
def State.coldReset (s : State) : State :=
  let r := State.reset
  { r with
    pending := s.pending, freeCtr := s.freeCtr, host := s.host, hostData := s.hostData
    regs := [(rMgtSerial, s.reg rMgtSerial)]
    sec := { r.sec with minSvn := s.raisedMins, rootHash := s.sec.rootHash }
    mgt := { r.mgt with flash := s.mgt.cutFlash, bootCfg := s.mgt.bootCfg, pref := s.mgt.pref, skipW := s.mgt.skipW,
                        skipE := s.mgt.skipE } }

/-- The phase a reset after a Crimson error enters. -/
def State.crimsonPhase (s : State) : BootPhase := if s.sec.crimsonPower then .power else .boot

def execCrimsonAutoReset (s : State) : Host.Outcome State Fault Refusal :=
  let looped := s.mgt.fail && decide (s.mgt.cause = 5)
  if s.sec.crimson && decide (s.regF rRelCfg 1 1 = 1) && decide (s.sec.crimsonAt + 100000000 ≤ s.now) && !looped then
    .next (s.moduleReset s.crimsonPhase)
  else .next s

def execPerstN (s : State) : Host.Outcome State Fault Refusal :=
  if s.mgt.input then .next (s.moduleReset .boot) else .next s

def execInputPowerApply (s : State) : Host.Outcome State Fault Refusal :=
  if s.mgt.input then .next s else .next s.coldReset

/-- The input leaves its range (18 R687): with VAON held a rail that it pulls out of band is the error's INFO,
which the spec leaves open; without VAON nothing is kept and the module waits for the input. -/
def execInputPowerLoss (vaon : Bool) (s : State) : Host.Outcome State Fault Refusal :=
  if !s.mgt.input then .next s
  else if vaon then
    let (w, s) := s.free
    .next (s.crimsonError .rail (w.toNat % 6))
  else
    let c := s.coldReset
    .next { c with mgt := { c.mgt with input := false }, power := { c.power with railsOff := true } }

/-! Firmware objects (16 R626 to R629) -/

/-- A number of n bytes at an offset. -/
def numAt (bs : List Byte) (off n : Nat) : Nat := ofBytesLE ((bs.drop off).take n)

/-- Bytes of a slot by type (17 R664). -/
def slotSize (type : Nat) : Nat := if type = 1 then 0x200000 else if type = 2 then 0x800000 else 0x10000

/-- The bytes that a slot's object spans: header and body. -/
def objBytes (bs : List Byte) : List Byte := bs.take (0x200 + numAt bs 0x10 4)

/-- The object of a type in a slot is valid (16 R627). -/
def validObj (minSvn : Nat) (rootHash : List Byte) (type : Nat) (bs : List Byte) : Bool :=
  let key := (bs.drop 0x70).take 96
  let be (off : Nat) : Nat := ofBytesBE ((bs.drop off).take 48)
  decide (numAt bs 0 4 = 0x4B444657 ∧ numAt bs 4 1 = type ∧ 0x200 + numAt bs 0x10 4 ≤ bs.length)
    && sha384 key == rootHash
    && ecdsaVerify (be 0x70, be 0xA0) (ofBytesBE (sha384 (bs.take 0xD0))) (be 0xD0) (be 0x100)
    && sha384 ((objBytes bs).drop 0x200) == (bs.drop 0x40).take 48
    && decide (minSvn ≤ numAt bs 0xA 2)

/-- Pairs of the TABLE's body. -/
def tablePairs (bs : List Byte) : List (Nat × Nat) :=
  let body := (objBytes bs).drop 0x200
  (List.range (body.length / 4)).map (fun i => (numAt body (4 * i) 2, numAt body (4 * i + 2) 2))

/-- What the module keeps of an object it runs. -/
def FwObj.ofBytes (type : Nat) (bs : List Byte) : FwObj :=
  { version := numAt bs 8 2, svn := numAt bs 0xA 2, peerLo := numAt bs 0xC 2, peerHi := numAt bs 0xE 2,
    linkLo := numAt bs 0x14 2, linkHi := numAt bs 0x16 2, pairs := if type = 3 then tablePairs bs else [],
    digest := sha384 (objBytes bs) }

def State.slotOk (s : State) (type slot : Nat) : Bool :=
  validObj (SMap.get 0 s.sec.minSvn type) s.sec.rootHash type (SMap.get [] s.mgt.flash (2 * type + slot))

/-- The slot that start-up takes for a type: the preferred one, or else the other (16 R628). -/
def State.bootSlot (s : State) (type : Nat) : Option Nat :=
  if s.slotOk type s.mgt.pref then some s.mgt.pref
  else if s.slotOk type (1 - s.mgt.pref) then some (1 - s.mgt.pref)
  else none

/-- Takes the object of a type. -/
def State.takeObj (s : State) (type : Nat) : State :=
  match s.bootSlot type with
  | none => s
  | some b =>
    let o := FwObj.ofBytes type (SMap.get [] s.mgt.flash (2 * type + b))
    let s := { s with mgt := { s.mgt with
      running := SMap.set s.mgt.running type o, runSlot := SMap.set s.mgt.runSlot type b, mcf := s.mgt.mcf || type == 1 } }
    let s := s.setRegF rSecBoot (16 + type) (16 + type) b
    s.setRegF rMgtFwVer (16 * type - 1) (16 * type - 16) o.version

/-- The chosen MCF and HCF are compatible by their windows and the TABLE (16 R629). -/
def fwCompatible (m h t : FwObj) : Bool :=
  (decide (m.peerLo ≤ h.version ∧ h.version ≤ m.peerHi) || decide (h.peerLo ≤ m.version ∧ m.version ≤ h.peerHi))
    && t.pairs.contains (m.version, h.version)

/-- SIT_CAUSE of the running objects; 0 when start-up goes on. -/
def State.sitCause (s : State) : Nat :=
  match SMap.find s.mgt.running 1, SMap.find s.mgt.running 2, SMap.find s.mgt.running 3 with
  | none, _, _ => 2
  | _, none, _ => 3
  | _, _, none => 4
  | some m, some h, some t => if fwCompatible m h t then 0 else 1

/-! Phases (17 R647 to R651) -/

/-- A phase begins. -/
def State.enterPhase (s : State) (p : BootPhase) : State :=
  { s with mgt := { s.mgt with phase := p, waiting := false, proceed := false } }

/-- Start-up goes on: the input is there and nothing has stopped it. -/
def State.starting (s : State) (p : BootPhase) : Bool :=
  decide (s.mgt.phase = p) && s.mgt.input && !s.mgt.fail && !s.sec.crimson

/-- The phase's work is done and its gate holds it. -/
def State.waits (s : State) : State := { s with mgt := { s.mgt with waiting := true } }

def execPowerPhaseDone (s : State) : Host.Outcome State Fault Refusal :=
  if s.starting .power then .next (s.enterPhase .boot) else .next s

/-- The ROM's work in BOOT (16 R628, R629): sit mode when no compatible set of objects is found. -/
def State.bootWork (s : State) : State :=
  let s := [1, 2, 3].foldl State.takeObj (s.setReg rMgtFwVer 0)
  let c := s.sitCause
  if c = 0 then s.enterPhase .measure
  else ((s.setRegF rSecBoot 23 20 c).setRegF rMgtAlert 5 5 1).enterPhase .sit

def execBootPhaseDone (s : State) : Host.Outcome State Fault Refusal :=
  if s.starting .boot then .next s.bootWork else .next s

/-! Sensors (17 R652 to R654) -/

/-- Populated sensor indices. -/
def sensors : List Nat :=
  [0, 1, 2] ++ (List.range 7).map (0x08 + ·) ++ (List.range 7).map (0x10 + ·) ++ (List.range 14).map (0x20 + ·)

/-- Nominal voltage in mV and current limit in mA of a rail (14 R528). -/
def railNominal (r : Nat) : Int := ([750, 750, 800, 1100, 900, 800, 800] : List Int).getD r 0
def railLimit (r : Nat) : Int :=
  ([1500000, 1500000, 400000, 180000, 200000, 60000, 8000] : List Int).getD r 0

/-- Warning and trip temperatures in units of 0.01 °C. -/
def tempLimits (n : Nat) : Int × Int :=
  if n ≤ 0x21 then (9500, 11000)
  else if n ≤ 0x29 then (8500, 10000)
  else if n ≤ 0x2B then (11000, 12500)
  else if n = 0x2C then (4000, 5500)
  else (6000, 7000)

/-- A reading warns. -/
def sensWarn (n : Nat) (v : Int) : Bool :=
  if n = 0 then decide (v < 52000 ∨ 56000 < v)
  else if n = 1 then decide (51900 < v)
  else if n = 2 then decide (2400 < v)
  else if n < 0x10 then decide (3 * railNominal (n - 8) < 100 * ((v - railNominal (n - 8)).natAbs : Int))
  else if n < 0x20 then decide (95 * railLimit (n - 0x10) < 100 * v)
  else decide ((tempLimits n).1 ≤ v)

/-- A reading is at trip. -/
def sensTrip (n : Nat) (v : Int) : Bool :=
  if n < 8 ∨ (0x10 ≤ n ∧ n < 0x20) then false
  else if n < 0x10 then decide (5 * railNominal (n - 8) < 100 * ((v - railNominal (n - 8)).natAbs : Int))
  else decide ((tempLimits n).2 ≤ v)

/-- A sensor of a rail that is switched off. -/
def State.sensOff (s : State) (n : Nat) : Bool :=
  (s.power.jet || s.power.railsOff) && decide ((8 ≤ n ∧ n < 0xE) ∨ (0x10 ≤ n ∧ n < 0x16))

/-- The reading of a sensor in a snapshot. -/
def State.reading (s : State) (rs : List (Nat × Int)) (n : Nat) : Option Int :=
  if s.sensOff n then none
  else if n = 2 then some (s.power.meanW : Int)
  else (rs.find? (fun x => x.1 == n)).map (·.2)

/-- A snapshot: every sensor register is written and MGT_TLM_SEQ advances. -/
def State.snapshot (s : State) (rs : List (Nat × Int)) : State :=
  let s' := sensors.foldl (fun (x : State) n =>
    let a := rMgtSens n
    let old := x.regF a 33 33
    match s.reading rs n with
    | none => x.setReg a (setFld 0 33 33 old)
    | some v =>
      let x := if sensWarn n v then x.setRegF rMgtAlert 1 1 1 else x
      x.setReg a (BitVec.ofNat 64 (ofSigned 32 v + 1 <<< 32 + (if sensWarn n v then 1 else old) <<< 33
        + (if sensTrip n v then 1 <<< 34 else 0)))) s
  s'.setReg rMgtTlmSeq (s'.reg rMgtTlmSeq + 1)

def execTelemetrySnapshot (readings : List (Nat × Int)) (s : State) : Host.Outcome State Fault Refusal :=
  if s.mgt.input then .next (s.snapshot readings) else .next s

/-- One temperature sample of a sensor: the third in a row at trip is a THERMAL error. -/
def State.sampleTemp (s : State) (r : Nat × Int) : State :=
  if !sensors.contains r.1 || decide (r.1 < 0x20) then s
  else
    let n := SMap.get 0 s.mgt.trips r.1
    let n' := if sensTrip r.1 r.2 then min 3 (n + 1) else 0
    let s := { s with mgt := { s.mgt with trips := SMap.set s.mgt.trips r.1 n' } }
    if n = 2 ∧ n' = 3 then s.crimsonError .thermal r.1 else s

def execTempSample (readings : List (Nat × Int)) (s : State) : Host.Outcome State Fault Refusal :=
  if s.mgt.input then .next (readings.foldl State.sampleTemp s) else .next s

def execRailOutOfBand (r : Nat) (s : State) : Host.Outcome State Fault Refusal :=
  if s.mgt.input && decide (r ≤ 6) then .next (s.crimsonError .rail r) else .next s

/-- Every sensor is VALID and none is at TRIP. -/
def State.sensorsGood (s : State) : Bool :=
  sensors.all (fun n => decide (s.regF (rMgtSens n) 32 32 = 1 ∧ s.regF (rMgtSens n) 34 34 = 0))

/-- The work of MEASURE: memory zeroed, sparing restored, a pending retirement applied (10 R397, 15 R587). -/
def State.measureWork (s : State) : State :=
  let s := { s with mem := [], eccW := [], eccB := [], mgt := { s.mgt with measured := true } }
  let s := (s.setRegF (rRelSpare false) 4 0 s.mgt.skipW).setRegF (rRelSpare true) 4 0 s.mgt.skipE
  (s.applyPending false).applyPending true

def execMeasurePhaseDone (readings : List (Nat × Int)) (s : State) : Host.Outcome State Fault Refusal :=
  if s.starting .sit && !s.mgt.measured then .next (s.measureWork.snapshot readings)
  else if s.starting .measure then
    let s := (if s.mgt.measured then s else s.measureWork).snapshot readings
    if s.sensorsGood then .next (s.enterPhase .links).startLinks else .next s.waits
  else .next s

def execLinksPhaseDone (s : State) : Host.Outcome State Fault Refusal :=
  if !s.starting .links || s.mgt.xstop then .next s
  else if !s.mgt.proceed && s.mgt.bootCfg.testBit 1 && s.link.en.devid == 0x3FFF then .next s.waits
  else .next (s.enterPhase .time)

/-- Entry to READY: CRESETS returns to 0, and with AUTO_REL every partition with columns is released. -/
def State.enterReady (s : State) : State :=
  let s := s.enterPhase .ready
  let s := { s with mgt := { s.mgt with cresets := 0 } }
  if s.mgt.bootCfg.testBit 0 then
    (List.range 16).foldl (fun (s : State) p => if 0 < s.nCol p then s.firstRelease none p else s) s
  else s

def execTimePhaseDone (s : State) : Host.Outcome State Fault Refusal :=
  if !s.starting .time then .next s
  else if !s.mgt.proceed && s.mgt.bootCfg.testBit 2 && !s.time.locked then .next s.waits
  else .next s.enterReady

def execPhaseBoundExpiry (s : State) : Host.Outcome State Fault Refusal :=
  let p := s.mgt.phase
  if decide (p = .power ∨ p = .boot ∨ p = .measure) && s.mgt.input && !s.mgt.fail then
    let s := s.startFail 3
    .next { s with power := { s.power with railsOff := true } }
  else .next s

/-- A write of PROCEED (R648). -/
def State.writeProceed (s : State) (part : Option Nat) : State :=
  match s.mgt.phase with
  | .links | .time => { s with mgt := { s.mgt with proceed := true } }
  | _ => s.config part rMgtBootCtl

end Sys2Proof.Machine
end

