-- ==== Sys2Proof/Machine/Spdm.lean ====
section
/-! DEFINITION. The SPDM 1.2 responder on the functions' DOE mailboxes (16 R632 to R634). The order of the
negotiation and the use of indices 0 and 0xFF are those of DMTF DSP0274 (PRESUMED, log entry 77). -/
namespace Sys2Proof.Machine

def State.spdm (s : State) (fn : Nat) : Spdm := SMap.get {} s.sec.spdm fn
def State.setSpdm (s : State) (fn : Nat) (x : Spdm) : State :=
  { s with sec := { s.sec with spdm := SMap.set s.sec.spdm fn x } }

/-- Answers a request; there are 17 functions. -/
def State.answer (s : State) (fn : Nat) (r : SpdmResp) (f : Spdm → Spdm := id) : State :=
  let x := s.spdm fn
  s.setSpdm fn { f x with resp := x.resp ++ [r] }

/-- The requests behind the negotiation. -/
def State.negotiated (s : State) (fn : Nat) : Bool := (s.spdm fn).gotAlgs

/-- No such function, or the security engine is off (14 R537). -/
def State.doeOff (s : State) (fn : Nat) : Bool := decide (16 < fn) || s.power.jet || s.power.railsOff

def execGetVersion (fn : Nat) (s : State) : Host.Outcome State Fault Refusal :=
  if s.doeOff fn then .next s
  else .next (s.answer fn (.version 0x12) (fun x => { x with gotVersion := true, gotCaps := false, gotAlgs := false }))

def execGetCapabilities (fn : Nat) (s : State) : Host.Outcome State Fault Refusal :=
  if s.doeOff fn then .next s
  else if !(s.spdm fn).gotVersion then .next (s.answer fn .error)
  else .next (s.answer fn (.capabilities true true true false) (fun x => { x with gotCaps := true }))

def execNegotiateAlgorithms (fn : Nat) (ecdsaP384 sha384 : Bool) (s : State) : Host.Outcome State Fault Refusal :=
  if s.doeOff fn then .next s
  else if !(s.spdm fn).gotCaps || !ecdsaP384 || !sha384 then .next (s.answer fn .error)
  else .next (s.answer fn (.algorithms true true) (fun x => { x with gotAlgs := true }))

/-- Measurement 1, 2 or 3: the digest of a running object. -/
def State.objDigest (s : State) (i : Nat) : Option (List Byte) := (SMap.find s.mgt.running i).map (·.digest)

/-- The certificate chain of a slot. -/
def State.cert (s : State) (slot : Nat) : List Byte :=
  Config.certChain slot (if slot = 0 then [] else [1, 2, 3].flatMap (fun i => (s.objDigest i).getD []))

def execGetDigests (fn : Nat) (s : State) : Host.Outcome State Fault Refusal :=
  if s.doeOff fn then .next s
  else if !s.negotiated fn then .next (s.answer fn .error)
  else .next (s.answer fn (.digests [(0, sha384 (s.cert 0)), (1, sha384 (s.cert 1))]))

def execGetCertificate (fn slot off len : Nat) (s : State) : Host.Outcome State Fault Refusal :=
  if s.doeOff fn then .next s
  else if !s.negotiated fn || decide (1 < slot) || decide ((s.cert slot).length ≤ off) then .next (s.answer fn .error)
  else .next (s.answer fn (.certificate slot off (((s.cert slot).drop off).take len)))

/-- A free number of n words. -/
def State.freeNat : Nat → State → Nat × State
  | 0, s => (0, s)
  | n + 1, s =>
    let (w, s) := s.free
    let (v, s) := State.freeNat n s
    (w.toNat + v <<< 64, s)

/-- A nonce of 256 bits and a signature of 768. -/
def State.sign (s : State) : Nat × Nat × State :=
  let (n, s) := State.freeNat 4 s
  let (g, s) := State.freeNat 12 s
  (n, g, s)

def execChallenge (fn slot nonce : Nat) (s : State) : Host.Outcome State Fault Refusal :=
  if s.doeOff fn then .next s
  else if !s.negotiated fn || decide (1 < slot) || decide (2 ^ 256 ≤ nonce) then .next (s.answer fn .error)
  else
    let (n, g, s) := s.sign
    .next (s.answer fn (.challengeAuth slot n g))

/-- Measurement 4: SEC_CFG, SEC_LOCK and the 16 SEC_PART_LOCK values. -/
def State.lockDigest (s : State) : List Byte :=
  sha384 (toBytesLE 8 (s.reg rSecCfg).toNat ++ toBytesLE 8 s.modLocks
    ++ (List.range 16).flatMap (fun p => toBytesLE 8 (s.partLocks p)))

/-- Measurement 5: the 16 active SEC_PART_MAP values. -/
def State.mapDigest (s : State) : List Byte :=
  sha384 ((List.range 16).flatMap (fun p => toBytesLE 8 (s.reg (rSecMap p)).toNat))

/-- One measurement of a function, if there is one (R634). -/
def State.measurement (s : State) (fn idx : Nat) : Option (List Byte) :=
  if 1 ≤ idx ∧ idx ≤ 3 then s.objDigest idx
  else if idx = 4 then some s.lockDigest
  else if idx = 5 then some s.mapDigest
  else if idx = 0x10 ∧ 1 ≤ fn then some (sha384 (s.part (fn - 1)).pmrBytes)
  else none

/-- The measurements of a function, in order of index. -/
def State.measurements (s : State) (fn : Nat) : List (Nat × List Byte) :=
  [1, 2, 3, 4, 5, 0x10].filterMap (fun i => (s.measurement fn i).map (fun d => (i, d)))

/-- A measurement of index 4 checks the lock pairs first (R619). -/
def State.checkAllLocks (s : State) : State := (List.range 16).foldl State.checkPartLock s.checkModLock

/-- The nonce and signature of an answer that is to be signed. -/
def State.signIf (s : State) (sign : Bool) : Nat × Option Nat × State :=
  if sign then
    let (n, g, s) := s.sign
    (n, some g, s)
  else
    let (n, s) := State.freeNat 4 s
    (n, none, s)

def execGetMeasurements (fn idx nonce : Nat) (sign : Bool) (s : State) : Host.Outcome State Fault Refusal :=
  if s.doeOff fn then .next s
  else if !s.negotiated fn || decide (2 ^ 256 ≤ nonce) then .next (s.answer fn .error)
  else
    let s := if idx = 4 ∨ idx = 0xFF then s.checkAllLocks else s
    let blocks := if idx = 0xFF then s.measurements fn
      else ((s.measurement fn idx).map (fun d => (idx, d))).toList
    if idx ≠ 0 ∧ blocks = [] then .next (s.answer fn .error)
    else
      let (n, g, s) := s.signIf sign
      .next (s.answer fn (if idx = 0 then .measCount (s.measurements fn).length n g else .measurements blocks n g))

end Sys2Proof.Machine
end

