-- ==== Sys2Proof/Machine/RegView.lean ====
section
/-! DEFINITION. What reads of registers return: stored values, and the fields that the hardware forms from its
state (00 R11, R12, and the Registers sections of the chapters). -/
namespace Sys2Proof.Machine

/-- The sum of 2^i over a list of bit numbers without repeats. -/
def bitsOf (l : List Nat) : Nat := (l.map (fun i => 1 <<< i)).sum
def bitIf (b : Bool) (i : Nat) : Nat := if b then 1 <<< i else 0

/-! Tile pages -/

/-- ARR_PACK_STATUS (03 R106): in a gang the logical array stands for all four. -/
def Pack.statusWord (p : Pack) (t : Nat) : Nat :=
  let one (k : Nat) : Arr := SMap.get {} p.arrs (if p.gang = 0 then k else 0)
  let busy := (List.range 4).filter (fun k => !(one k).passes.isEmpty)
  let load := (List.range 4).filter (fun k => (one k).loading.isSome)
  bitsOf busy + bitsOf load <<< 4 + bitIf (p.gangWaits t) 8 + p.gang <<< 9

/-- ARR_ACC_STATUS (04 R150): in WIDE the one array is array 0, whose bits are the OR over its 128 columns; the bits of
arrays 1 to 3 are then 0. -/
def Pack.fullWord (p : Pack) : Nat :=
  bitsOf ((List.range 32).filter (fun i =>
    p.icr.any (fun kv => if p.gang = 3 then kv.1 / 32 % 8 == i else kv.1 / 32 == i)))

/-- TIL_CHAIN_STATUS (04 R152). ARMED is 1 from the arming of a stage to its completion, also while it has no more
forward beats to take, and is 0 for a HEAD, which accepts total beats without being armed (DESIGN CHOICE, log
entry 30). -/
def Tile.chainWord (x : Tile) : Nat := x.held.length + bitIf (x.chain.stages.any (·.armed)) 7

/-- HRD_STATUS.STATE of the active context (07 R262): a context that drains keeps the state in which it halted (07
R230, R260); one that drains without having halted waits for its tensor instructions. -/
def Herder.stateCode (h : Herder) : Nat :=
  let c := h.ctx h.kctx
  match c.st with
  | .idle => 0
  | .haltedExc => 6
  | .haltedLockstep => 7
  | .draining => if c.lockHalt then 7 else if c.excHalt then 6 else 4
  | .run =>
    if !h.kctx && h.preempted then 5
    else match c.wait with
      | .none => 1
      | .hget _ _ => 2
      | .time _ => 3
      | _ => 4

def Herder.statusWord (h : Herder) : Nat :=
  h.stateCode + bitIf h.kctx 3 + bitIf h.user.persist 4 + h.board.length <<< 5 + h.park.length <<< 10
    + (h.ctx h.kctx).ticket <<< 16

/-- HRD_HQ_STATUS.COUNT (07 R266). -/
def Herder.countWord (h : Herder) : Nat :=
  ((List.range 8).map (fun q => (SMap.get [] h.hq q).length <<< (6 * q))).sum

/-- RTV_STATUS (09 R362). A queue holds the streams whose instructions have not completed; requests of one that has
ended with a fault stay outstanding until their data or acknowledgement arrives. -/
def Retr.statusWord (r : Retr) (live : Strm → Bool) : Nat :=
  let user := (r.strms.filter (fun x => !x.kctx)).map (fun x => x.wout.length)
  let qs (p : Strm → Bool) : Nat := bitsOf ((List.range 8).filter (fun q => r.strms.any (fun x => x.qid == q && p x)))
  (r.strms.map (fun x => x.reads.length + x.wout.length)).sum + qs live <<< 16
    + qs (fun x => x.fault.isSome) <<< 24 + bitIf r.quiesced 32 + user.sum <<< 33

/-- The fields of a tile page that its state gives. -/
def State.tileView (s : State) (t off : Nat) : Nat :=
  let x := s.tile t
  if off = oPackStatus then x.pack.statusWord t
  else if off = oAccStatus then x.pack.fullWord
  else if off = oChainStatus then x.chainWord
  else if off = oTilTime then s.now
  else if off = oSfuStatus then
    bitIf ((x.herder.board ++ x.herder.park).any (fun e => e.cls == .sfu)) 8
  else if off = oHrdStatus then x.herder.statusWord
  else if off = oHqStatus then x.herder.countWord
  else if off = oRtvStatus then x.retr.statusWord (fun y =>
      (x.herder.board ++ x.herder.park).any (fun e => e.kctx == y.kctx && e.serial == y.serial))
  else if off = oSclCommit then bitsOf x.pack.sclPend <<< 8
  else 0

/-! Partition pages -/

/-- TIL_PART_FLAGS (02 R65). -/
def State.partFlags (s : State) (p : Nat) : Nat :=
  (s.partTiles p).foldl (fun m t => m ||| s.regF (tilePage t oNumFlags) 3 0) 0

/-- Tiles of a partition with a queue halted on a fault (10 R400). -/
def State.haltedTiles (s : State) (p : Nat) : List Nat :=
  (s.partTiles p).filter (fun t => (s.tile t).retr.strms.any (fun x => x.fault.isSome))

/-- PWR_PART_STATUS (14 R561). -/
def State.powerWord (s : State) (p : Nat) : Nat :=
  let ts := s.partTiles p
  let n (x : PwrSt) : Nat := (ts.filter (fun t => decide ((s.tile t).pwr.st = x))).length
  let low := (s.mySets p).all (fun c => decide (SMap.get .selfRefresh s.power.ch c ≠ .active))
  n .ivory + n .dove <<< 11 + n .ash <<< 22 + n .slate <<< 33 + (s.partState p).code <<< 44 + bitIf low 47

/-- TURN and HELD of FE_RING_STAT (11 R439). -/
def State.ringView (s : State) (g off : Nat) : Nat :=
  let r := s.ring g
  if off = oRingDone then r.done + r.fetched <<< 32
  else if off = oRingStat then
    let held := match s.head g with
      | some k => decide (k.st = .valid) && !s.depsOk g k
      | none => false
    bitIf held 2 + bitIf ((s.ringTurn g).holder == some g) 3
  else 0

/-- The fields of a partition page that its state gives. -/
def State.partView (s : State) (p off : Nat) : Nat :=
  let x := s.part p
  if off = oPartLock then s.partLocks p
  else if 0x40 ≤ off ∧ off ≤ 0x68 then ofBytesLE ((x.pmrBytes.drop (off - 0x40)).take 8)
  else if off = oPmrCtl then bitIf x.pmrBusy 1
  else if off = oPartFlags then s.partFlags p
  else if off = oXltInv then bitIf x.invBusy 1
  else if off = oXltFstat then min 255 (s.haltedTiles p).length + (s.haltedTiles p).headD 0x7FF <<< 16
  else if off = oPartCtl then bitIf (s.fe.stopped.contains p) 4
  else if off = oPwrStatus then s.powerWord p
  else if off = oRelStatus then x.st.code
  else if 0x1000 ≤ off ∧ off < 0x2000 then s.ringView (64 * p + (off - 0x1000) / 0x40) (off % 0x40)
  else 0

/-! Module pages -/

/-- LNK_STATUS, LNK_MEAS and LNK_PARTNER (12 R489 to R491). -/
def Link.view (l : Link) (off : Nat) : Nat :=
  if off = 0x08 then
    l.st.code + bitIf l.narrow 4 + bitIf l.slow 5 + bitIf l.episode.isSome 6 + bitIf l.routed 7 + l.reason.code <<< 8
      + min 15 l.attempts <<< 12 + l.lanes <<< 16 + l.partner.link <<< 24 + l.partner.id <<< 30
  else if off = 0x10 then l.rtt + l.flight <<< 16 + l.loss <<< 32 + l.ploss <<< 42
  else if off = 0x18 then
    l.partner.hcf + l.partner.mcf <<< 16 + l.partner.msgset <<< 32 + l.partner.lanes <<< 40 + l.partner.rates <<< 48
  else 0

/-- LNK_ENUM_STAT (12 R494). -/
def EnumSt.view (e : EnumSt) : Nat :=
  e.devid + bitIf e.done 14 + bitIf e.fail 15 + e.cause <<< 16 + bitIf e.xmismatch 18
    + e.parent.getD 0 <<< 19 + bitIf e.parent.isSome 25 + (e.nextOut % 2 ^ 14) <<< 26

/-- PWR_MOD_STATUS under a tolerance (14 R563). -/
def State.powerMod (s : State) (ltr : Nat) : Nat :=
  let u := s.power
  s.modState ltr + u.step <<< 3 + bitIf u.excursion.isSome 8 + bitIf u.override 9 + bitIf (decide (u.since90 < 90000)) 10
    + (u.meanW % 2 ^ 16) <<< 16 + (u.binW % 2 ^ 16) <<< 32

/-- MGT_BOOT_STAT (17 R667). -/
def State.bootStat (s : State) : Nat :=
  let m := s.mgt
  m.phase.code + bitIf m.waiting 17 + bitIf s.link.en.xmismatch 18 + bitIf m.fail 19 + m.cause <<< 20 + m.cresets <<< 24

/-- MGT_FW_STAT (17 R670). -/
def MgtUnit.fwStat (m : MgtUnit) : Nat :=
  m.fwResult + m.fwSlot <<< 14 + bitIf m.fwBusy.isSome 15 + m.owner <<< 16

/-- The fields of the module pages that the state gives. -/
def State.moduleView (s : State) (a : Nat) : Nat :=
  if a = rFeSitStatus then bitIf s.sitMode 0 + bitIf s.fe.sit.done 1 + s.fe.sit.lat <<< 32
  else if 0xF00000020000 ≤ a ∧ a < 0xF00000022400 then
    (s.linkOf ((a - 0xF00000020000) / 0x100)).view (a % 0x100)
  else if a = rEnumStat then s.link.en.view
  else if a = rTimStatus then s.timBits
  else if a = rTimNow then s.now
  else if a = rTimFrac then s.time.frac + ofSigned 32 s.time.rate <<< 32
  else if a = rPwrStatus then s.powerMod (if s.twinOk rPwrLtr then s.regF rPwrLtr 31 0 else 0)
  else if a = rRelLogStat then s.sec.logNext % 2 ^ 32
  else if 0xF00000060018 ≤ a ∧ a ≤ 0xF00000060030 then
    match SMap.find s.sec.log (s.regF rRelLogSel 8 0) with
    | some e => (e.word ((a - 0xF00000060018) / 8)).toNat
    | none => 0
  else if a = rRelInjCtl then bitIf s.sec.inj.armed 31
  else if a = rSecLock then s.modLocks
  else if a = rSecBoot then s.mgt.pref
  else if a = rSecMapCommit then bitIf s.sec.mapBusy 2
  else if a = rMgtBootStat then s.bootStat
  else if a = rMgtBootCfg then s.mgt.bootCfg
  else if a = rMgtPos then s.mgt.pos + bitIf s.mgt.posValid 12
  else if a = rMgtFwStat then s.mgt.fwStat
  else 0

/-- Bits of a register that the state gives, and that its stored value does not hold. -/
def viewMask (a : Nat) : Word :=
  if 0xF00100000000 ≤ a ∧ a < 0xF00100480000 then
    let o := a % 0x1000
    if o = oPackStatus ∨ o = oAccStatus ∨ o = oChainStatus ∨ o = oTilTime ∨ o = oHrdStatus ∨ o = oRtvStatus
      ∨ o = oSclCommit then allBits
    else if o = oSfuStatus then 0x100
    else if o = oHqStatus then 0xFFFFFFFFFFFF
    else 0
  else if 0xF00200000000 ≤ a ∧ a < 0xF00200100000 then
    let o := a % 0x10000
    if o = oPartLock ∨ (0x40 ≤ o ∧ o ≤ 0x68) ∨ o = oPmrCtl ∨ o = oPartFlags ∨ o = oXltInv ∨ o = oPwrStatus then allBits
    else if o = oXltFstat then 0xFFFFFFFF
    else if o = oPartCtl then 0x10
    else if o = oRelStatus then 7
    else if 0x1000 ≤ o ∧ o < 0x2000 then
      (if o % 0x40 = oRingDone then allBits else if o % 0x40 = oRingStat then 0xC else 0)
    else 0
  else if a = rFeSitStatus ∨ a = rEnumStat ∨ a = rTimNow ∨ a = rTimFrac ∨ a = rPwrStatus ∨ a = rSecLock
      ∨ a = rMgtBootStat ∨ a = rMgtBootCfg ∨ a = rMgtPos ∨ a = rMgtFwStat then allBits
  else if 0xF00000060018 ≤ a ∧ a ≤ 0xF00000060030 then allBits
  else if 0xF00000020000 ≤ a ∧ a < 0xF00000022400 then
    (if a % 0x100 = 0x08 ∨ a % 0x100 = 0x10 ∨ a % 0x100 = 0x18 then allBits else 0)
  else if a = rTimStatus then 0xF0D
  else if a = rRelLogStat then 0xFFFFFFFF
  else if a = rRelInjCtl then 0x80000000
  else if a = rSecBoot then 1
  else if a = rSecMapCommit then 4
  else 0

/-- What the state gives of a register. -/
def State.hwView (s : State) (a : Nat) : Nat :=
  if 0xF00100000000 ≤ a ∧ a < 0xF00100480000 then s.tileView ((a - 0xF00100000000) / 0x1000) (a % 0x1000)
  else if 0xF00200000000 ≤ a ∧ a < 0xF00200100000 then s.partView ((a - 0xF00200000000) / 0x10000) (a % 0x10000)
  else s.moduleView a

/-- The whole register as it stands: stored fields and fields of the state. -/
def State.regNow (s : State) (a : Nat) : Word :=
  let m := viewMask a
  (s.reg a &&& ~~~ m) ||| (BitVec.ofNat 64 (s.hwView a) &&& m)

/-- What a 64-bit read returns; a register that does not exist reads zero. -/
def State.regView (s : State) (a : Nat) : Word :=
  match findReg a with
  | some r => r.shown (s.regNow a)
  | none => 0

end Sys2Proof.Machine
end

