-- ==== Sys2Proof/Machine/RegAccess.lean ====
section
/-! DEFINITION. Who may read and write registers, and reads (00 R11, R12; 11 R406; 12 R487; 14 R556; 16 R607 to R612,
R615 to R617, R630; 17 R661). -/
namespace Sys2Proof.Machine

/-! Access (R607) -/

/-- A virtual function's access. -/
def State.vfMay (s : State) (p a : Nat) (write : Bool) : Bool :=
  match pageOf a with
  | .tile u => s.ownsTile p u && !(write && decide (a % 0x1000 = oRtvCtl))
  | .part q => q == p && !(write && (decide (a % 0x10000 = oAdmit) || levelKReg (a % 0x10000)))
  | .module => !write && sharedReg a
  | .none => false

/-- The reach of a LOCK_WR (R616). -/
def State.lockWrMay (s : State) (p : Nat) (sys : Bool) (a : Nat) : Bool :=
  match pageOf a with
  | .tile u => sys || s.ownsTile p u
  | .part q => sys || q == p
  | .module => sys
  | .none => false

/-- Whether R607, and the restrictions of the chapters, permit an access. -/
def State.permits (s : State) (w : Writer) (a : Nat) (write : Bool) : Bool :=
  match w with
  | .herder t l => s.herderMay t l a write
  | .vf p => s.vfMay p a write
  | .pf => decide (pageOf a ≠ .none)
  | .chain => decide (pageOf a = .module) && (!write || chainReg a)
  | .lockWr p sys => s.lockWrMay p sys a
  | .mailbox => decide (pageOf a ≠ .none) && !(write && isTimReg a)

/-- A host access. -/
def Writer.isHost : Writer → Bool
  | .vf _ | .pf => true
  | _ => false

/-- In Jet a host reaches only the registers of the management controller and of global time, and PWR_MOD_JET
(14 R556). -/
def State.jetHides (s : State) (w : Writer) (a : Nat) : Bool :=
  w.isHost && s.power.jet && !(isMgtReg a || isTimReg a || a == rPwrJet || a == rPwrJet + 8)

/-- In sit mode entered at boot only the physical function reaches registers, those of the module pages (R630). -/
def State.sitHides (s : State) (w : Writer) (a : Nat) : Bool :=
  w.isHost && decide (s.mgt.phase = .sit) && !(w == .pf && decide (pageOf a = .module))

/-! Widths (00 R11) -/

/-- The bits of the register that an access covers. -/
def Acc.mask : Acc → Word
  | .full => allBits | .lo => 0xFFFFFFFF | .hi => 0xFFFFFFFF00000000 | .other => 0

/-- A written value in its place; a half takes the low 32 bits of the value. -/
def Acc.place (c : Acc) (v : Word) : Word :=
  match c with
  | .full => v | .lo => v &&& 0xFFFFFFFF | .hi => v <<< 32 | .other => 0

/-- What an access returns of a 64-bit register. -/
def Acc.take (c : Acc) (v : Word) : Word :=
  match c with
  | .full => v | .lo => v &&& 0xFFFFFFFF | .hi => v >>> 32 | .other => 0

/-- The access of n bytes at an address: its register and its width. -/
def accOf (a n : Nat) : Nat × Acc :=
  if n = 8 ∧ a % 8 = 0 then (a, .full)
  else if n = 4 ∧ a % 8 = 0 then (a, .lo)
  else if n = 4 ∧ a % 8 = 4 then (a - 4, .hi)
  else (a - a % 8, .other)

/-! Reads -/

/-- A read of TIM_NOW latches the fraction of the same instant (13 R499). -/
def State.latchFrac (s : State) : State := { s with time := { s.time with frac := s.time.ctr / 2 ^ 32 % 2 ^ 16 } }

/-- A read: its value and what it changes. -/
def State.regRead (s : State) (w : Writer) (a : Nat) (c : Acc) : Word × State :=
  if s.jetHides w a then (c.take allBits, s)
  else if s.sitHides w a || !s.permits w a false then (0, s)
  else if c = .other then (0, s)
  else if a = rPwrStatus then
    match s.useModLtr with
    | (l, s) => (c.take (BitVec.ofNat 64 (s.powerMod l)), s)
  else (c.take (s.regView a), if a = rTimNow then s.latchFrac else s)

end Sys2Proof.Machine
end

