-- ==== Sys2Proof/Machine/RegWrite.lean ====
section
/-! DEFINITION. Writes of registers (00 R11 to R14): locks, reserved values, complement twins, shadows, and what each
register's write does. -/
namespace Sys2Proof.Machine

/-! What a partition does while it is configured -/

/-- A tile of the partition runs a task, or its program is on the way there (09 R331, 10 R398, 11 R440). -/
def State.partBusy (s : State) (p : Nat) : Bool :=
  (s.partTiles p).any (fun t =>
    let h := (s.tile t).herder
    h.user.task.isSome || h.kern.task.isSome || !h.launches.isEmpty)

/-- The shares of RTV_PART_BW satisfy 09 R328. -/
def sharesOk (v : Word) : Bool :=
  let r := fld v 5 0
  let w := fld v 13 8
  let m := fld v 21 16
  let ok (x : Nat) : Bool := decide (1 ≤ x ∧ x ≤ 30)
  ok r && ok w && ok m && r + w + m == 32

/-! Rings (11 R415, R436) -/

/-- The ring's bound group lies in its partition, and no enabled ring of the partition is bound to a group that
partly overlaps it. -/
def State.groupOk (s : State) (g : Nat) : Bool :=
  let x := s.ringGroup g
  x.onMesh && x.tiles.all (s.ownsTile (g / 64))
    && (List.range 64).all (fun r =>
      let j := 64 * (g / 64) + r
      j == g || !s.ringEn j || s.ringGroup j == x || !(s.ringGroup j).meets x)

/-- A write of FE_RING_CFG with the merged value. -/
def State.ringCfgWrite (s : State) (part : Option Nat) (g : Nat) (v : Word) : State :=
  let a := ringReg g oRingCfg
  let old := s.reg a
  let r := s.ring g
  if bit old 0 then
    if v ||| 1 ≠ old then s.config part a
    else if bit v 0 then s
    else if r.done = r.tail then s.setReg a v else s.config part a
  else if bit v 0 then
    if !r.baseWritten || !r.cbaseWritten || !s.groupOk g then s.config part a
    else (s.setReg a v).modRing g (fun r =>
      { ((r.setTail 0).setFetched 0).setDone 0 with broken := false, pkts := [], bells := [] })
  else s.setReg a v

/-! Link mailbox (12 R495) -/

/-- A write of LNK_MBOX_H1 with its merged value sends the transaction; in sit mode no request is issued (16 R630). -/
def State.mboxWrite (s : State) (part : Option Nat) (v : Word) : State :=
  let h0 := s.reg rMboxH0
  let ty := fld h0 4 0
  let len := fld v 53 48 + 1
  if s.fe.sit.on || bit (s.reg rMboxStat) 0 || !(decide (1 ≤ ty ∧ ty ≤ 3)) || 8 < len || (ty == 3 && len != 8) then s.config part rMboxH1
  else
    let s := (s.setReg rMboxH1 v).setRegF rMboxStat 0 0 1
    -- PART of a writer that serves no partition is not stated: a free value
    let (pf, s) := s.free
    let x : Txn := {
      type := (TType.ofCode ty).getD .rd, part := part.getD (fld pf 3 0)
      dst := fld h0 24 11, addr := fld v 47 0, len := len, vc := .req
      data := if ty = 1 then [] else (toBytesLE 8 (s.reg rMboxData).toNat).take len }
    match s.sendReq 0x7FF x .mailbox with
    | (some _, s) => s
    | (none, s) => s.setRegF rMboxStat 4 0 (2 + TStat.noRoute.code <<< 2)

/-! Firmware update (17 R664, R665) -/

/-- The interface of a writer: 2 for the chain, else 1 for the physical function. -/
def Writer.iface : Writer → Nat
  | .chain => 2
  | _ => 1

/-- An operation ends with a result. -/
def State.fwEnds (s : State) (res : Nat) : State :=
  State.setRegF { s with mgt := { s.mgt with fwResult := res, fwBusy := none } } rMgtAlert 4 4 1

/-- The 4 KiB of MGT_FW_BUF. -/
def State.fwBuf (s : State) : List Byte :=
  (List.range 512).flatMap (fun i => toBytesLE 8 (s.reg (0xF00000081000 + 8 * i)).toNat)

/-- A slot's bytes with 4 KiB programmed at an offset; bytes not programmed since the erase read 0xFF (PRESUMED, log entry 79). -/
def programSlot (old : List Byte) (off : Nat) (buf : List Byte) : List Byte :=
  let old := old ++ List.replicate (off - old.length) 0xFF
  old.take off ++ buf ++ old.drop (off + 4096)

/-- An operation of an interface that owns the update, or takes it. -/
def State.fwStart (s : State) (iface op type off : Nat) : State :=
  let m := { s.mgt with fwSlot := 1 - s.mgt.pref }
  let tgt := 2 * type + (1 - m.pref)
  let busy (o : FwOp) (f : SMap (List Byte)) : State :=
    { s with mgt := { m with fwBusy := some (o, type), fwType := type, flash := f } }
  match op with
  | 1 =>
    if SMap.find m.runSlot type = some (1 - m.pref) then s.fwEnds 2
    else { s with mgt := { m with
      owner := iface, fwBusy := some (.open_, type), fwType := type, flash := SMap.set m.flash tgt [] } }
  | 2 =>
    if off % 4096 ≠ 0 ∨ slotSize type < off + 4096 then s.fwEnds 3
    else busy .write (SMap.set m.flash tgt (programSlot (SMap.get [] m.flash tgt) off s.fwBuf))
  | 3 => busy .verify m.flash
  | 4 => busy .copy (SMap.set m.flash tgt (SMap.get [] m.flash (2 * type + m.pref)))
  | _ => busy .close m.flash

/-- A write of MGT_FW_CTL that names an operation. -/
def State.fwCommand (s : State) (iface op type off : Nat) : State :=
  let m := s.mgt
  if m.fwBusy.isSome ∨ (m.owner ≠ 0 ∧ m.owner ≠ iface) then { s with mgt := { m with fwResult := 1 } }
  else if op ≠ 1 ∧ m.owner = 0 then s.fwEnds 5
  else s.fwStart iface op type off

/-- The boot flash reported an error while it was erased, programmed or read: a free value (log entry 107). -/
def State.flashError (s : State) : Bool := bit s.free.1 0

/-- An operation ends. CLOSE touches no flash. -/
def execFwOpDone (s : State) : Host.Outcome State Fault Refusal :=
  match s.mgt.fwBusy with
  | none => .next s
  | some (op, type) =>
    let flashError := s.flashError
    let s := s.free.2
    match op with
    | .open_ | .write => .next (s.fwEnds (if flashError then 6 else 0))
    | .verify | .copy =>
      .next (s.fwEnds (if flashError then 6 else if s.slotOk type (1 - s.mgt.pref) then 0 else 4))
    | .close => .next (State.fwEnds { s with mgt := { s.mgt with owner := 0 } } 0)

/-! What the written bits do: `p` holds the written bits in place, `m` the bits written, `v` the merged value -/

/-- Tile pages. -/
def State.tileWrite (s : State) (part : Option Nat) (t off : Nat) (p m v : Word) : State :=
  let a := tilePage t off
  if off = oPackCfg ∨ off = oQntCfg then
    let cur := ((s.tile t).pack.cfgWrites.reverse.find? (fun c => c.addr == a)).map (·.value)
    let v := (cur.getD (s.reg a) &&& ~~~ m) ||| p
    let h := s.herder t
    let c : CfgWrite := ⟨a, v, h.user.serial, h.kern.serial⟩
    let pk := (s.tile t).pack
    if pk.cfgWrites.isEmpty && pk.held.isEmpty then s.applyCfg t c
    else s.modPack t (fun x => { x with cfgWrites := x.cfgWrites ++ [c] })
  else if off = oSclCommit then s.sclCommit part t p
  else if off = oRtvFault then
    let s' := s.setReg a v
    if bit p 3 && bit (s.reg a) 3 then s'.refillFault t else s'
  else if off = oRtvCtl then s.rtvCtl t p
  else if off = oDigCfg then
    let v := (((s.tile t).digPend.getD (s.reg a)) &&& ~~~ m) ||| p
    if tileSize ≤ fld v 25 5 <<< 5 then s.config part a
    else if s.drnBusy t then s.modTile t (fun x => { x with digPend := some v })
    else s.putDigCfg t v
  else s.setReg a v

/-- Ring registers. -/
def State.ringWrite (s : State) (part : Option Nat) (g off : Nat) (p v : Word) : State :=
  let a := ringReg g off
  if off = oRingCfg then s.ringCfgWrite part g v
  else if off = oRingDb then s.ringBell part g p
  else if off = oRingCbase then
    if s.ringEn g then s.config part a else (s.setReg a v).modRing g (fun r => { r with cbaseWritten := true })
  else if off = oRingGrp then if s.ringEn g then s.config part a else s.setReg a v
  else s.setReg a v

/-- Partition pages. -/
def State.partWrite (s : State) (part : Option Nat) (q off : Nat) (p m v : Word) : State :=
  let a := partPage q off
  if 0x1000 ≤ off then s.ringWrite part (64 * q + (off - 0x1000) / 0x40) (off % 0x40) p v
  else if off = oPartLock then if v = s.reg a then s else s.putPartLock q (fld v 5 0)
  else if 0x70 ≤ off ∧ off ≤ 0x98 then s.setReg a ((s.reg a &&& ~~~ m) ||| p)
  else if off = oPmrCtl then if bit p 0 then s.startExtend part q else s
  else if off = oPartFlags then
    (s.partTiles q).foldl (fun (s : State) t =>
      s.setReg (tilePage t oNumFlags) (s.reg (tilePage t oNumFlags) &&& ~~~ p)) s
  else if off = oPartBw then if s.partBusy q || !sharesOk v then s.config part a else s.setReg a v
  else if off = oXltCfg then if s.partBusy q then s.config part a else s.setReg a v
  else if off = oXltInv then if bit p 0 then s.modPart q (fun x => { x with invBusy := true }) else s
  else if off = oCryptCtl then
    if s.partBusy q then s.config part a else if bit m 0 then s.putCrypt q (bit p 0) else s
  else if off = oPartCtl then if bit m 0 && s.partBusy q then s.config part a else s.setReg a v
  else s.setReg a v

/-- MGT_ registers that act. -/
def State.mgtWrite (s : State) (w : Writer) (part : Option Nat) (a : Nat) (p v : Word) : State :=
  if a = rMgtBootCfg then { s with mgt := { s.mgt with bootCfg := fld v 3 0 } }
  else if a = rMgtBootCtl then
    if bit p 1 then s.moduleReset .boot else if bit p 0 then s.writeProceed part else s
  else if a = rMgtPartRel then
    (List.range 16).foldl (fun (s : State) q => if bit p q then s.firstRelease part q else s) s
  else if a = rMgtFwCtl then
    let s := s.setReg a (v &&& 0xFFFFFFFF000000C0)
    if fld p 2 0 = 0 then s else s.fwCommand w.iface (fld p 2 0) (fld v 7 6) (fld v 63 32)
  else s.setReg a v

/-- SEC_ and REL_ registers that act. -/
def State.secWrite (s : State) (part : Option Nat) (a : Nat) (p m v : Word) : State :=
  if a = rRelInjCtl then s.armInj part v
  else if a = rRelCrimsonCtl then
    if bit p 1 && s.sec.crimson then State.moduleReset (s.setReg a v) s.crimsonPhase else s.setReg a v
  else if a = rRelSpareCtl then
    let s := if bit p 0 then s.applyDie part false else s
    if bit p 1 then s.applyDie part true else s
  else if a = rSecLock then if v = s.reg a then s else s.putModLock (fld v 7 0)
  else if a = rSecBoot then
    let s := if bit m 0 then { s with mgt := { s.mgt with pref := fld v 0 0 } } else s
    if bit p 16 then s.raiseMins part else s
  else if 0xF00000070100 ≤ a ∧ a < 0xF00000070180 then
    if s.sec.mapBusy then s.config part a
    else { s with shadow := SMap.set s.shadow a ((s.shadowOf a &&& ~~~ m) ||| p) }
  else if a = rSecMapCommit then
    if s.sec.mapBusy then s.config part a
    else
      let s := s.setReg a v
      if bit p 0 then s.commitMap part else s
  else s.setReg a v

/-- Module pages. -/
def State.moduleWrite (s : State) (w : Writer) (part : Option Nat) (a : Nat) (p m v : Word) : State :=
  if 0xF00000020000 ≤ a ∧ a < 0xF00000022400 then
    let s := s.setReg a v
    if a % 0x100 = 0 ∧ bit m 0 then s.linkCtl ((a - 0xF00000020000) / 0x100) p else s
  else if a = rEnumCfg then
    let s := s.setReg a v
    if bit p 2 then s.startEnum else s
  else if a = rMboxH1 then s.mboxWrite part v
  else if a = rTimCfg then
    let moved := decide (fld v 1 0 ≠ s.timSrc)
    if moved && (List.range 16).any (fun q => (s.part q).released) then s.config part a
    else if moved then (s.setReg a v).newTimSrc else s.setReg a v
  else if isMgtReg a then s.mgtWrite w part a p v
  else if 0xF00000060000 ≤ a ∧ a < 0xF00000080000 then s.secWrite part a p m v
  else s.setReg a v

/-- A write that nothing has turned away. -/
def State.effect (s : State) (w : Writer) (a : Nat) (p m v : Word) : State :=
  let part := w.owner s
  match pageOf a with
  | .tile t => s.tileWrite part t (a % 0x1000) p m v
  | .part q => s.partWrite part q (a % 0x10000) p m v
  | .module => s.moduleWrite w part a p m v
  | .none => s

/-! Complement twins (00 R14, 16 R622) -/

/-- A CW register, or its twin, cannot be written now: the ring is enabled (11 R435), or the array's commit waits
(16 R623). -/
def State.cwHeld (s : State) (a : Nat) : Bool :=
  match pageOf a with
  | .part q =>
    let off := a % 0x10000
    decide (0x1000 ≤ off) && s.ringEn (64 * q + (off - 0x1000) / 0x40)
  | .tile t => decide (0x400 ≤ a % 0x1000) && (s.tile t).pack.sclPend.contains ((a % 0x1000 - 0x400) / 0x80)
  | _ => false

/-- What follows when a pair is installed. -/
def State.cwInstalled (s : State) (a : Nat) : State :=
  match pageOf a with
  | .part q =>
    let off := a % 0x10000
    if off = oLtr then s.applyLtr q
    else if 0x1000 ≤ off then s.modRing (64 * q + (off - 0x1000) / 0x40) (fun r => { r with baseWritten := true })
    else s
  | .module =>
    if a = rPwrJet then
      -- the use of JET: a failed pair reads as 0 (15 R588)
      let (bad, s) := s.useCw none a
      if !bad && s.regF a 0 0 == 1 then (if s.power.jet then s else s.enterJet)
      else if s.power.jet then { s with power := { s.power with jetExit := true } } else s
    else s
  | _ => s

/-- Installs a pair, into the shadow for a staged register; Jet only when it may be entered (14 R555). -/
def State.installCw (s : State) (part : Option Nat) (r : Reg) (a : Nat) (v c : Word) : State :=
  let s := { s with cwPend := SMap.erase s.cwPend a }
  if r.staged then { s with shadow := SMap.set (SMap.set s.shadow a v) (a + 8) c }
  else if a = rPwrJet ∧ bit v 0 ∧ !s.power.jet ∧ !s.jetOk then s.config part a
  else State.cwInstalled ((s.setReg a v).setReg (a + 8) c) a

/-- The installed value of a CW register or twin, which is the shadow's for a staged one. -/
def State.cwNow (s : State) (r : Reg) (a : Nat) : Word := if r.staged then s.shadowOf a else s.reg a

/-- A reserved bit written as 1, or a reserved encoding in an enumerated field that the write touches (R13). -/
def Reg.refuses (r : Reg) (p m v : Word) : Bool :=
  decide (p &&& ~~~ r.live ≠ 0)
  || r.bad.any (fun b => decide (maskOf 64 b.1 b.2.1 &&& m ≠ 0) && decide (b.2.2.1 ≤ fld v b.1 b.2.1 ∧ fld v b.1 b.2.1 ≤ b.2.2.2))

/-- A write of a CW register: its value becomes pending. -/
def State.cwWrite (s : State) (part : Option Nat) (r : Reg) (a : Nat) (p m : Word) : State :=
  let v := (SMap.get (s.cwNow r a) s.cwPend a &&& ~~~ m) ||| p
  if r.refuses p m v || s.cwHeld a then s.config part a
  else { s with cwPend := SMap.set s.cwPend a v }

/-- A write of a twin. -/
def State.twinWrite (s : State) (part : Option Nat) (r : Reg) (a : Nat) (p m : Word) : State :=
  let c := (s.cwNow r a &&& ~~~ m) ||| p
  if decide (p &&& ~~~ r.live ≠ 0) || s.cwHeld a then s.config part a
  else match SMap.find s.cwPend (a - 8) with
    | none => s.compWrite part a
    | some v =>
      if (v ^^^ c) &&& r.cwMask = r.cwMask then s.installCw part r (a - 8) v c
      else State.compWrite { s with cwPend := SMap.erase s.cwPend (a - 8) } part a

/-! The route table (12 R470) -/

def isRoute (a : Nat) : Bool := decide (0xF00000100000 ≤ a ∧ a < 0xF00000120000)

/-- A route entry with a matching pair holds no reserved encoding. -/
def routeEntryOk (a : Nat) (v : Word) : Bool :=
  decide (a ≠ routeAddr 0x3FFF) && decide (fld v 31 27 = 0) && decide (fld v 26 24 ≤ 4)
    && (List.range (fld v 26 24)).all (fun i => decide (fld v (6 * i + 5) (6 * i) < 36))

def State.routeWrite (s : State) (part : Option Nat) (a : Nat) (v : Word) : State :=
  if a = routeAddr 0x3FFF then s.config part a
  else if !routePairOk v then s.compWrite part a
  else if routeEntryOk a v then s.setReg a v else s.config part a

/-! Locks (R613 to R615) -/

/-- Fields that a write changes or that act. -/
def Reg.writable (r : Reg) : Word := r.mask (fun t => t != .ro)
def Reg.maskOfTy (r : Reg) (t : FTy) : Word := r.mask (fun u => u == t)

/-- Writers that act at level F. -/
def Writer.atF : Writer → Bool
  | .herder _ .f | .pf | .lockWr _ _ | .mailbox => true
  | _ => false

/-- The bits of a register that a writer finds locked: LOCK_WR none; KERNEL and SYS of a ring for writers below
level F (11 R436). -/
def State.lockedFor (s : State) (w : Writer) (a : Nat) : Word :=
  match w with
  | .lockWr _ _ => 0
  | _ =>
    let ring := match pageOf a with
      | .part _ => decide (0x1000 ≤ a % 0x10000 ∧ a % 0x40 = oRingCfg)
      | _ => false
    s.lockedBits a ||| (if ring && !w.atF then 0xC else 0)

/-- A write touches what is locked: it would change a locked field, trigger a locked action, or clear a set WL
bit. -/
def touchesLock (r : Reg) (old p m lck : Word) : Bool :=
  decide (((old ^^^ p) &&& m &&& lck &&& r.maskOfTy .rw) ||| (p &&& lck &&& (r.maskOfTy .wo ||| r.maskOfTy .w1c))
    ||| (old &&& ~~~ p &&& m &&& r.maskOfTy .wl) ≠ 0)

/-- The merged value of a write (R12): RW takes the written bits, W1C clears, WL sets. -/
def Reg.after (r : Reg) (old p m : Word) : Word :=
  (((old &&& ~~~ (r.maskOfTy .rw &&& m)) ||| (p &&& r.maskOfTy .rw)) &&& ~~~ (p &&& r.maskOfTy .w1c))
    ||| (p &&& r.maskOfTy .wl)

/-- A write to a register that holds no CW field. -/
def State.plainWrite (s : State) (w : Writer) (r : Reg) (a : Nat) (p m lck : Word) : State :=
  let old := s.regNow a
  if r.refuses p m ((old &&& ~~~ m) ||| p) then s.config (w.owner s) a
  else if r.writable = 0 then s
  else
    let s := if touchesLock r old p m lck then s.violation w a else s
    let p := p &&& ~~~ (lck &&& ~~~ r.maskOfTy .wl)
    let m := m &&& ~~~ (lck &&& ~~~ r.maskOfTy .wl)
    s.effect w a p m (r.after (if viewMask a = allBits then old else s.reg a) p m)

/-- A write to a register of the map. -/
def State.knownWrite (s : State) (w : Writer) (r : Reg) (a : Nat) (p m : Word) : State :=
  let s := s.checkLocks a
  let lck := s.lockedFor w a
  if lck ≠ 0 ∧ r.writable &&& ~~~ lck = 0 then s.violation w a
  else if isRoute a then s.routeWrite (w.owner s) a ((s.reg a &&& ~~~ m) ||| p)
  else if r.isTwin then s.twinWrite (w.owner s) r a p m
  else if r.cwMask ≠ 0 then s.cwWrite (w.owner s) r a p m
  else if a = rRelInjCtl ∧ s.regF rRelCfg 0 0 = 0 then s
  else s.plainWrite w r a p m lck

/-- A permitted write: other widths do nothing, a half of FE_RING_DB is no doorbell (11 R405), and reserved
offsets of a page take only zero (R13). -/
def State.writeAt (s : State) (w : Writer) (a : Nat) (c : Acc) (v : Word) : State :=
  if c = .other ∨ a % 8 ≠ 0 then s
  else match findReg a with
    | some r =>
      let bell := match pageOf a with
        | .part _ => isBell (a % 0x10000)
        | _ => false
      if bell && decide (c ≠ .full) then s.config (w.owner s) a else s.knownWrite w r a (c.place v) c.mask
    | none => if c.place v = 0 then s else s.config (w.owner s) a

/-- A write by any writer (R607, R608). A herder's denied write raises PRIV at its store and does nothing here. -/
def State.regWrite (s : State) (w : Writer) (a : Nat) (c : Acc) (v : Word) : State :=
  if s.jetHides w a || s.sitHides w a then s
  else if s.permits w a true then s.writeAt w a c v
  else match w with
    | .herder _ _ => s
    | _ => s.violation w a

end Sys2Proof.Machine
end

