-- ==== Sys2Proof/Machine/Commands.lean ====
section
/-! DEFINITION. CMD packets: partition commands, LOCK_WR, stored programs, time commands and SIT (11 R414, R421, R431
to R434; 13 R512; 14 R560; 16 R616). -/
namespace Sys2Proof.Machine

/-! Which command executes next (R414) -/

/-- Versions of an ID that would stay beside a new one. -/
def State.livePrograms (s : State) (p id : Nat) : Nat :=
  ((SMap.get [] s.fe.progs p).filter (fun v => v.id == id && v.live != 0)).length

/-- A PROG_PATCH that would need a fifth version holds its ring, and no other (R421). -/
def State.patchHeld (s : State) (g : Nat) (k : Pkt) : Bool :=
  k.opcode == 9 && decide (4 ≤ s.livePrograms (g / 64) (fld (k.w 1) 7 0))

/-- Ring g's head packet, a CMD that may execute. -/
def State.cmdHead (s : State) (g : Nat) : Option Pkt :=
  if (s.ring g).broken then none else (s.readyHead g).filter (fun k => k.isCmd && !s.patchHeld g k)

/-- Commands execute in validation order: no other ring's ready command was validated earlier. -/
def State.cmdFirst (s : State) (k : Pkt) : Bool :=
  s.fe.rings.all (fun gr => (s.cmdHead gr.1).all (fun j => decide (k.order ≤ j.order)))

/-- The command of an opcode that executes now on ring g. -/
def State.cmdReady (s : State) (g op : Nat) : Option Pkt :=
  if s.feRuns then (s.cmdHead g).filter (fun k => k.opcode == op && s.cmdFirst k) else none

/-- The command of an opcode on ring g whose effect is under way. -/
def State.cmdBusy (s : State) (g op : Nat) : Option Pkt :=
  (s.ring g).pkts.find? (fun k => decide (k.st = .busy) && k.isCmd && k.opcode == op)

/-- A command's effect is under way. -/
def State.holdCmd (s : State) (g n : Nat) : State := s.modPkt g n (fun k => { k with st := .busy, start := s.now })

/-- A command ends; a command that has reset the module has no packet any more. -/
def State.doneCmd (s : State) (g n : Nat) (res : TaskRes := .ok) (code : Nat := 0) : State :=
  match s.pkt g n with
  | some _ => s.endCmd g n res code
  | none => s

/-! PART_STOP, PART_RELEASE, PART_RESET, CANCEL -/

/-- A user task of the partition runs or drains. -/
def State.userRuns (s : State) (p : Nat) : Bool :=
  (s.openTasks p).any (fun r => !s.ringKernel r.ring)

def execPartStop (g : Nat) (s : State) : Host.Outcome State Fault Refusal :=
  match s.cmdReady g 1 with
  | some k =>
    let p := fld (k.w 1) 3 0
    let s := { s with fe := { s.fe with stopped := if s.fe.stopped.contains p then s.fe.stopped else s.fe.stopped ++ [p] } }
    .next (if s.userRuns p then s.holdCmd g k.count else s.endCmd g k.count)
  | none =>
    match s.cmdBusy g 1 with
    | some k => if s.feRuns && !s.userRuns (fld (k.w 1) 3 0) then .next (s.endCmd g k.count) else .next s
    | none => .next s

def execPartRelease (g : Nat) (s : State) : Host.Outcome State Fault Refusal :=
  match s.cmdReady g 2 with
  | some k => .next ((s.cmdRelease (some (g / 64)) (fld (k.w 1) 3 0)).endCmd g k.count)
  | none => .next s

def execPartReset (g : Nat) (s : State) : Host.Outcome State Fault Refusal :=
  match s.cmdReady g 3 with
  | some k => .next ((s.holdCmd g k.count).quietReset (fld (k.w 1) 3 0) false)
  | none => .next s

/-- Tasks of a ring that run or drain. -/
def State.ringTasks (s : State) (g : Nat) : List TaskRef := (s.openTasks (g / 64)).filter (fun r => r.ring == g)

def execCancel (g : Nat) (s : State) : Host.Outcome State Fault Refusal :=
  match s.cmdReady g 4 with
  | some k =>
    let l := s.ringTasks (64 * (g / 64) + fld (k.w 1) 5 0)
    let s := l.foldl (fun (s : State) r => s.drainTask r 2 .cancelled 0 0x7FF) s
    .next (if l.isEmpty then s.endCmd g k.count else s.holdCmd g k.count)
  | none =>
    match s.cmdBusy g 4 with
    | some k =>
      if s.feRuns && (s.ringTasks (64 * (g / 64) + fld (k.w 1) 5 0)).isEmpty then .next (s.endCmd g k.count) else .next s
    | none => .next s

/-! LOCK_WR (16 R616) -/

/-- The pairs checked at every LOCK_WR (16 R619). -/
def State.checkRingLocks (s : State) (g : Nat) : State := (s.checkModLock).checkPartLock (g / 64)

/-- A WL field that holds 1 would be written 0. -/
def State.clearsWl (s : State) (a : Nat) (v : Word) : Bool :=
  match findReg a with
  | some r => decide (s.regNow a &&& ~~~ v &&& r.maskOfTy .wl ≠ 0)
  | none => false

/-- The write itself: a CW register takes value and twin together. -/
def State.lockedWrite (s : State) (w : Writer) (a : Nat) (v c : Word) : State :=
  match findReg a with
  | some r =>
    if r.cwMask ≠ 0 ∧ !r.isTwin then
      if r.refuses v allBits v || s.cwHeld a then s.config (w.owner s) a
      else s.installCw (w.owner s) r a v (c &&& r.cwMask)
    else s.regWrite w a .full v
  | none => s.regWrite w a .full v

def execLockWr (g : Nat) (s : State) : Host.Outcome State Fault Refusal :=
  match s.cmdReady g 8 with
  | none => .next s
  | some k =>
    let a := (k.w 1).toNat
    let v := k.w 2
    let w := Writer.lockWr (g / 64) (s.ringSys g)
    let s := s.checkRingLocks g
    if k.w 3 ≠ ~~~ v then .next ((s.compWrite (some (g / 64)) a).endCmd g k.count .fault Exc.complement.code)
    else if !s.permits w a true || s.clearsWl a v then
      .next ((s.violation w a).endCmd g k.count .fault Exc.priv.code)
    else .next ((s.lockedWrite w a v (k.w 3)).doneCmd g k.count)

/-! Stored programs (R421) -/

/-- The version after another: 1 at first, and 1 after 0xFFFF. -/
def nextVersion (v : Nat) : Nat := if v = 0xFFFF then 1 else v + 1

/-- A partition's table without a current version of an ID. -/
def State.dropCurrent (s : State) (p id : Nat) : State :=
  { s with fe := { s.fe with progs := SMap.set s.fe.progs p ((SMap.get [] s.fe.progs p).map (fun v =>
    if v.id = id then { v with current := false } else v)) } }

def execProgPatch (g : Nat) (s : State) : Host.Outcome State Fault Refusal :=
  match s.cmdReady g 9 with
  | none => .next s
  | some k =>
    let p := g / 64
    let id := fld (k.w 1) 7 0
    let n := nextVersion (SMap.get 0 s.fe.progLast (256 * p + id))
    let x : ProgVer := ⟨id, n, fld (k.w 2) 47 0, fld (k.w 3) 11 0 + 1, true, 0⟩
    let s := s.dropCurrent p id
    let s := { s with fe := { s.fe with
      progs := SMap.set s.fe.progs p (SMap.get [] s.fe.progs p ++ [x])
      progLast := SMap.set s.fe.progLast (256 * p + id) n } }
    .next ((s.retireProgs p).endCmd g k.count)

def execProgRemove (g : Nat) (s : State) : Host.Outcome State Fault Refusal :=
  match s.cmdReady g 0xA with
  | some k => .next (((s.dropCurrent (g / 64) (fld (k.w 1) 7 0)).retireProgs (g / 64)).endCmd g k.count)
  | none => .next s

/-! Time commands (13 R512) -/

/-- A time command on a module with another source. -/
def State.ignoreTime (s : State) : State := s.setRegF rTimStatus 4 4 1

def execTimeStep (g : Nat) (s : State) : Host.Outcome State Fault Refusal :=
  match s.cmdReady g 0x10 with
  | none => .next s
  | some k =>
    if s.timSrc ≠ 0 then .next (s.ignoreTime.endCmd g k.count)
    else
      let c := ((k.w 1).toNat * 2 ^ 16 + fld (k.w 2) 15 0) * 2 ^ 32
      .next (State.countStep { s with time := { s.time with ctr := c, locked := true } } |>.endCmd g k.count)

def execTimeSlew (g : Nat) (s : State) : Host.Outcome State Fault Refusal :=
  match s.cmdReady g 0x11 with
  | none => .next s
  | some k =>
    if s.timSrc ≠ 0 then .next (s.ignoreTime.endCmd g k.count)
    else .next (State.endCmd { s with time := { s.time with rate := (k.w 1).toInt } } g k.count)

/-! SIT (R431 to R434) -/

/-- Every running task, of every partition. -/
def State.allTasks (s : State) : List TaskRef :=
  s.fe.rings.flatMap (fun gr => (gr.2.pkts.filter (fun k => decide (k.st = .running))).map (fun k => ⟨gr.1, k.count⟩))

/-- The SIT command is validated: sit mode begins, and the governor's override unless it held already (14 R560). -/
def State.startSit (s : State) (g : Nat) (k : Pkt) : State :=
  let (ltr, s) := s.useModLtr
  let ovr := s.power.override || (!s.fe.sit.on && s.modState ltr == 0)
  let s := s.allTasks.foldl (fun (s : State) r =>
    s.hangLog r.ring (((s.taskTiles r).map (·.1)).foldl min 0x7FF) 3 false) s
  let s := (s.setRegF rMgtAlert 5 5 1).setRegF rSecBoot 23 20 5
  { s.holdCmd g k.count with
    power := { s.power with override := ovr, step := if ovr then 16 else s.power.step }
    fe := { (s.holdCmd g k.count).fe with sit :=
      { on := true, done := false, lat := s.fe.sit.lat, began := k.dbAt, cmd := some ⟨g, k.count⟩,
        toReach := List.range 1152, toReport := [] } } }

/-- The oldest packet of a ring that is not validated. -/
def Ring.unchecked (r : Ring) : Option Pkt := r.pkts.find? (fun k => k.st = .fetched)

/-- Checks a packet; a SIT command takes effect there and then, unless one is under way (R411, R412, R431). -/
def State.validate (s : State) (g : Nat) (k : Pkt) : State :=
  let s := s.modRing g (fun r => r.setFetched ((k.count + 1) % two32))
  let s := { s with fe := { s.fe with order := s.fe.order + 1 } }
  match s.checkPkt g k with
  | (.error e, s) => s.reject g k e
  | (.ok (segs, ver), s) =>
    let s := s.modPkt g k.count (fun k => { k with st := .valid, order := s.fe.order, prog := segs, version := ver })
    if k.isCmd ∧ k.opcode = 0x20 ∧ s.fe.sit.cmd.isNone then s.startSit g k
    else if ver = 0 then s
    else s.modLive (g / 64) (fld (k.w 1) 7 0) ver (· + 1)

def execPacketValidate (g : Nat) (s : State) : Host.Outcome State Fault Refusal :=
  match (s.ring g).unchecked with
  | some k => if s.feRuns then .next (s.validate g k) else .next s
  | none => .next s

/-- A SIT command that was validated while another was under way. -/
def State.sitWaits (s : State) (g : Nat) : Option Pkt :=
  (s.ring g).pkts.find? (fun k => decide (k.st = .valid) && k.isCmd && k.opcode == 0x20)

/-- The SIT packet of a ring is validated, or one that waits takes effect (R431). -/
def execSit (g : Nat) (s : State) : Host.Outcome State Fault Refusal :=
  if !s.feRuns then .next s
  else match s.sitWaits g, (s.ring g).unchecked with
    | some k, _ => if s.fe.sit.cmd.isSome then .next s else .next (s.startSit g k)
    | none, some k => if k.isCmd && k.opcode == 0x20 then .next (s.validate g k) else .next s
    | none, none => .next s

/-- A context stops issuing. -/
def Ctx.sitStop (c : Ctx) : Ctx :=
  if c.st = .idle then c else { c with st := .draining, wait := .none, deps := [], signal := false }

/-- A stream is quiesced: its reads are cancelled (09 R357). -/
def Strm.sitStop (x : Strm) : Strm :=
  if x.stopping then x else { x with quiesced := true, again := x.reads ++ x.again, reads := [] }

/-- The pass of an entry has left its array's queue (R431 step 2). -/
def Pack.holds (p : Pack) (e : Entry) : Bool :=
  p.arrs.any (fun ka => ({ ka.2 with queue := [] } : Arr).passes.any (fun x => x.kctx == e.kctx && x.serial == e.serial))

/-- A tile stops (R431 steps 1, 3 and 4): passes in a slot go on. -/
def State.sitStop (s : State) (t : Nat) : State :=
  let s := s.modTile t (fun x =>
    let h := x.herder
    { x with
      herder := { h with
        user := h.user.sitStop, kern := h.kern.sitStop, park := [], launches := []
        board := h.board.filter (fun e => e.phase != .issued || x.pack.holds e) }
      pack := { x.pack with parked := [], held := [],
                            arrs := x.pack.arrs.map (fun ka => (ka.1, { ka.2 with queue := [] })) }
      retr := { x.retr with strms := x.retr.strms.map Strm.sitStop }
      sfu := [] })
  let s := (s.stopDrns t false).stopDrns t true
  let gone := (s.herder t).board.filter (fun e => e.cls == .drn || e.cls == .sfu)
  gone.foldl (fun (s : State) e => (s.dropStage t e.kctx e.serial).dropEntry t e.kctx e.serial) s

/-- The measured time ends when the last tile has quiesced (R434). -/
def SitState.settled (x : SitState) (now : Nat) : SitState :=
  if x.toReach.isEmpty && x.toReport.isEmpty then { x with lat := (now - x.began) % 2 ^ 32 } else x

def execSitTileArrive (t : Nat) (s : State) : Host.Outcome State Fault Refusal :=
  let x := s.fe.sit
  if !x.toReach.contains t then .next s
  else
    let on := decide ((s.tile t).pwr.st = .ivory)
    let s := { s with fe := { s.fe with sit := ({ x with
      toReach := x.toReach.erase t, toReport := if on then x.toReport ++ [t] else x.toReport } : SitState).settled s.now } }
    .next (if on then s.sitStop t else s)

/-- A tile has quiesced: no pass is left, its streams issue nothing and what had returned has been written. -/
def Tile.sitQuiet (x : Tile) : Bool :=
  x.pack.idle && x.drn.isEmpty && x.sfu.isEmpty
    && x.retr.strms.all (fun y => y.stopping || (y.quiesced && (y.wq.isEmpty || y.fault.isSome)))

def execSitTileReport (t : Nat) (s : State) : Host.Outcome State Fault Refusal :=
  let x := s.fe.sit
  if x.toReport.contains t && (s.tile t).sitQuiet then
    .next { s with fe := { s.fe with sit := ({ x with toReport := x.toReport.erase t } : SitState).settled s.now } }
  else .next s

/-- A running task ends with RESULT SIT: what is left of it on its tiles is discarded. -/
def State.endSit (s : State) (r : TaskRef) : State :=
  let ts := s.taskTiles r
  let s := ts.foldl (fun (s : State) x => s.drainCtx x.1 x.2) s
  (s.idleTask r).endPkt r.ring r.count .sit 0 0x7FF

def execSitComplete (s : State) : Host.Outcome State Fault Refusal :=
  match s.fe.sit.cmd with
  | none => .next s
  | some c =>
    if !s.fe.sit.toReach.isEmpty || !s.fe.sit.toReport.isEmpty then .next s
    else
      let s := s.allTasks.foldl State.endSit s
      let x := s.fe.sit
      let s := { s with
        fe := { s.fe with sit := { x with done := true, cmd := none } }
        power := { s.power with override := false } }
      .next (s.endCmd c.ring c.count)

end Sys2Proof.Machine
end

