-- ==== Sys2Proof/Machine/HerderMem.lean ====
section
/-! DEFINITION. Scalar memory access (08 R280, R281; 07 R223; 10 R370). -/
namespace Sys2Proof.Machine

/-- Bytes that a scalar access moves. -/
def memSize (w : BitVec 64) : Nat := 2 ^ fld w 22 21

/-- The device address of a scalar access: the alias page is the tile's own register page. -/
def aliasOf (t a : Nat) : Nat :=
  if 0xF00F00000000 ≤ a ∧ a < 0xF00F00001000 then tilePage t (a - 0xF00F00000000) else a

/-- The address lies in a register that the access rules deny (07 R223). -/
def State.regDenied (s : State) (t : Nat) (l : Level) (x : Nat) (write : Bool) : Bool :=
  decide (regionOf x = .reg) && decide (pageOf x ≠ .none) && !s.permits (.herder t l) (x - x % 8) write

/-- The exception of a scalar access at an address, if it raises one before it begins: PRIV, then ALIGN, then ADDR
(08 R271, R280). -/
def State.scalarCheck (s : State) (t : Nat) (l : Level) (a n : Nat) (write : Bool) : Option Exc :=
  let x := aliasOf t a
  if s.regDenied t l x write then some .priv
  else if a % n ≠ 0 then some .align
  else
    match regionOf x with
    | .reg => if pageOf x = .none then some .addr else none
    | .sram _ _ | .hbm _ =>
      if l = .f then (if populated x n then none else some .addr)
      else if (s.tilePart t).any (fun p => s.reach p x n) then none else some .addr
    | _ => some .addr

/-- The check at issue: an exception with its INFO (07 R265). -/
def State.scalarExc (s : State) (t : Nat) (l : Level) (a n : Nat) (write : Bool) : Option IRes :=
  (s.scalarCheck t l a n write).map (fun x => .exc x (if x = .priv then 0 else a))

/-- The target of an access sleeps: the access waits for its exit (14 R548). -/
def State.targetSleeps (s : State) (t a : Nat) : Bool :=
  match regionOf a with
  | .sram u _ => u != t && (s.tile u).pwr.st != .ivory
  | _ => false

/-- A load of n bytes, extended by `ext`. -/
def loadBody (ext : Nat → Nat → Word) (s : State) (t : Nat) (k : Bool) (c : Ctx) (w : BitVec 64) : IRes :=
  let n := memSize w
  let a := effAddr c w
  match s.scalarExc t c.level a n false with
  | some r => r
  | none =>
    let x := aliasOf t a
    if s.targetSleeps t x then .stall s .issue
    else if regionOf x = .reg then
      let (ra, acc) := accOf x n
      let (v, s) := s.regRead (.herder t c.level) ra acc
      .retire (s.modCtx t k (fun c => c.sset (fD w) (ext n v.toNat)))
    else
      let s := s.touch x
      let bad := s.eccBad x n
      match s.load x n with
      | (some bs, s) => .retire (s.modCtx t k (fun c => c.sset (fD w) (ext n (ofBytesLE bs))))
      | (none, s) => .excA s .memEcc bad

/-- The low n bytes zero- or sign-extended to a register. -/
def zeroExt (n v : Nat) : Word := BitVec.ofNat 64 (v % 2 ^ (8 * n))
def signExt (n v : Nat) : Word := BitVec.ofInt 64 (toSigned (8 * n) v)

/-- A store of the low n bytes of sD. A store that resets the module (17 R668) leaves no context to go on with. -/
def storeBody (s : State) (t : Nat) (k : Bool) (c : Ctx) (w : BitVec 64) : IRes :=
  let n := memSize w
  let a := effAddr c w
  match s.scalarExc t c.level a n true with
  | some r => r
  | none =>
    let x := aliasOf t a
    let v := c.sget (fD w)
    if s.targetSleeps t x then .stall s .issue
    else if regionOf x = .reg then
      let (ra, acc) := accOf x n
      let s := s.regWrite (.herder t c.level) ra acc (zeroExt n v.toNat)
      if (s.ctx t k).st = .idle then .stall s .none else .retire s
    else .retire ((s.touch x).store x (toBytesLE n v.toNat))

def execLd (t : Nat) (w : BitVec 64) (s : State) : Host.Outcome State Fault Refusal := herd 0x40 0 (loadBody zeroExt) t w s
def execLds (t : Nat) (w : BitVec 64) (s : State) : Host.Outcome State Fault Refusal := herd 0x41 0 (loadBody signExt) t w s
def execSt (t : Nat) (w : BitVec 64) (s : State) : Host.Outcome State Fault Refusal := herd 0x42 0 storeBody t w s

end Sys2Proof.Machine
end

