-- ==== Sys2Proof/Machine/RetrIssue.lean ====
section
/-! DEFINITION. The mesh port of the retriever: which request issues next, its bounds and shares, and its access to
memory, to register pages and to other modules (09 R324 to R330, R344, R354, R357, R366). -/
namespace Sys2Proof.Machine

/-- What a stream would issue next. -/
inductive NextReq where
  /-- A read cancelled by quiescence, or one that found its translation faulty. -/
  | again (r : RdReq)
  /-- A word of a burst of descriptors. -/
  | fetch (r : RdReq)
  | write (w : WrReq)
  /-- A read, and its work after it. -/
  | read (r : RdReq) (w : Work)
  deriving DecidableEq, Repr

def NextReq.dev : NextReq → Option Nat
  | .again r => r.dev | .fetch r => r.dev | .write w => w.dev | .read r _ => r.dev
def NextReq.isWrite : NextReq → Bool
  | .write _ => true
  | _ => false

/-- The next read of a stream's last work: it starts while what its first element needs has room, and carries all
further elements of its block (R325). -/
def State.nextRead (s : State) (t : Nat) (x : Strm) : Option NextReq :=
  match x.works.getLast? with
  | none => none
  | some w =>
    let lim := s.readLimit t w
    let w := w.pads lim (lim - w.pos)
    if w.localSrc t || decide (lim ≤ w.pos) then none else (w.nextRead w.n).map (fun rw => .read rw.1 rw.2)

/-- The next word of a burst to be asked for (R344). -/
def Strm.nextFetch (x : Strm) : Option NextReq :=
  x.bursts.findSome? (fun b => (b.2.findIdx? (· == .want)).map (fun i =>
    .fetch { work := 0, first := i, n := 0, va := b.1 + 64 * i, bytes := 64, blk := some b.1 }))

/-- The next ready request of a stream: reads to be issued again first, then descriptor fetches, writes and element
reads. A quiesced stream writes what had returned and issues nothing else (R355, R357). -/
def State.nextReq (s : State) (t : Nat) (x : Strm) : Option NextReq :=
  if x.quiesced then x.wq.head?.map .write
  else match x.again, x.nextFetch, x.wq with
    | r :: _, _, _ => some (.again r)
    | [], some n, _ => some n
    | [], none, q :: _ => if q.closed then some (.write q) else s.nextRead t x
    | [], none, [] => s.nextRead t x

/-- MAX_OUT of a queue (R361). -/
def State.maxOut (s : State) (t q : Nat) : Nat := s.regF (tilePage t oQcfg) (6 * q + 5) (6 * q) + 1

/-- The class of a request still has share in the window (R329). -/
def State.shareLeft (s : State) (t : Nat) (n : NextReq) : Bool :=
  let r := (s.tile t).retr
  match s.tilePart t with
  | none => false
  | some p =>
    let a := partPage p oPartBw
    if n.dev.isSome then decide (r.winX < s.regF a 21 16)
    else if n.isWrite then decide (r.winW < s.regF a 13 8)
    else decide (r.winR < s.regF a 5 0)

/-- A ready request of a queue. -/
def State.candidate (s : State) (t q : Nat) : Option (Strm × NextReq) :=
  match (s.tile t).retr.issuing q with
  | some x => if x.fault.isNone then (s.nextReq t x).map (fun n => (x, n)) else none
  | none => none

/-- The request is within the bounds and its class has share left; a remote one finds a tag (R327, R330). -/
def State.qualifies (s : State) (t q : Nat) (n : NextReq) : Bool :=
  let r := (s.tile t).retr
  decide (r.outQ q < s.maxOut t q) && decide (r.out < 256) && s.shareLeft t n
    && (n.dev.isNone || (s.freeTag t).isSome)

/-- Counts a cycle in which ready requests waited (R366). -/
def State.countStalls (s : State) (t : Nat) : State :=
  let r := (s.tile t).retr
  let cs := (List.range 8).filterMap (fun q => (s.candidate t q).map (fun c => (q, c.2)))
  let a := tilePage t oRtvStallCnt
  let add (s : State) (b : Bool) (hi lo : Nat) : State := if b then s.addRegF a hi lo 1 else s
  add (add (add s (cs.any (fun c => !s.shareLeft t c.2)) 47 32)
    (cs.any (fun c => decide (s.maxOut t c.1 ≤ r.outQ c.1))) 31 16)
    (!cs.isEmpty && decide (256 ≤ r.out)) 15 0

/-- A request has left: it counts in its class's window, and takes its place in the order of issue. -/
def State.countWin (s : State) (t : Nat) (n : NextReq) : State :=
  s.modRetr t (fun r =>
    let r := { r with seq := r.seq + 1 }
    if n.dev.isSome then { r with winX := r.winX + 1 }
    else if n.isWrite then { r with winW := r.winW + 1 } else { r with winR := r.winR + 1 })

/-- The stream after a read has issued. -/
def Strm.readIssued (x : Strm) (n : NextReq) (r : RdReq) : Strm :=
  match n with
  | .again _ => { x with again := x.again.drop 1, reads := x.reads ++ [r] }
  | .read _ w => { x.putWork w with reads := x.reads ++ [r] }
  | .fetch _ => { x with
      reads := x.reads ++ [r]
      bursts := x.bursts.map (fun b => if some b.1 = r.blk then (b.1, b.2.set r.first .wait) else b) }
  | .write _ => x

/-- The descriptor a read belongs to (R363). -/
def Strm.descOf (x : Strm) (id : Nat) : Nat := ((x.works.find? (fun w => w.id == id)).map (·.desc)).getD 0

/-! Register pages (R324) -/

/-- A range of bytes cut at the registers' boundaries. -/
def cut8 : Nat → Nat → Nat → List (Nat × Nat)
  | 0, _, _ => []
  | f + 1, a, n =>
    if n = 0 then []
    else
      let m := min n (8 - a % 8)
      (a, m) :: cut8 f (a + m) (n - m)

/-- The bytes of a register page as a herder of the tile reads them, register by register. -/
def State.pageRead (s : State) (t : Nat) (l : Level) (a n : Nat) : List Byte × State :=
  (cut8 n a n).foldl (fun (r : List Byte × State) x =>
    let (b, c) := accOf x.1 x.2
    let (v, s) := r.2.regRead (.herder t l) b c
    (r.1 ++ toBytesLE x.2 v.toNat, s)) ([], s)

/-- Bytes written to a register page, register by register. -/
def State.pageWrite (s : State) (t : Nat) (l : Level) (a : Nat) (bs : List Byte) : State :=
  (cut8 bs.length a bs.length).foldl (fun s x =>
    let (b, c) := accOf x.1 x.2
    s.regWrite (.herder t l) b c (BitVec.ofNat 64 (ofBytesLE ((bs.drop (x.1 - a)).take x.2)))) s

/-- The partition's memory, or a register page that the context may reach (16 R603, R607). -/
def State.mayTouch (s : State) (t : Nat) (k write : Bool) (p a n : Nat) : Bool :=
  if pageOf a = .none then s.reach p a n
  else (s.sideReach t (s.ctx t k).level k write (a : Int) ((a + n : Nat) : Int)).isNone

/-! Issue -/

/-- A read that finds its translation faulty is the first that its stream issues again (R355). -/
def State.faultRead (s : State) (t : Nat) (x : Strm) (n : NextReq) (r : RdReq) : State :=
  let s := match n with
    | .read _ w => s.modStrm t x.kctx x.serial (fun y => { y.putWork w with again := r :: y.again })
    | _ => s
  s.haltStrm t x (x.descOf r.work) r.va false

/-- Issues a read. A register page answers at once; its data counts as on its way until it returns. -/
def State.issueRead (s : State) (t : Nat) (x : Strm) (n : NextReq) (r : RdReq) : State :=
  let p := s.partOf t
  let r := { r with seq := (s.tile t).retr.seq }
  match r.dev with
  | some d =>
    match s.sendReq t { type := .rd, dst := d, part := p, addr := r.va, len := r.bytes } (.rtvRead t x.kctx x.serial) with
    | (some g, s) =>
      (s.modStrm t x.kctx x.serial (fun y => y.readIssued n { r with tag := g })).countWin t n
    | (none, s) => s.failStrm t x.kctx x.serial .noRoute d
  | none =>
    match s.translate t p r.va false with
    | (.fault, s) => s.faultRead t x n r
    | (.bad, s) => s.failStrm t x.kctx x.serial .xlate r.va
    | (.ok a, s) =>
      if !s.mayTouch t x.kctx false p a r.bytes then s.failStrm t x.kctx x.serial .xlate r.va
      else if pageOf a = .none then
        (s.modStrm t x.kctx x.serial (fun y => y.readIssued n { r with addr := a })).countWin t n
      else
        let (bs, s) := s.pageRead t (s.ctx t x.kctx).level a r.bytes
        (s.modStrm t x.kctx x.serial (fun y => y.readIssued n { r with addr := a, got := some bs })).countWin t n

/-- The bytes a write request spans. -/
def WrReq.lo (w : WrReq) : Nat := (w.segs.map (·.1)).foldl min (w.va + 63)
def WrReq.hi (w : WrReq) : Nat := (w.segs.map (fun g => g.1 + g.2.length)).foldl max 0

/-- A write leaves the stream's queue. -/
def State.putWrite (s : State) (t : Nat) (x : Strm) (n : NextReq) (w : WrReq) : State :=
  (s.modStrm t x.kctx x.serial (fun y =>
    let y := { y with wq := y.wq.drop 1, wout := y.wout ++ [w] }
    { y with issued := y.issued || y.allIssued t })).countWin t n

/-- Nothing of the tile's that stands before a write in the order of its stream, or of its block, is on its way. -/
def State.wayFree (s : State) (t : Nat) (x : Strm) (w : WrReq) : Bool :=
  let r := (s.tile t).retr
  x.wout.all (·.arrived) && r.onWay.all (fun y => !sameBlock y.2.addr w.addr) && !r.readAhead w.addr w.seq

/-- Issues a write: it takes effect at its target, at once where nothing stands before it and its target is awake; or it
leaves for another module. -/
def State.issueWrite (s : State) (t : Nat) (x : Strm) (n : NextReq) (w : WrReq) : State :=
  let p := s.partOf t
  let w := { w with seq := (s.tile t).retr.seq }
  match w.dev with
  | some d =>
    let bs := w.segs.flatMap (·.2)
    match s.sendReq t { type := .wr, dst := d, part := p, addr := w.lo, len := bs.length, data := bs }
        (.rtvWrite t x.kctx x.serial) with
    | (some g, s) => s.putWrite t x n { w with tag := g, arrived := true }
    | (none, s) => s.failStrm t x.kctx x.serial .noRoute d
  | none =>
    match s.translate t p w.va true with
    | (.fault, s) => s.haltStrm t x w.desc w.lo true
    | (.bad, s) => s.failStrm t x.kctx x.serial .xlate w.lo
    | (.ok a, s) =>
      let w := { w with addr := a }
      if !s.mayTouch t x.kctx true p (a + (w.lo - w.va)) (w.hi - w.lo) then s.failStrm t x.kctx x.serial .xlate w.lo
      else if s.drnHolds t x.kctx x.serial (w.runs.map (fun g => (a + g.1, g.2))) then s
      else if pageOf a ≠ .none then
        w.runs.foldl (fun s g => s.pageWrite t (s.ctx t x.kctx).level (a + g.1) g.2)
          (s.putWrite t x n { w with arrived := true })
      else if s.targetReady a && s.wayFree t x w then (s.putWrite t x n { w with arrived := true }).performWrite w
      else s.putWrite t x n w

/-- Issues a queue's next request. -/
def State.issueReq (s : State) (t : Nat) (x : Strm) (n : NextReq) : State :=
  match n with
  | .again r | .fetch r | .read r _ => (s.issueRead t x n r).settle t x.kctx x.serial
  | .write w => s.issueWrite t x n w

def execRequestIssue (t : Nat) (s : State) : Host.Outcome State Fault Refusal :=
  if !s.enginesRun t then .next s
  else
    let s := s.passOn t
    let order := (List.range 8).map (fun i => ((s.tile t).retr.lastQ + 1 + i) % 8)
    let pick := order.findSome? (fun q =>
      (s.candidate t q).bind (fun c => if s.qualifies t q c.2 then some (q, c) else none))
    let s := s.countStalls t
    match pick with
    | none => .next s
    | some (q, x, n) => .next ((s.issueReq t x n).modRetr t (fun r => { r with lastQ := q }))

def execBwWindowBoundary (t : Nat) (s : State) : Host.Outcome State Fault Refusal :=
  .next (s.modRetr t (fun r => { r with winR := 0, winW := 0, winX := 0 }))

end Sys2Proof.Machine
end

