-- ==== Sys2Proof/Machine/Hiric.lean ====
section
/-! DEFINITION. Transactions that arrive over the links (12 R464 to R473, R495; 16 R611, R612): requests are
admitted, performed and answered, transit ones are forwarded, and responses end what waits for them. -/
namespace Sys2Proof.Machine

/-! Admission (16 R611, R612, R630) -/

/-- The partition that owns the target of a request. -/
def State.targetPart (s : State) (x : Txn) : Option Nat :=
  match x.type with
  | .hput => if fld (BitVec.ofNat 64 x.addr) 10 0 < 1152 then s.tilePart (fld (BitVec.ofNat 64 x.addr) 10 0) else none
  | .doorbell => some (x.addr % 1024 / 64)
  | _ =>
    if x.vc == .sled then
      -- the sled buffer of a tile has no address of memory
      if tileBase 0 ≤ x.addr ∧ x.addr < tileBase 1152 then s.tilePart (tileOf x.addr) else none
    else if populated x.addr x.len then s.addrPart x.addr else none

/-- A request from a tile of another module is admitted by the target partition's SEC_PART_ADMIT. -/
def State.admits (s : State) (x : Txn) : Bool :=
  match s.targetPart x with
  | none => false
  | some p =>
    let a := s.reg (partPage p oAdmit)
    bit a x.part && decide (fld a 31 18 ≤ x.src ∧ x.src ≤ fld a 45 32) && (x.type != .doorbell || bit a 16)

/-- A request of a link mailbox names memory or a register. -/
def mboxTarget (x : Txn) : Bool := populated x.addr x.len || decide (pageOf x.addr ≠ .none)

/-- Whether a request for this module is admitted; in sit mode none is. -/
def State.admitted (s : State) (x : Txn) : Bool :=
  if s.fe.sit.on then false
  else if x.srcTile = 0x7FF then
    bit (s.reg rSecCfg) 1 && (match x.type with
      | .rd | .wr | .aadd => mboxTarget x
      | _ => (s.targetPart x).isSome)
  else s.admits x

/-! Transit (R471 to R473) -/

/-- A received transaction that is not for this module is forwarded, or turned away. -/
def State.transit (s : State) (k : Nat) (x : Txn) : State :=
  let back (s : State) : State := if x.type.isResp then s else s.respondTo k x .noRoute []
  if s.link.en.devid = 0x3FFF then back s
  else if s.fe.sit.on && !x.type.isResp then s.respondTo k x .denied []
  else if x.hops = 0 then back (s.log .config Source.config.sev none k x.addr)
  else match s.sendTxn { x with hops := x.hops - 1 } with
    | (some _, s) => s
    | (none, s) => if x.type.isResp then s.stick { x with hops := x.hops - 1 } else back s

/-- A row of the received requests of a virtual channel: transit, or admission and the request's own action, which
may leave the request waiting. -/
def State.request (s : State) (k : Nat) (v : VC) (ty : TType) (act : State → Txn → Option State) : State :=
  match s.takeRx k v (fun x => x.type == ty) with
  | none => s
  | some (r, s1) =>
    let x := r.txn
    if s.link.en.devid = 0x3FFF || x.dst != s.link.en.devid then s1.transit k x
    else if !s.admitted x then s1.respondTo k x .denied []
    else (act s1 x).getD s

/-! Reads, writes and adds -/

/-- The memory of a request answers now; a sleeping tile is woken first (14 R548). -/
def State.memReady (s : State) (x : Txn) : Bool := !populated x.addr x.len || s.targetReady x.addr

/-- Bytes of memory, or of registers at level F for a link mailbox; none when the memory does not read. -/
def State.hiricLoad (s : State) (x : Txn) (n : Nat) : Option (List Byte) × State :=
  if populated x.addr n then (s.touch x.addr).load x.addr n
  else
    let (a, c) := accOf x.addr n
    let (v, s) := s.regRead .mailbox a c
    (some (toBytesLE n v.toNat), s)

def State.hiricStore (s : State) (x : Txn) (bs : List Byte) : State :=
  if populated x.addr bs.length then
    if x.status = TStat.poison.code then (s.touch x.addr).poisonRange x.addr bs.length
    else (s.touch x.addr).store x.addr bs
  else
    let (a, c) := accOf x.addr bs.length
    s.regWrite .mailbox a c (BitVec.ofNat 64 (ofBytesLE bs))

def execRd (k : Nat) (s : State) : Host.Outcome State Fault Refusal :=
  .next (s.request k .req .rd (fun s x =>
    if !s.memReady x then none
    else match s.hiricLoad x x.len with
      | (some bs, s) => some (s.respondTo k x .ok bs)
      | (none, s) => some (s.respondTo k x .poison [])))

/-- A WR on VC SLED or CHAIN is a beat for a tile. -/
def Txn.sledBeat (x : Txn) : SledBeat :=
  let t := tileOf x.addr
  if x.addr = tileBase t + sledOff true then
    let w := ofBytesLE x.data
    { src := x.srcTile, srcDev := some x.src, dst := t, header := true, fmt := nfld w 15 0, headDev := nfld w 31 16,
      headTile := nfld w 63 32, count := nfld w 127 64, part := x.part, tag := x.tag }
  else { src := x.srcTile, srcDev := some x.src, dst := t, part := x.part, tag := x.tag, bytes := x.data }

def Txn.chainBeat (x : Txn) : Beat :=
  let t := tileOf x.addr
  { src := x.srcTile, srcDev := some x.src, dst := t, ret := x.type == .wr, list := x.type == .list
    addr := if x.type == .wr then tileBase x.srcTile + (x.addr - tileBase t) else x.addr
    fmt := x.fmt, poison := x.status == TStat.poison.code, part := x.part, tag := x.tag, at_ := x.addr, bytes := x.data }

/-- A chain beat is taken by its tile, or travels on toward it behind the earlier ones. -/
def State.beatIn (s : State) (b : Beat) : State :=
  let same (y : Beat) : Bool := decide (y.dst = b.dst) && decide (y.src = b.src) && decide (y.srcDev = b.srcDev)
  if s.beats.any same || (s.tile b.dst).held.any same then { s with beats := s.beats ++ [b] }
  else (s.acceptBeat b.dst b).getD { s with beats := s.beats ++ [b] }

def State.sledIn (s : State) (b : SledBeat) : State :=
  if !(s.tile b.dst).retr.sled.isEmpty || s.sleds.any (fun y => y.dst == b.dst) then { s with sleds := s.sleds ++ [b] }
  else (s.acceptSled b.dst b).getD { s with sleds := s.sleds ++ [b] }

def execWr (k vc : Nat) (s : State) : Host.Outcome State Fault Refusal :=
  match VC.ofCode vc with
  | some .sled => .next (s.request k .sled .wr (fun s x => some (s.sledIn x.sledBeat)))
  | some .chain => .next (s.request k .chain .wr (fun s x => some (s.beatIn x.chainBeat)))
  | some .req =>
    .next (s.request k .req .wr (fun s x =>
      if !s.memReady x then none else some ((s.hiricStore x x.data).respondTo k x .ok [])))
  | _ => .next s

def execAadd (k : Nat) (s : State) : Host.Outcome State Fault Refusal :=
  .next (s.request k .req .aadd (fun s x =>
    if !s.memReady x then none
    else match s.hiricLoad x 8 with
      | (some bs, s) =>
        some ((s.hiricStore x (toBytesLE 8 ((ofBytesLE bs + ofBytesLE x.data) % 2 ^ 64))).respondTo k x .ok bs)
      | (none, s) => some (s.respondTo k x .poison [])))

/-! Chain beats, handles and doorbells -/

def execHiricQadd (k : Nat) (s : State) : Host.Outcome State Fault Refusal :=
  .next (s.request k .chain .qadd (fun s x => some (s.beatIn x.chainBeat)))

def execHiricList (k : Nat) (s : State) : Host.Outcome State Fault Refusal :=
  .next (s.request k .chain .list (fun s x => some (s.beatIn x.chainBeat)))

def execHiricHput (k : Nat) (s : State) : Host.Outcome State Fault Refusal :=
  .next (s.request k .req .hput (fun s x =>
    let a : Word := BitVec.ofNat 64 x.addr
    let t := fld a 10 0
    if (s.tile t).pwr.st ≠ .ivory then none
    else match s.offerHandle t (fld a 13 11) (BitVec.ofNat 64 (ofBytesLE x.data)) with
      | (true, s) => some (s.respondTo k x .ok [])
      | (false, s) => some (s.respondTo k x .refused [])))

def execDoorbell (k : Nat) (s : State) : Host.Outcome State Fault Refusal :=
  .next (s.request k .msg .doorbell (fun s x =>
    let g := x.addr % 1024
    some ((s.ringBell (some (g / 64)) g (BitVec.ofNat 64 (ofBytesLE x.data))).respondTo k x .ok [])))

/-! Responses (R466) -/

/-- The exception that a STATUS other than OK makes at the source, with its information: the device without a
route, or the address refused or poisoned. DENIED ends a stream with XLATE; R466 names no code for the other sources,
none of which can end with XLATE (08 R321): they end with NO_ROUTE (log 97). -/
def TStat.exc (st : TStat) (y : Txn) (a : Nat) (stream : Bool := false) : Option (Exc × Nat) :=
  match st with
  | .ok => none
  | .refused | .denied => some (if stream then (.xlate, a) else (.noRoute, y.src))
  | .noRoute | .lost => some (.noRoute, y.src)
  | .poison => some (.memEcc, a)

def Txn.stat (y : Txn) : TStat := TStat.ofCode y.status

def State.readEnds (s : State) (t : Nat) (kc : Bool) (n : Nat) (y : Txn) : State :=
  match s.stream t kc n with
  | none => s
  | some x =>
    match x.reads.find? (fun r => r.dev.isSome && r.tag == y.tag) with
    | none => s
    | some r => s.finishRead t x r (match y.stat.exc y r.va true with | none => .ok y.data | some e => .error e)

def State.writeEnds (s : State) (t : Nat) (kc : Bool) (n : Nat) (y : Txn) : State :=
  match s.stream t kc n with
  | none => s
  | some x =>
    let mine (w : WrReq) : Bool := w.dev.isSome && w.tag == y.tag
    match x.wout.find? mine with
    | none => s
    | some w =>
      let s := s.finishWrite t x mine
      match y.stat.exc y w.lo true with
      | some (e, i) => if x.stopping then s else s.failStrm t kc n e i
      | none => s

def State.drnWriteEnds (s : State) (t : Nat) (kc : Bool) (n : Nat) (y : Txn) : State :=
  match (s.tile t).drn.find? (fun d => d.kctx == kc && d.serial == n), y.stat.exc y y.addr with
  | some d, some (e, i) => s.failDrn t d e i
  | _, _ => s

/-- A handle of the outbound buffer was accepted, refused, or met an error at another module. -/
def State.handleEnds (s : State) (t : Nat) (y : Txn) : State :=
  match splitFirst (fun _ o => o.sent && (Target.ofWord o.target).remote && o.tag == y.tag) [] (s.herder t).out with
  | none => s
  | some (pre, o, rest) =>
    if y.stat = .refused then
      s.modHerder t (fun h => { h with out := pre ++ { o with sent := false, refused := true } :: rest })
    else
      let s := s.modHerder t (fun h => { h with out := pre ++ rest })
      match y.stat.exc y y.addr with
      | none => s
      | some (e, i) => s.raise t o.kctx false e o.pc i 0

def State.beatEnds (s : State) (t : Nat) (kc : Bool) (n : Nat) (y : Txn) : State :=
  match y.stat.exc y y.addr with
  | some (e, i) => (s.modStage t kc n (fun g => g.fail e i)).finishStage t kc n
  | none => s

/-- A sled beat was accepted; the acceptance of the last one is awaited by the `ldw` (08 R295). -/
def State.sledEnds (s : State) (t : Nat) (kc : Bool) (n : Nat) (last : Bool) (y : Txn) : State :=
  match y.stat.exc y y.addr true with
  | some (e, i) => match s.stream t kc n with
    | some x => if x.stopping then s else s.failStrm t kc n e i
    | none => s
  | none => if last then s.modStrm t kc n (fun x => { x with acceptPend := true }) else s

/-- LNK_MBOX_STAT and LNK_MBOX_RDATA (R495). -/
def State.mboxEnds (s : State) (y : Txn) : State :=
  let s := s.setRegF rMboxStat 4 0 (2 + y.stat.code <<< 2)
  if y.data.isEmpty then s else s.setReg rMboxRdata (BitVec.ofNat 64 (ofBytesLE y.data))

def State.purposeEnds (s : State) (o : Purpose) (y : Txn) : State :=
  match o with
  | .rtvRead t kc n => s.readEnds t kc n y
  | .rtvWrite t kc n => s.writeEnds t kc n y
  | .drnWrite t kc n => s.drnWriteEnds t kc n y
  | .handle t => s.handleEnds t y
  | .chainBeat t kc n => s.beatEnds t kc n y
  | .sledBeat t kc n last => s.sledEnds t kc n last y
  | .poison _ => s
  | .mailbox => s.mboxEnds y

/-- What waits for a tag of a tile is sent. -/
def State.pumpTile (s : State) (t : Nat) : State :=
  let s := s.pumpOwn t
  let s := (s.tile t).retr.strms.foldl (fun (s : State) x =>
    match s.stream t x.kctx x.serial with
    | some x => if x.sledOut.isEmpty then s else s.pumpSleds t x.kctx x.serial x.sledOut
    | none => s) s
  let s := (s.tile t).drn.foldl (fun (s : State) d =>
    match s.entry t d.kctx d.serial with
    | some e => if d.outq.isEmpty then s else s.pumpDrn t d e.dtd.devid d.outq
    | none => s) s
  (List.range 16).foldl (fun (s : State) p => if (s.part p).poison.isEmpty then s else s.pumpPoison p) s

/-- LOST at the source: a Rust error of PART, or a record alone for a poison write (R466, 15 R570, R573). -/
def State.lostAt (s : State) (o : Outst) (y : Txn) : State :=
  match o.what with
  | .poison p => s.log .lost .none (some p) o.tile y.addr
  | _ => s.rustError .lost y.part o.tile y.addr

/-- A row of the received responses. -/
def State.response (s : State) (k : Nat) (ty : TType) : State :=
  match s.takeRx k .rsp (fun x => x.type == ty) with
  | none => s
  | some (r, s1) =>
    let y := r.txn
    if s.link.en.devid = 0x3FFF || y.dst != s.link.en.devid then s1.transit k y
    else match s1.link.outst.find? (fun o => o.tile == y.srcTile && o.tag == y.tag) with
      | none => s1
      | some o =>
        let s := s1.holdTimers
        let s := { s with link := { s.link with outst := s.link.outst.erase o } }
        let s := s.purposeEnds o.what y
        let s := if y.stat = .lost then s.lostAt o y else s
        if o.tile < 1152 then s.pumpTile o.tile else s

def execRdr (k : Nat) (s : State) : Host.Outcome State Fault Refusal := .next (s.response k .rdr)
def execWra (k : Nat) (s : State) : Host.Outcome State Fault Refusal := .next (s.response k .wra)
def execAadr (k : Nat) (s : State) : Host.Outcome State Fault Refusal := .next (s.response k .aadr)
def execQaa (k : Nat) (s : State) : Host.Outcome State Fault Refusal := .next (s.response k .qaa)
def execHpa (k : Nat) (s : State) : Host.Outcome State Fault Refusal := .next (s.response k .hpa)

end Sys2Proof.Machine
end

