-- ==== Sys2Proof/Machine/HostPort.lean ====
section
/-! DEFINITION. Accesses of the host through the BARs of the physical and the virtual functions (16 R609; 18 R682 to
R685; 14 R556; 16 R630). -/
namespace Sys2Proof.Machine

/-- What a BAR offset maps. -/
inductive BarTarget where
  | mem (a : Nat)
  | reg (a : Nat)
  /-- A 32-bit word of the function's MSI-X table, by number. -/
  | msix (i : Nat)
  /-- The pending-bit array, and the mirror offsets that hold no register: they read zero. -/
  | zero
  | nothing
  deriving DecidableEq, Repr

/-- The BARs of the physical function (R683). -/
def pfBar (bar off n : Nat) : BarTarget :=
  if bar = 0 then
    if off < 0x10000000 then .reg (0xF00000000000 + off)
    else if off < 0x10480000 then .reg (0xF00100000000 + (off - 0x10000000))
    else if 0x10800000 ≤ off ∧ off < 0x10900000 then .reg (0xF00200000000 + (off - 0x10800000))
    else if 0x11000000 ≤ off ∧ off < 0x11008000 then .msix ((off - 0x11000000) / 4)
    else if 0x11008000 ≤ off ∧ off < 0x11008100 then .zero
    else .nothing
  else if bar = 2 then
    let a := 0x800000000000 + off
    if off < 0x90000000 ∧ populated a n then .mem a else .nothing
  else if bar = 4 then (if off < hbmTop ∧ populated off n then .mem off else .nothing)
  else .nothing

/-- The registers of a virtual function's module mirror (R684). -/
def mirrorReg (off : Nat) : Option Nat :=
  match off / 8 with
  | 0 => some rMgtPartId | 1 => some rTimNow | 2 => some rTimFrac | 3 => some rTimStatus | 4 => some rFeSitStatus
  | _ => none

/-- The BARs of the virtual function of partition p (R684), under the active map. -/
def State.vfBar (s : State) (p bar off n : Nat) : BarTarget :=
  if bar = 0 then
    if off < 0x10000 then .reg (0xF00200000000 + 0x10000 * p + off)
    else if off < 0x10800 then .msix ((off - 0x10000) / 4)
    else if 0x18000 ≤ off ∧ off < 0x18010 then .zero
    else if 0x20000 ≤ off ∧ off < 0x21000 then
      match mirrorReg (off - 0x20000) with
      | some a => .reg (a + off % 8)
      | none => .zero
    else if 0x800000 ≤ off then
      match (s.partTiles p)[(off - 0x800000) / 0x1000]? with
      | some t => .reg (0xF00100000000 + 0x1000 * t + off % 0x1000)
      | none => .nothing
    else .nothing
  else if bar = 2 then
    match (s.partTiles p)[off / 0x200000]? with
    | some t =>
      let a := tileBase t + off % 0x200000
      if populated a n then .mem a else .nothing
    | none => .nothing
  else if bar = 4 then
    match ((List.range 16).filter (s.ownsSet p))[off / setBytes]? with
    | some c =>
      let a := setBytes * c + off % setBytes
      if populated a n ∧ s.reach p a n then .mem a else .nothing
    | none => .nothing
  else .nothing

/-- What an access of a function meets: in sit mode entered at boot, only registers. -/
def State.barTarget (s : State) (fn bar off n : Nat) : BarTarget :=
  let x := if fn = 0 then pfBar bar off n else s.vfBar (fn - 1) bar off n
  match x with
  | .mem a => if s.mgt.phase = .sit then .nothing else .mem a
  | x => x

def hostWriter (fn : Nat) : Writer := if fn = 0 then .pf else .vf (fn - 1)

/-- A word of an MSI-X table; after reset every vector is masked (PRESUMED, PCIe; log entry 7). -/
def State.msixWord (s : State) (fn i : Nat) : BitVec 32 := SMap.get (if i % 4 = 3 then 1 else 0) s.msixTab (0x2000 * fn + i)

def State.hostGot (s : State) (r : HostRead) : State := { s with hostData := r }

/-- A read of n bytes. -/
def State.barRead (s : State) (fn bar off n : Nat) : State :=
  match s.barTarget fn bar off n with
  | .mem a =>
    if s.power.jet then s.hostGot (.data (List.replicate n 0xFF))
    else if !s.targetReady a then s
    else match (s.touch a).load a n with
      | (some bs, s) => s.hostGot (.data bs)
      | (none, s) => s.hostGot .noData
  | .reg a =>
    let (r, c) := accOf a n
    let (v, s) := s.regRead (hostWriter fn) r c
    s.hostGot (.data (toBytesLE n v.toNat))
  | .msix i =>
    s.hostGot (.data (((List.range (n / 4 + 1)).flatMap (fun j => toBytesLE 4 (s.msixWord fn (i + j)).toNat)).take n))
  | .zero => s.hostGot (.data (List.replicate n 0))
  | .nothing => s.hostGot .unsupported

/-- A write. -/
def State.barWrite (s : State) (fn bar off : Nat) (bs : List Byte) : State :=
  match s.barTarget fn bar off bs.length with
  | .mem a => if s.power.jet || !s.targetReady a then s else (s.touch a).store a bs
  | .reg a =>
    let (r, c) := accOf a bs.length
    s.regWrite (hostWriter fn) r c (BitVec.ofNat 64 (ofBytesLE bs))
  | .msix i =>
    let w := (List.range (bs.length / 4)).map (fun j => (i + j, BitVec.ofNat 32 (ofBytesLE ((bs.drop (4 * j)).take 4))))
    { s with msixTab := w.foldl (fun m x => SMap.set m (0x2000 * fn + x.1) x.2) s.msixTab }
  | .zero => s
  | .nothing => s.tell (.aerUR fn bar off)

/-- A host request of at most 512 bytes written or 4096 read; one to a sleeping tile waits until the tile is up. -/
def execHostBarAccess (fn bar off : Nat) (write : Bool) (bs : List Byte) (n : Nat) (s : State) :
    Host.Outcome State Fault Refusal :=
  if 16 < fn ∨ !s.mgt.input then .next s
  else if write then
    if bs.isEmpty ∨ 512 < bs.length then .next s else .next (s.barWrite fn bar off bs)
  else if n = 0 ∨ 4096 < n then .next s
  else .next (s.barRead fn bar off n)

end Sys2Proof.Machine
end

