-- ==== Sys2Proof/Machine/MgtChain.lean ====
section
/-! DEFINITION. The management chain (17 R656 to R663): frames as their bytes after the comma. -/
namespace Sys2Proof.Machine

/-! Frames (R657) -/

/-- A frame as received; none when its CRC fails, LEN disagrees with its length, or a reserved bit is set. -/
def parseFrame (bs : List Byte) : Option Frame :=
  let n := bs.length
  let body := bs.take (n - 2)
  let w := ofBytesLE (bs.take 8)
  let len := nfld w 55 48
  if n < 10 || n != len + 10 || 64 < len || crc16 body != ofBytesLE (bs.drop (n - 2)) || nfld w 15 13 != 0
      || nfld w 31 28 != 0 then none
  else some { dst := nfld w 12 0, src := nfld w 27 16, cmd := nfld w 39 32, tag := nfld w 47 40,
              status := nfld w 63 56, payload := body.drop 8 }

/-- BC of the DST field. -/
def Frame.bc (f : Frame) : Bool := f.dst.testBit 12

/-- The frame is for this module: by its position, or for every module. -/
def State.forMe (s : State) (f : Frame) : Bool := f.bc || (s.mgt.posValid && f.dst == s.mgt.pos)

/-- A command of R658 that a module answers. -/
def knownRequest (cmd : Nat) : Bool := cmd == 2 || cmd == 3 || cmd == 4 || cmd == 6

/-- A response to a frame. -/
def State.reply (s : State) (f : Frame) (st : Nat) (p : List Byte) : Frame :=
  { dst := f.src, src := s.mgt.pos, cmd := f.cmd + 0x80, tag := f.tag, status := st, payload := p }

/-- A response enters the queue of own frames. -/
def State.queueFrame (s : State) (f : Frame) : State :=
  { s with mgt := { s.mgt with upq := s.mgt.upq ++ [f] } }

/-- A request frame meets the row of a command: one for this module with room for its response is acted on; an unknown
command is answered with BADCMD, by the ROM with DENIED (R658, R660, R663). -/
def State.chainRequest (s : State) (cmd : Nat) (bs : List Byte) (act : State → Frame → State) : State :=
  match parseFrame bs with
  | none => s
  | some f =>
    if !s.mgt.input || !s.forMe f || f.status != 0 || 0x80 ≤ f.cmd || (f.cmd == 1 && f.bc) || 4 ≤ s.mgt.upq.length then s
    else if f.cmd == cmd then act s f
    else if knownRequest f.cmd then s
    else s.queueFrame (s.reply f (if s.mgt.mcf then 1 else 2) [])

/-! Positions (R659) -/

/-- The POS frame that a module at a position sends downstream. -/
def posOut (pos : Nat) : Frame := { dst := 0x1000, src := pos, cmd := 1, payload := toBytesLE 2 pos }

def State.takePos (s : State) (c : Nat) (tag : Nat) : State :=
  if 4095 < c + 1 then { s with mgt := { s.mgt with posValid := false } }
  else
    let out := { posOut (c + 1) with tag := tag }
    { s with mgt := { s.mgt with pos := c + 1, posValid := true, down := s.mgt.down ++ [out.bytes] } }

def execPosFrame (bs : List Byte) (s : State) : Host.Outcome State Fault Refusal :=
  match parseFrame bs with
  | some f =>
    let c := ofBytesLE f.payload
    if s.mgt.input && f.bc && f.cmd == 1 && f.status == 0 && f.payload.length == 2 && decide (c < 4096) then
      .next (s.takePos c f.tag)
    else .next s
  | none => .next s

/-! Requests (R658, R661, R663) -/

def State.identData (s : State) : List Byte :=
  toBytesLE 8 (s.regView rMgtPartId).toNat ++ toBytesLE 8 (s.regView rMgtSerial).toNat ++ toBytesLE 2 s.link.en.devid
    ++ toBytesLE 6 (fld (s.regView rMgtFwVer) 47 0) ++ toBytesLE 1 s.mgt.phase.code
    ++ toBytesLE 1 (fld (s.regView rMgtBootStat) 19 17)

def execIdent (bs : List Byte) (s : State) : Host.Outcome State Fault Refusal :=
  .next (s.chainRequest 2 bs (fun s f => if f.payload.isEmpty then s.queueFrame (s.reply f 0 s.identData) else s))

/-- What the ROM reads and writes without an MCF (R663). -/
def romRead (a : Nat) : Bool :=
  a == rRelLogStat || a == rRelLogSel || decide (rRelLogData 0 ≤ a ∧ a ≤ rRelLogData 3)
    || a == rMgtFwVer || a == rMgtFwCtl || a == rMgtFwStat || decide (0xF00000081000 ≤ a ∧ a < 0xF00000082000)
def romWrite (a : Nat) : Bool :=
  a == rMgtFwCtl || a == rMgtBootCtl || decide (0xF00000081000 ≤ a ∧ a < 0xF00000082000)

/-- The words of a chain access, by address. -/
def wordsAt (a n : Nat) : List Nat := (List.range n).map (fun i => a + 8 * i)

def State.chainReads (s : State) (f : Frame) : State :=
  let a := ofBytesLE (f.payload.take 8)
  let n := ofBytesLE (f.payload.drop 8)
  let at_ := wordsAt a n
  if f.payload.length != 9 || n == 0 || 7 < n then s
  else if a % 8 ≠ 0 then s.queueFrame (s.reply f 3 [])
  else if at_.any (fun x => !s.permits .chain x false || (!s.mgt.mcf && !romRead x)) then
    s.queueFrame (s.reply f 2 (List.replicate (8 * n) 0))
  else if at_.any (fun x => (findReg x).isNone) then s.queueFrame (s.reply f 3 [])
  else
    let (ws, s) := at_.foldl (fun (r : List Byte × State) x =>
      let (v, s) := r.2.regRead .chain x .full
      (r.1 ++ toBytesLE 8 v.toNat, s)) ([], s)
    s.queueFrame (s.reply f 0 ws)

def execChainRead (bs : List Byte) (s : State) : Host.Outcome State Fault Refusal :=
  .next (s.chainRequest 3 bs State.chainReads)

def State.chainWrites (s : State) (f : Frame) : State :=
  let a := ofBytesLE (f.payload.take 8)
  let ws := f.payload.drop 8
  let n := ws.length / 8
  let at_ := wordsAt a n
  if f.payload.length % 8 != 0 || n == 0 || 7 < n then s
  else if a % 8 ≠ 0 then s.queueFrame (s.reply f 3 [])
  else match at_.find? (fun x => !s.permits .chain x true || (!s.mgt.mcf && !romWrite x)) with
    | some x => (s.violation .chain x).queueFrame (s.reply f 2 [])
    | none =>
      if at_.any (fun x => (findReg x).isNone) then s.queueFrame (s.reply f 3 [])
      else
        -- the answer is on its way before a word can reset the module
        (List.range n).foldl (fun (s : State) i =>
          s.regWrite .chain (a + 8 * i) .full (BitVec.ofNat 64 (ofBytesLE ((ws.drop (8 * i)).take 8))))
          (s.queueFrame (s.reply f 0 []))

def execChainWrite (bs : List Byte) (s : State) : Host.Outcome State Fault Refusal :=
  .next (s.chainRequest 4 bs State.chainWrites)

/-- RESET: every own frame and the answer have been sent when the module resets. -/
def State.chainResets (s : State) (f : Frame) : State :=
  if !f.payload.isEmpty then s
  else if !s.mgt.mcf then s.queueFrame (s.reply f 2 [])
  else
    let out := (s.mgt.upq ++ [s.reply f 0 []]).map Frame.bytes
    State.moduleReset { s with mgt := { s.mgt with upq := [], up := s.mgt.up ++ out } } .boot

def execChainReset (bs : List Byte) (s : State) : Host.Outcome State Fault Refusal :=
  .next (s.chainRequest 6 bs State.chainResets)

/-! Alerts (R662) -/

/-- ALERT to position 0 while an alert bit is set; its TAG is not stated and is a free value. -/
def State.sendAlert (s : State) : State :=
  let v := s.regView rMgtAlert
  if v = 0 || !s.mgt.input || 4 ≤ s.mgt.upq.length then s
  else
    let (w, s) := s.free
    let out : Frame := { src := s.mgt.pos, cmd := 5, tag := fld w 7 0,
                         payload := toBytesLE 8 v.toNat ++ toBytesLE 4 (fld (s.regView rRelLogStat) 31 0) }
    s.queueFrame out

def execAlert (s : State) : Host.Outcome State Fault Refusal := .next s.sendAlert
def execAlertRepeat (s : State) : Host.Outcome State Fault Refusal := .next s.sendAlert

/-! Forwarding (R660) -/

/-- A downstream frame goes on unless it is for this module alone, or is a POS, which R659 sends on. -/
def State.passesDown (s : State) (bs : List Byte) : Bool :=
  let w := ofBytesLE (bs.take 5)
  if w.testBit 12 then nfld w 39 32 != 1 else !(s.mgt.posValid && nfld w 15 0 == s.mgt.pos)

def execChainFrameForward (bs : List Byte) (down : Bool) (s : State) : Host.Outcome State Fault Refusal :=
  if !s.mgt.input then .next s
  else if down then
    if s.passesDown bs then .next { s with mgt := { s.mgt with down := s.mgt.down ++ [bs] } } else .next s
  else .next { s with mgt := { s.mgt with up := s.mgt.up ++ [bs] } }

end Sys2Proof.Machine
end

