-- ==== Sys2Proof/Machine/RegRows.lean ====
section
/-! DEFINITION. The rows that are writes or reads of registers. Each performs the whole write of its register, whatever
the value: a value that does not ask for the row's own effect has the effect the register's rules give it. -/
namespace Sys2Proof.Machine

/-- A row that writes one register. -/
def wrote (a : Nat) (w : Writer) (c : Acc) (v : Word) (s : State) : Host.Outcome State Fault Refusal :=
  .next (s.regWrite w a c v)

/-- A row that writes a register of tile t, partition p, ring g or link k; none beyond the last one. -/
def wroteIf (ok : Bool) (a : Nat) (w : Writer) (c : Acc) (v : Word) (s : State) : Host.Outcome State Fault Refusal :=
  if ok then wrote a w c v s else .next s

def execRegisterWrite (wr : Writer) (addr : Nat) (acc : Acc) (v : BitVec 64) (s : State) : Host.Outcome State Fault Refusal :=
  wrote addr wr acc v s

def execCwWrite (wr : Writer) (addr : Nat) (acc : Acc) (v : BitVec 64) (s : State) : Host.Outcome State Fault Refusal :=
  wrote addr wr acc v s

def execCwTwinWrite (wr : Writer) (addr : Nat) (acc : Acc) (v : BitVec 64) (s : State) : Host.Outcome State Fault Refusal :=
  wrote addr wr acc v s

/-! Tiles -/

def execRtvResume (wr : Writer) (t : Nat) (acc : Acc) (v : BitVec 64) (s : State) : Host.Outcome State Fault Refusal :=
  wroteIf (decide (t < 1152)) (tilePage t oRtvCtl) wr acc v s

def execRtvKill (wr : Writer) (t : Nat) (acc : Acc) (v : BitVec 64) (s : State) : Host.Outcome State Fault Refusal :=
  wroteIf (decide (t < 1152)) (tilePage t oRtvCtl) wr acc v s

def execRtvFaultClear (wr : Writer) (t : Nat) (acc : Acc) (v : BitVec 64) (s : State) : Host.Outcome State Fault Refusal :=
  wroteIf (decide (t < 1152)) (tilePage t oRtvFault) wr acc v s

def execQntSclCommit (wr : Writer) (t : Nat) (acc : Acc) (v : BitVec 64) (s : State) : Host.Outcome State Fault Refusal :=
  wroteIf (decide (t < 1152)) (tilePage t oSclCommit) wr acc v s

/-! Partitions -/

def execXltInvalidate (wr : Writer) (p : Nat) (acc : Acc) (v : BitVec 64) (s : State) : Host.Outcome State Fault Refusal :=
  wroteIf (decide (p < 16)) (partPage p oXltInv) wr acc v s

def execCryptEnable (wr : Writer) (p : Nat) (acc : Acc) (v : BitVec 64) (s : State) : Host.Outcome State Fault Refusal :=
  wroteIf (decide (p < 16)) (partPage p oCryptCtl) wr acc v s

def execExtend (wr : Writer) (p : Nat) (acc : Acc) (v : BitVec 64) (s : State) : Host.Outcome State Fault Refusal :=
  wroteIf (decide (p < 16)) (partPage p oPmrCtl) wr acc v s

/-! Rings -/

def execRingDoorbell (wr : Writer) (g : Nat) (acc : Acc) (v : BitVec 64) (s : State) : Host.Outcome State Fault Refusal :=
  wroteIf (decide (g < 1024)) (ringReg g oRingDb) wr acc v s

def execFeRingCfgWrite (wr : Writer) (g : Nat) (acc : Acc) (v : BitVec 64) (s : State) : Host.Outcome State Fault Refusal :=
  wroteIf (decide (g < 1024)) (ringReg g oRingCfg) wr acc v s

/-! Links -/

def execLinkEnable (wr : Writer) (k : Nat) (acc : Acc) (v : BitVec 64) (s : State) : Host.Outcome State Fault Refusal :=
  wroteIf (decide (k < 36)) (linkReg k 0) wr acc v s

def execRetrain (wr : Writer) (k : Nat) (acc : Acc) (v : BitVec 64) (s : State) : Host.Outcome State Fault Refusal :=
  wroteIf (decide (k < 36)) (linkReg k 0) wr acc v s

def execRejoin (wr : Writer) (k : Nat) (acc : Acc) (v : BitVec 64) (s : State) : Host.Outcome State Fault Refusal :=
  wroteIf (decide (k < 36)) (linkReg k 0) wr acc v s

def execEnumStart (wr : Writer) (acc : Acc) (v : BitVec 64) (s : State) : Host.Outcome State Fault Refusal :=
  wrote rEnumCfg wr acc v s

def execMboxSend (wr : Writer) (acc : Acc) (v : BitVec 64) (s : State) : Host.Outcome State Fault Refusal :=
  wrote rMboxH1 wr acc v s

/-! Time -/

def execTimNowRead (rd : Writer) (acc : Acc) (s : State) : Host.Outcome State Fault Refusal :=
  .next (s.regRead rd rTimNow acc).2

/-! Power: the rows are the writes of the twin that install the pair -/

def execJetEnter (wr : Writer) (acc : Acc) (v : BitVec 64) (s : State) : Host.Outcome State Fault Refusal :=
  wrote (rPwrJet + 8) wr acc v s

def execJetExit (wr : Writer) (acc : Acc) (v : BitVec 64) (s : State) : Host.Outcome State Fault Refusal :=
  wrote (rPwrJet + 8) wr acc v s

/-! Reliability and security -/

def execCrimsonReset (wr : Writer) (acc : Acc) (v : BitVec 64) (s : State) : Host.Outcome State Fault Refusal :=
  wrote rRelCrimsonCtl wr acc v s

def execApplyW (wr : Writer) (acc : Acc) (v : BitVec 64) (s : State) : Host.Outcome State Fault Refusal :=
  wrote rRelSpareCtl wr acc v s

def execApplyE (wr : Writer) (acc : Acc) (v : BitVec 64) (s : State) : Host.Outcome State Fault Refusal :=
  wrote rRelSpareCtl wr acc v s

def execInjectArm (wr : Writer) (acc : Acc) (v : BitVec 64) (s : State) : Host.Outcome State Fault Refusal :=
  wrote rRelInjCtl wr acc v s

def execSecMapCommit (wr : Writer) (acc : Acc) (v : BitVec 64) (s : State) : Host.Outcome State Fault Refusal :=
  wrote rSecMapCommit wr acc v s

def execRaise (wr : Writer) (acc : Acc) (v : BitVec 64) (s : State) : Host.Outcome State Fault Refusal :=
  wrote rSecBoot wr acc v s

/-! Management -/

def execProceed (wr : Writer) (acc : Acc) (v : BitVec 64) (s : State) : Host.Outcome State Fault Refusal :=
  wrote rMgtBootCtl wr acc v s

def execResetWrite (wr : Writer) (acc : Acc) (v : BitVec 64) (s : State) : Host.Outcome State Fault Refusal :=
  wrote rMgtBootCtl wr acc v s

def execMgtPartRel (wr : Writer) (acc : Acc) (v : BitVec 64) (s : State) : Host.Outcome State Fault Refusal :=
  wrote rMgtPartRel wr acc v s

def execFwOpen (wr : Writer) (acc : Acc) (v : BitVec 64) (s : State) : Host.Outcome State Fault Refusal :=
  wrote rMgtFwCtl wr acc v s

def execFwWrite (wr : Writer) (acc : Acc) (v : BitVec 64) (s : State) : Host.Outcome State Fault Refusal :=
  wrote rMgtFwCtl wr acc v s

def execFwVerify (wr : Writer) (acc : Acc) (v : BitVec 64) (s : State) : Host.Outcome State Fault Refusal :=
  wrote rMgtFwCtl wr acc v s

def execFwCopy (wr : Writer) (acc : Acc) (v : BitVec 64) (s : State) : Host.Outcome State Fault Refusal :=
  wrote rMgtFwCtl wr acc v s

def execFwClose (wr : Writer) (acc : Acc) (v : BitVec 64) (s : State) : Host.Outcome State Fault Refusal :=
  wrote rMgtFwCtl wr acc v s

end Sys2Proof.Machine
end

