-- ==== Sys2Proof/Machine/Dispatch.lean ====
section
/-! DEFINITION. One arm per command. -/
namespace Sys2Proof.Machine

def exec (i : Instr) (s : State) : Host.Outcome State Fault Refusal :=
  match i with
  | .add t w => Sys2Proof.Machine.execAdd t w s
  | .sub t w => Sys2Proof.Machine.execSub t w s
  | .and t w => Sys2Proof.Machine.execAnd t w s
  | .or t w => Sys2Proof.Machine.execOr t w s
  | .xor t w => Sys2Proof.Machine.execXor t w s
  | .shl t w => Sys2Proof.Machine.execShl t w s
  | .shr t w => Sys2Proof.Machine.execShr t w s
  | .sra t w => Sys2Proof.Machine.execSra t w s
  | .mul t w => Sys2Proof.Machine.execMul t w s
  | .mulh t w => Sys2Proof.Machine.execMulh t w s
  | .min t w => Sys2Proof.Machine.execMin t w s
  | .max t w => Sys2Proof.Machine.execMax t w s
  | .addi t w => Sys2Proof.Machine.execAddi t w s
  | .li t w => Sys2Proof.Machine.execLi t w s
  | .lih t w => Sys2Proof.Machine.execLih t w s
  | .andi t w => Sys2Proof.Machine.execAndi t w s
  | .ori t w => Sys2Proof.Machine.execOri t w s
  | .cmp t w => Sys2Proof.Machine.execCmp t w s
  | .plog t w => Sys2Proof.Machine.execPlog t w s
  | .mova t w => Sys2Proof.Machine.execMova t w s
  | .movs t w => Sys2Proof.Machine.execMovs t w s
  | .adda t w => Sys2Proof.Machine.execAdda t w s
  | .tset t w => Sys2Proof.Machine.execTset t w s
  | .tget t w => Sys2Proof.Machine.execTget t w s
  | .tld t w => Sys2Proof.Machine.execTld t w s
  | .tst t w => Sys2Proof.Machine.execTst t w s
  | .padd t w => Sys2Proof.Machine.execPadd t w s
  | .psub t w => Sys2Proof.Machine.execPsub t w s
  | .pmul t w => Sys2Proof.Machine.execPmul t w s
  | .pcvt t w => Sys2Proof.Machine.execPcvt t w s
  | .qclr t w => Sys2Proof.Machine.execQclr t w s
  | .qadd t w => Sys2Proof.Machine.execQadd t w s
  | .qmadd t w => Sys2Proof.Machine.execQmadd t w s
  | .qmsub t w => Sys2Proof.Machine.execQmsub t w s
  | .qrd t w => Sys2Proof.Machine.execQrd t w s
  | .ld t w => Sys2Proof.Machine.execLd t w s
  | .lds t w => Sys2Proof.Machine.execLds t w s
  | .st t w => Sys2Proof.Machine.execSt t w s
  | .br t w => Sys2Proof.Machine.execBr t w s
  | .jal t w => Sys2Proof.Machine.execJal t w s
  | .jr t w => Sys2Proof.Machine.execJr t w s
  | .exit t w => Sys2Proof.Machine.execExit t w s
  | .nop t w => Sys2Proof.Machine.execNop t w s
  | .mma t w => Sys2Proof.Machine.execMma t w s
  | .ldw t w => Sys2Proof.Machine.execLdw t w s
  | .streamFeed t w => Sys2Proof.Machine.execStreamFeed t w s
  | .streamCopy t w => Sys2Proof.Machine.execStreamCopy t w s
  | .streamDesc t w => Sys2Proof.Machine.execStreamDesc t w s
  | .drn t w => Sys2Proof.Machine.execDrn t w s
  | .sfu t w => Sys2Proof.Machine.execSfu t w s
  | .red t w => Sys2Proof.Machine.execRed t w s
  | .topk t w => Sys2Proof.Machine.execTopk t w s
  | .smp t w => Sys2Proof.Machine.execSmp t w s
  | .hput t w => Sys2Proof.Machine.execHput t w s
  | .hget t w => Sys2Proof.Machine.execHget t w s
  | .hgetNb t w => Sys2Proof.Machine.execHgetNb t w s
  | .wait t w => Sys2Proof.Machine.execWait t w s
  | .waitAll t w => Sys2Proof.Machine.execWaitAll t w s
  | .waitCls t w => Sys2Proof.Machine.execWaitCls t w s
  | .fence t w => Sys2Proof.Machine.execFence t w s
  | .dep t w => Sys2Proof.Machine.execDep t w s
  | .atCount t w => Sys2Proof.Machine.execAtCount t w s
  | .uget t w => Sys2Proof.Machine.execUget t w s
  | .uput t w => Sys2Proof.Machine.execUput t w s
  | .ucancel t w => Sys2Proof.Machine.execUcancel t w s
  | .rqsc t w => Sys2Proof.Machine.execRqsc t w s
  | .rres t w => Sys2Proof.Machine.execRres t w s
  | .issueResume t => Sys2Proof.Machine.execIssueResume t s
  | .passLoadStart t a => Sys2Proof.Machine.execPassLoadStart t a s
  | .passStreamStart t a => Sys2Proof.Machine.execPassStreamStart t a s
  | .fillPassStart t a => Sys2Proof.Machine.execFillPassStart t a s
  | .vectorEntry t a => Sys2Proof.Machine.execVectorEntry t a s
  | .columnDrainVector t a => Sys2Proof.Machine.execColumnDrainVector t a s
  | .passReport t a => Sys2Proof.Machine.execPassReport t a s
  | .rerunStart t a => Sys2Proof.Machine.execRerunStart t a s
  | .gangModeApply t => Sys2Proof.Machine.execGangModeApply t s
  | .configWriteApply t => Sys2Proof.Machine.execConfigWriteApply t s
  | .redHandover t => Sys2Proof.Machine.execRedHandover t s
  | .chainStageArm t => Sys2Proof.Machine.execChainStageArm t s
  | .chainBeatArrive t => Sys2Proof.Machine.execChainBeatArrive t s
  | .chainReturnBeat t => Sys2Proof.Machine.execChainReturnBeat t s
  | .topkListBeat t => Sys2Proof.Machine.execTopkListBeat t s
  | .drnHandover t => Sys2Proof.Machine.execDrnHandover t s
  | .drainGroup t => Sys2Proof.Machine.execDrainGroup t s
  | .drnFinish t => Sys2Proof.Machine.execDrnFinish t s
  | .drnComplete t => Sys2Proof.Machine.execDrnComplete t s
  | .digestCfgApply t => Sys2Proof.Machine.execDigestCfgApply t s
  | .sfuHandover t => Sys2Proof.Machine.execSfuHandover t s
  | .sfuComplete t => Sys2Proof.Machine.execSfuComplete t s
  | .streamQueueAccept t q => Sys2Proof.Machine.execStreamQueueAccept t q s
  | .streamIssueStart t q => Sys2Proof.Machine.execStreamIssueStart t q s
  | .descBurstFetch t q => Sys2Proof.Machine.execDescBurstFetch t q s
  | .descTakeUp t q => Sys2Proof.Machine.execDescTakeUp t q s
  | .requestIssue t => Sys2Proof.Machine.execRequestIssue t s
  | .localElementRead t q => Sys2Proof.Machine.execLocalElementRead t q s
  | .readDataReturn t q n => Sys2Proof.Machine.execReadDataReturn t q n s
  | .writeAck t q n => Sys2Proof.Machine.execWriteAck t q n s
  | .bwWindowBoundary t => Sys2Proof.Machine.execBwWindowBoundary t s
  | .markSatisfied t q => Sys2Proof.Machine.execMarkSatisfied t q s
  | .streamComplete t q => Sys2Proof.Machine.execStreamComplete t q s
  | .rtvResume wr t acc v => Sys2Proof.Machine.execRtvResume wr t acc v s
  | .rtvKill wr t acc v => Sys2Proof.Machine.execRtvKill wr t acc v s
  | .rtvFaultClear wr t acc v => Sys2Proof.Machine.execRtvFaultClear wr t acc v s
  | .streamDeadlineMiss t q => Sys2Proof.Machine.execStreamDeadlineMiss t q s
  | .quiesceComplete t => Sys2Proof.Machine.execQuiesceComplete t s
  | .sledBeatArrive t => Sys2Proof.Machine.execSledBeatArrive t s
  | .ldwAcceptReport t q => Sys2Proof.Machine.execLdwAcceptReport t q s
  | .handleSend t => Sys2Proof.Machine.execHandleSend t s
  | .handleArrive t => Sys2Proof.Machine.execHandleArrive t s
  | .handleResend t => Sys2Proof.Machine.execHandleResend t s
  | .hgetReturn t => Sys2Proof.Machine.execHgetReturn t s
  | .waitResume t => Sys2Proof.Machine.execWaitResume t s
  | .depSatisfied t => Sys2Proof.Machine.execDepSatisfied t s
  | .atRelease t => Sys2Proof.Machine.execAtRelease t s
  | .kernelPreempt t => Sys2Proof.Machine.execKernelPreempt t s
  | .kernelContextStart t => Sys2Proof.Machine.execKernelContextStart t s
  | .faultCompletion t => Sys2Proof.Machine.execFaultCompletion t s
  | .exceptionSignal t => Sys2Proof.Machine.execExceptionSignal t s
  | .xltInvalidate wr p acc v => Sys2Proof.Machine.execXltInvalidate wr p acc v s
  | .xltInvalidateDone p => Sys2Proof.Machine.execXltInvalidateDone p s
  | .cryptEnable wr p acc v => Sys2Proof.Machine.execCryptEnable wr p acc v s
  | .ringDoorbell wr g acc v => Sys2Proof.Machine.execRingDoorbell wr g acc v s
  | .packetFetch g => Sys2Proof.Machine.execPacketFetch g s
  | .packetValidate g => Sys2Proof.Machine.execPacketValidate g s
  | .taskDispatch g => Sys2Proof.Machine.execTaskDispatch g s
  | .tileTaskStart t => Sys2Proof.Machine.execTileTaskStart t s
  | .taskEnd g n => Sys2Proof.Machine.execTaskEnd g n s
  | .packetRetire g => Sys2Proof.Machine.execPacketRetire g s
  | .partStop g => Sys2Proof.Machine.execPartStop g s
  | .partRelease g => Sys2Proof.Machine.execPartRelease g s
  | .partReset g => Sys2Proof.Machine.execPartReset g s
  | .cancel g => Sys2Proof.Machine.execCancel g s
  | .lockWr g => Sys2Proof.Machine.execLockWr g s
  | .progPatch g => Sys2Proof.Machine.execProgPatch g s
  | .progRemove g => Sys2Proof.Machine.execProgRemove g s
  | .timeStep g => Sys2Proof.Machine.execTimeStep g s
  | .timeSlew g => Sys2Proof.Machine.execTimeSlew g s
  | .sit g => Sys2Proof.Machine.execSit g s
  | .sitTileArrive t => Sys2Proof.Machine.execSitTileArrive t s
  | .sitPassAbandon t a => Sys2Proof.Machine.execSitPassAbandon t a s
  | .sitTileReport t => Sys2Proof.Machine.execSitTileReport t s
  | .sitComplete => Sys2Proof.Machine.execSitComplete s
  | .sliceExpiry g => Sys2Proof.Machine.execSliceExpiry g s
  | .taskDeadlineMiss g n => Sys2Proof.Machine.execTaskDeadlineMiss g n s
  | .stallCheck => Sys2Proof.Machine.execStallCheck s
  | .drainComplete g n => Sys2Proof.Machine.execDrainComplete g n s
  | .drainKill g n => Sys2Proof.Machine.execDrainKill g n s
  | .feRingCfgWrite wr g acc v => Sys2Proof.Machine.execFeRingCfgWrite wr g acc v s
  | .flitTransmit k => Sys2Proof.Machine.execFlitTransmit k s
  | .flitReceive k a b c d stamp => Sys2Proof.Machine.execFlitReceive k a b c d stamp s
  | .replayTimer k => Sys2Proof.Machine.execReplayTimer k s
  | .lcfReceive k a b c d => Sys2Proof.Machine.execLcfReceive k a b c d s
  | .narrowReq k => Sys2Proof.Machine.execNarrowReq k s
  | .narrowAck k => Sys2Proof.Machine.execNarrowAck k s
  | .narrowDone k => Sys2Proof.Machine.execNarrowDone k s
  | .downNotice k => Sys2Proof.Machine.execDownNotice k s
  | .idUpdate k => Sys2Proof.Machine.execIdUpdate k s
  | .signalDetect k => Sys2Proof.Machine.execSignalDetect k s
  | .equalizeDone k loss => Sys2Proof.Machine.execEqualizeDone k loss s
  | .alignDone k ploss lanes planes pfull => Sys2Proof.Machine.execAlignDone k ploss lanes planes pfull s
  | .caps k => Sys2Proof.Machine.execCaps k s
  | .measureDone k sum => Sys2Proof.Machine.execMeasureDone k sum s
  | .trainBoundExpiry k => Sys2Proof.Machine.execTrainBoundExpiry k s
  | .signalLoss k => Sys2Proof.Machine.execSignalLoss k s
  | .linkRetrainTimer k => Sys2Proof.Machine.execLinkRetrainTimer k s
  | .linkEnable wr k acc v => Sys2Proof.Machine.execLinkEnable wr k acc v s
  | .retrain wr k acc v => Sys2Proof.Machine.execRetrain wr k acc v s
  | .rejoin wr k acc v => Sys2Proof.Machine.execRejoin wr k acc v s
  | .rd k => Sys2Proof.Machine.execRd k s
  | .wr k vc => Sys2Proof.Machine.execWr k vc s
  | .aadd k => Sys2Proof.Machine.execAadd k s
  | .hiricQadd k => Sys2Proof.Machine.execHiricQadd k s
  | .hiricList k => Sys2Proof.Machine.execHiricList k s
  | .hiricHput k => Sys2Proof.Machine.execHiricHput k s
  | .doorbell k => Sys2Proof.Machine.execDoorbell k s
  | .rdr k => Sys2Proof.Machine.execRdr k s
  | .wra k => Sys2Proof.Machine.execWra k s
  | .aadr k => Sys2Proof.Machine.execAadr k s
  | .qaa k => Sys2Proof.Machine.execQaa k s
  | .hpa k => Sys2Proof.Machine.execHpa k s
  | .enumStart wr acc v => Sys2Proof.Machine.execEnumStart wr acc v s
  | .enumToken k => Sys2Proof.Machine.execEnumToken k s
  | .enumReturn k => Sys2Proof.Machine.execEnumReturn k s
  | .enumBusy k => Sys2Proof.Machine.execEnumBusy k s
  | .enumFail k => Sys2Proof.Machine.execEnumFail k s
  | .mboxSend wr acc v => Sys2Proof.Machine.execMboxSend wr acc v s
  | .syncSend => Sys2Proof.Machine.execSyncSend s
  | .sync k => Sys2Proof.Machine.execSync k s
  | .delayReq k => Sys2Proof.Machine.execDelayReq k s
  | .delayResp k => Sys2Proof.Machine.execDelayResp k s
  | .exchangeTimeout => Sys2Proof.Machine.execExchangeTimeout s
  | .holdoverEntry => Sys2Proof.Machine.execHoldoverEntry s
  | .ptmDialogue off => Sys2Proof.Machine.execPtmDialogue off s
  | .timNowRead rd acc => Sys2Proof.Machine.execTimNowRead rd acc s
  | .doveEntry t => Sys2Proof.Machine.execDoveEntry t s
  | .ashHandshake t => Sys2Proof.Machine.execAshHandshake t s
  | .ashEntry t => Sys2Proof.Machine.execAshEntry t s
  | .handshakeAbort t => Sys2Proof.Machine.execHandshakeAbort t s
  | .slateEntry t => Sys2Proof.Machine.execSlateEntry t s
  | .heldPacketArrive t pkt => Sys2Proof.Machine.execHeldPacketArrive t pkt s
  | .atEarlyWake t => Sys2Proof.Machine.execAtEarlyWake t s
  | .stateExitComplete t => Sys2Proof.Machine.execStateExitComplete t s
  | .wakeFail t => Sys2Proof.Machine.execWakeFail t s
  | .jetEnter wr acc v => Sys2Proof.Machine.execJetEnter wr acc v s
  | .jetExit wr acc v => Sys2Proof.Machine.execJetExit wr acc v s
  | .governorTick mw maW maE => Sys2Proof.Machine.execGovernorTick mw maW maE s
  | .registerWrite wr addr acc v => Sys2Proof.Machine.execRegisterWrite wr addr acc v s
  | .cwWrite wr addr acc v => Sys2Proof.Machine.execCwWrite wr addr acc v s
  | .cwTwinWrite wr addr acc v => Sys2Proof.Machine.execCwTwinWrite wr addr acc v s
  | .partitionDrainDone p => Sys2Proof.Machine.execPartitionDrainDone p s
  | .partitionDrainTimeout p => Sys2Proof.Machine.execPartitionDrainTimeout p s
  | .partitionResetDone p => Sys2Proof.Machine.execPartitionResetDone p s
  | .rustTimeout p => Sys2Proof.Machine.execRustTimeout p s
  | .crimsonAutoReset => Sys2Proof.Machine.execCrimsonAutoReset s
  | .crimsonReset wr acc v => Sys2Proof.Machine.execCrimsonReset wr acc v s
  | .applyW wr acc v => Sys2Proof.Machine.execApplyW wr acc v s
  | .applyE wr acc v => Sys2Proof.Machine.execApplyE wr acc v s
  | .injectArm wr acc v => Sys2Proof.Machine.execInjectArm wr acc v s
  | .flr p => Sys2Proof.Machine.execFlr p s
  | .secMapCommit wr acc v => Sys2Proof.Machine.execSecMapCommit wr acc v s
  | .mapZeroDone => Sys2Proof.Machine.execMapZeroDone s
  | .qntSclCommit wr t acc v => Sys2Proof.Machine.execQntSclCommit wr t acc v s
  | .raise wr acc v => Sys2Proof.Machine.execRaise wr acc v s
  | .extend wr p acc v => Sys2Proof.Machine.execExtend wr p acc v s
  | .pmrExtendDone p => Sys2Proof.Machine.execPmrExtendDone p s
  | .getVersion fn => Sys2Proof.Machine.execGetVersion fn s
  | .getCapabilities fn => Sys2Proof.Machine.execGetCapabilities fn s
  | .negotiateAlgorithms fn ecdsaP384 sha384 => Sys2Proof.Machine.execNegotiateAlgorithms fn ecdsaP384 sha384 s
  | .getDigests fn => Sys2Proof.Machine.execGetDigests fn s
  | .getCertificate fn slot off len => Sys2Proof.Machine.execGetCertificate fn slot off len s
  | .challenge fn slot nonce => Sys2Proof.Machine.execChallenge fn slot nonce s
  | .getMeasurements fn idx nonce sign => Sys2Proof.Machine.execGetMeasurements fn idx nonce sign s
  | .inputPowerApply => Sys2Proof.Machine.execInputPowerApply s
  | .inputPowerLoss vaon => Sys2Proof.Machine.execInputPowerLoss vaon s
  | .perstN => Sys2Proof.Machine.execPerstN s
  | .powerPhaseDone => Sys2Proof.Machine.execPowerPhaseDone s
  | .bootPhaseDone => Sys2Proof.Machine.execBootPhaseDone s
  | .measurePhaseDone readings => Sys2Proof.Machine.execMeasurePhaseDone readings s
  | .linksPhaseDone => Sys2Proof.Machine.execLinksPhaseDone s
  | .timePhaseDone => Sys2Proof.Machine.execTimePhaseDone s
  | .phaseBoundExpiry => Sys2Proof.Machine.execPhaseBoundExpiry s
  | .proceed wr acc v => Sys2Proof.Machine.execProceed wr acc v s
  | .resetWrite wr acc v => Sys2Proof.Machine.execResetWrite wr acc v s
  | .mgtPartRel wr acc v => Sys2Proof.Machine.execMgtPartRel wr acc v s
  | .posFrame bytes => Sys2Proof.Machine.execPosFrame bytes s
  | .ident bytes => Sys2Proof.Machine.execIdent bytes s
  | .chainRead bytes => Sys2Proof.Machine.execChainRead bytes s
  | .chainWrite bytes => Sys2Proof.Machine.execChainWrite bytes s
  | .alert => Sys2Proof.Machine.execAlert s
  | .alertRepeat => Sys2Proof.Machine.execAlertRepeat s
  | .chainReset bytes => Sys2Proof.Machine.execChainReset bytes s
  | .chainFrameForward bytes down => Sys2Proof.Machine.execChainFrameForward bytes down s
  | .telemetrySnapshot readings => Sys2Proof.Machine.execTelemetrySnapshot readings s
  | .tempSample readings => Sys2Proof.Machine.execTempSample readings s
  | .railOutOfBand r => Sys2Proof.Machine.execRailOutOfBand r s
  | .fwOpen wr acc v => Sys2Proof.Machine.execFwOpen wr acc v s
  | .fwWrite wr acc v => Sys2Proof.Machine.execFwWrite wr acc v s
  | .fwVerify wr acc v => Sys2Proof.Machine.execFwVerify wr acc v s
  | .fwCopy wr acc v => Sys2Proof.Machine.execFwCopy wr acc v s
  | .fwClose wr acc v => Sys2Proof.Machine.execFwClose wr acc v s
  | .fwOpDone => Sys2Proof.Machine.execFwOpDone s
  | .hostBarAccess fn bar off write bytes n => Sys2Proof.Machine.execHostBarAccess fn bar off write bytes n s
  | .channelSetExitComplete cs => Sys2Proof.Machine.execChannelSetExitComplete cs s
  | .jetExitComplete => Sys2Proof.Machine.execJetExitComplete s

end Sys2Proof.Machine
end

