-- ==== Sys2Proof/Safety.lean ====
section
/-! DEFINITION. The words in which claims are stated: what a herder issues next, what a retired instruction leaves,
which parts of two states agree, and the invariants of a run. -/
namespace Sys2Proof.Machine

/-! What a herder issues next (07 R225, R231; 08 R267 to R273) -/

/-- The active context of a tile. -/
def State.act (s : State) (t : Nat) : Ctx := s.ctx t (s.herder t).kctx

/-- The active context of tile t issues the word w next, as the row of an opcode and form, and the issue is the
instruction's own: the tile runs, the context waits for nothing, the predicate holds, the encoding is legal, the
level suffices, and no lockstep injection is armed. -/
def State.issues (s : State) (t : Nat) (w : BitVec 64) (opc form : Nat) : Bool :=
  s.tileRuns t && (s.act t).st == .run && (s.act t).wait == .none && ((s.herder t).kctx || !(s.herder t).preempted)
    && (s.act t).prog[(s.act t).pc / 8]? == some w && (s.act t).pget (fld w 10 8) != bit w 11
    && !illegalWord w && decide (fld w 7 0 = opc) && decide (opForm w = form)
    && !(opSystem w && (s.act t).level == .u) && !s.injLockstep t

/-- The same with the predicate false: the word is skipped (07 R225). -/
def State.skips (s : State) (t : Nat) (w : BitVec 64) (opc form : Nat) : Bool :=
  s.tileRuns t && (s.act t).st == .run && (s.act t).wait == .none && ((s.herder t).kctx || !(s.herder t).preempted)
    && (s.act t).prog[(s.act t).pc / 8]? == some w && (s.act t).pget (fld w 10 8) == bit w 11
    && decide (fld w 7 0 = opc) && decide (opForm w = form) && !s.injLockstep t

/-- The state after the active context of tile t retired with the register contents c: they stand, the PC moves on by
one word, and the stall timer restarts (08 R267, 11 R427). -/
def State.after (s : State) (t : Nat) (c : Ctx) : State :=
  (s.setCtx t (s.herder t).kctx c).nextPc t (s.herder t).kctx

/-- The state after the active context of tile t retired with its registers unchanged. -/
def State.moves (s : State) (t : Nat) : State := s.nextPc t (s.herder t).kctx

/-- The active context stalls at its instruction. -/
def State.stalls (s : State) (t : Nat) (x : Wait) : State :=
  s.modCtx t (s.herder t).kctx (fun c => { c with wait := x })

/-- The active context takes a precise exception of an instruction at an offset (07 R258, R260), unless the report of an
asynchronous one of the context is due: that one goes first, and the instruction has no effect (07 R261). -/
def State.exceptsAt (s : State) (t pc : Nat) (x : Exc) (info : Nat) : State :=
  let k := (s.herder t).kctx
  if s.clash t k then s else s.raise t k true x pc info 0

/-- The same at the instruction's own offset. -/
def State.excepts (s : State) (t : Nat) (x : Exc) (info : Nat) : State := s.exceptsAt t (s.act t).pc x info

/-- Every herder instruction of the table at tile t, with its opcode and, where an opcode has several rows, the form
(08 R273). -/
def herderRows (t : Nat) (w : BitVec 64) : List (Sys2Proof.Instr × Nat × Nat) :=
  [(.add t w, 0x01, 0), (.sub t w, 0x02, 0), (.and t w, 0x03, 0), (.or t w, 0x04, 0), (.xor t w, 0x05, 0),
   (.shl t w, 0x06, 0), (.shr t w, 0x07, 0), (.sra t w, 0x08, 0), (.mul t w, 0x09, 0), (.mulh t w, 0x0A, 0),
   (.min t w, 0x0B, 0), (.max t w, 0x0C, 0), (.addi t w, 0x10, 0), (.li t w, 0x11, 0), (.lih t w, 0x12, 0),
   (.andi t w, 0x13, 0), (.ori t w, 0x14, 0), (.cmp t w, 0x18, 0), (.plog t w, 0x19, 0), (.mova t w, 0x1C, 0),
   (.movs t w, 0x1D, 0), (.adda t w, 0x1E, 0), (.tset t w, 0x20, 0), (.tget t w, 0x21, 0), (.tld t w, 0x22, 0),
   (.tst t w, 0x23, 0), (.padd t w, 0x30, 0), (.psub t w, 0x31, 0), (.pmul t w, 0x32, 0), (.pcvt t w, 0x33, 0),
   (.qclr t w, 0x34, 0), (.qadd t w, 0x35, 0), (.qmadd t w, 0x36, 0), (.qmsub t w, 0x37, 0), (.qrd t w, 0x38, 0)]
  ++ [(.ld t w, 0x40, 0), (.lds t w, 0x41, 0), (.st t w, 0x42, 0), (.br t w, 0x48, 0), (.jal t w, 0x49, 0),
   (.jr t w, 0x4A, 0), (.exit t w, 0x4B, 0), (.nop t w, 0x4C, 0), (.mma t w, 0x80, 0), (.ldw t w, 0x81, 0),
   (.streamFeed t w, 0x82, 0), (.streamCopy t w, 0x82, 1), (.streamDesc t w, 0x82, 2), (.drn t w, 0x83, 0),
   (.sfu t w, 0x84, 0), (.red t w, 0x85, 0), (.topk t w, 0x86, 0), (.smp t w, 0x87, 0), (.hput t w, 0x90, 0),
   (.hget t w, 0x91, 0), (.hgetNb t w, 0x91, 1), (.wait t w, 0x92, 0), (.waitAll t w, 0x92, 1),
   (.waitCls t w, 0x92, 2), (.fence t w, 0x93, 0), (.dep t w, 0x94, 0), (.atCount t w, 0x95, 0),
   (.uget t w, 0xC0, 0), (.uput t w, 0xC1, 0), (.ucancel t w, 0xC2, 0), (.rqsc t w, 0xC3, 0), (.rres t w, 0xC4, 0)]

/-- The active context of tile t is ready to issue the word at its PC. -/
def State.atWord (s : State) (t : Nat) (w : BitVec 64) : Bool :=
  s.tileRuns t && (s.act t).st == .run && (s.act t).wait == .none && ((s.herder t).kctx || !(s.herder t).preempted)
    && (s.act t).prog[(s.act t).pc / 8]? == some w

/-- Every word or block of a range is a codeword and no error is armed to be injected: a read delivers the stored bytes. -/
def State.clean (s : State) (a n : Nat) : Bool :=
  (eccUnits a n).all (fun u => s.checkDiff u == 0) && !s.sec.inj.armed

/-- A write of a range reaches memory byte for byte: a merge reads no error, and no word or block is encrypted. -/
def State.plain (s : State) (a n : Nat) : Bool :=
  s.clean a n &&
    (eccUnits a n).all (fun u => match regionOf u.addr with | .hbm cs => (s.setKey cs).isNone | _ => true)

/-- The bytes of a range lie in the populated part of one tile's window. -/
def inWindow (t a n : Nat) : Bool := decide (tileBase t ≤ a ∧ a + n ≤ tileBase t + tileSize)

/-! Packets of the command front end (11 R404, R423, R426) -/

/-- The complement-stored values of ring g agree, and no injected error is armed: the ring is used as it stands. -/
def State.ringGood (s : State) (g : Nat) : Bool :=
  !(s.ring g).broken && s.twinOk (ringReg g oRingBase) && (s.ring g).countsOk && !s.sec.inj.armed

/-- In u the packet n of ring g has ended, at the time of s, with a result, a code and a tile; its completion record
stands in the ring's completion array where the ring's partition reaches it, and is all that memory gained; the
ring's vector fired for the results that R426 names. -/
def endedAs (s u : State) (g n : Nat) (res : TaskRes) (code tile : Nat) : Prop :=
  ∃ k, u.pkt g n = some k ∧ k.st = .ended ∧ k.result = res ∧ k.code = code ∧ k.tile = tile ∧ k.endAt = s.now ∧
    k.recorded = true ∧
    (s.reach (g / 64) (s.ringCbase g + 32 * (n % s.ringSize g)) 32 = true →
      s.plain (s.ringCbase g + 32 * (n % s.ringSize g)) 32 = true →
      u.mem = s.mem.writeN (s.ringCbase g + 32 * (n % s.ringSize g)) k.record) ∧
    (s.reach (g / 64) (s.ringCbase g + 32 * (n % s.ringSize g)) 32 = false → u.mem = s.mem) ∧
    (res.fires = true → HostMsg.msix (128 * (g / 64) + g % 64) ∈ u.host)

/-! Chains (04 R141) -/

/-- Nothing waits at a stage to be sent, and what it still takes part in comes from outside. -/
def Stage.still (g : Stage) : Bool :=
  g.outq.isEmpty && (g.role != 1 || g.list || (decide (g.beats ≤ g.next) && !g.finished))

/-- No stage of the module has a beat to send. -/
def State.chainsStill (s : State) : Bool := s.tiles.all (fun x => x.2.chain.stages.all Stage.still)

/-! Register writes (00 R11 to R14; 16 R607, R613) -/

/-- The access of a writer to a register is let through: nothing hides the register and its page admits the writer. -/
def State.lets (s : State) (w : Writer) (a : Nat) : Prop :=
  s.jetHides w a = false ∧ s.sitHides w a = false ∧ s.permits w a true = true

/-- A write of a value with a width takes place: it is let through, the lock pairs agree and lock no bit of the
register, the value holds no reserved bit or encoding, and no WL bit that reads 1 is written 0. -/
def State.takes (s : State) (w : Writer) (a : Nat) (c : Acc) (v : Word) : Prop :=
  s.lets w a ∧ s.checkLocks a = s ∧ s.lockedFor w a = 0 ∧ c ≠ .other ∧
  ∀ r, findReg a = some r →
    r.refuses (c.place v) c.mask ((s.regNow a &&& ~~~ c.mask) ||| c.place v) = false ∧
    s.regNow a &&& ~~~ c.place v &&& c.mask &&& r.maskOfTy .wl = 0

/-- The registers whose write does nothing but change their own value: of the module, of a tile page, of a partition
page. -/
def plainModRegs : List Nat :=
  [rEnumXid, rLnkCfg, rMboxH0, rMboxData, rMboxStat, rTimStatus, rPwrGovCnt, rRelCfg, rRelLogStat, rRelLogSel,
   rRelInjAddr, rSecCfg, rMgtAlert]
def plainTileRegs : List Nat :=
  [oNumFlags, oStallCnt 0, oStallCnt 1, oStallCnt 2, oStallCnt 3, oTruncCnt, oDriftLog, oDriftCnt, oSfuStatus,
   oSfuRowCnt, oSfuSmpCnt, oHrdExc, oHqStatus, oQcfg, oRtvDlCnt, oRtvStallCnt, oTileCnt]
def plainPartRegs : List Nat := [oAdmit, oViol, oXltFstat, oProgStat, oHangLog, oWakeCnt, oRelCnt]

/-- A register of those lists. -/
def plainReg (a : Nat) : Prop :=
  a ∈ plainModRegs ∨ (∃ t o, t < 1152 ∧ o ∈ plainTileRegs ∧ a = tilePage t o)
    ∨ ∃ p o, p < 16 ∧ o ∈ plainPartRegs ∧ a = partPage p o

/-! Which parts of two states agree -/

/-- u differs from s in nothing but the herder of tile t. -/
def onlyHerder (t : Nat) (s u : State) : Prop :=
  u = { s with tiles := u.tiles } ∧ (∀ j, j ≠ t → u.tile j = s.tile j)
    ∧ u.tile t = { s.tile t with herder := u.herder t }

/-- u differs from s in nothing but the active context of tile t and the time of its last advance. -/
def onlyAct (t : Nat) (s u : State) : Prop :=
  onlyHerder t s u ∧
    u.herder t = { (s.herder t).setCtx (s.herder t).kctx (u.ctx t (s.herder t).kctx) with
      advU := (u.herder t).advU, advK := (u.herder t).advK }

/-- The tiles of u and s differ in tile t alone. -/
def onlyTile (t : Nat) (s u : State) : Prop := u = { s with tiles := u.tiles } ∧ ∀ j, j ≠ t → u.tile j = s.tile j

/-- u differs from s in nothing but link k. -/
def onlyLink (k : Nat) (s u : State) : Prop :=
  u = { s with link := { s.link with links := u.link.links } } ∧ ∀ j, j ≠ k → u.linkOf j = s.linkOf j

/-- No tile has changed, but for the stall timers of tiles that are suspended on a link (15 R591). -/
def tilesKept (s u : State) : Prop :=
  ∀ t, (s.suspended t = false → u.tile t = s.tile t) ∧
    u.tile t = { s.tile t with herder := { s.herder t with advU := (u.herder t).advU, advK := (u.herder t).advK } }

/-- Link k has gone to DOWN with a reason: it is not routed and keeps nothing to resend, and the event is counted. -/
def wentDown (k : Nat) (r : DownReason) (s u : State) : Prop :=
  (u.linkOf k).st = .down ∧ (u.linkOf k).reason = r ∧ (u.linkOf k).routed = false ∧ (u.linkOf k).kept = [] ∧
    (u.linkOf k).replay = none ∧
    u.regF (linkReg k 0x20) 63 56 = min 0xFF (s.regF (linkReg k 0x20) 63 56 + 1) ∧ u.mem = s.mem ∧ tilesKept s u

/-- u differs from s in nothing but registers. -/
def onlyRegs (s u : State) : Prop := u = { s with regs := u.regs }

/-! Module resets (15 R572, 17 R646) -/

/-- u is s after a module reset that enters a phase of start-up: what R572 keeps stands, and everything else is as at
reset. -/
def wasReset (ph : BootPhase) (s u : State) : Prop :=
  u.mgt.phase = ph ∧ u.mgt.fail = false ∧ u.mgt.running = [] ∧ u.mem = [] ∧ u.eccW = [] ∧ u.eccB = [] ∧ u.tiles = [] ∧
  u.fe = State.reset.fe ∧ u.link = State.reset.link ∧ u.power = State.reset.power ∧ u.sec.parts = [] ∧
  u.sec.crimson = false ∧ u.sec.inj = {} ∧ u.cwPend = [] ∧ u.shadow = [] ∧ u.beats = [] ∧ u.sleds = [] ∧
  u.sec.log = s.sec.log ∧ u.sec.logNext = s.sec.logNext ∧ u.time.ctr = s.time.ctr ∧ u.time.rate = s.time.rate ∧
  u.time.locked = false ∧ u.time.holdover = true ∧ u.pending = s.pending ∧ u.host = s.host ∧
  ∀ a, u.reg a = if keptReg a then s.reg a else regReset a

/-- u is s after a Crimson error that found none before it (15 R571): fetching stops, no link is up, the host and the
chain are told, and memory and tiles are as they were. -/
def heldByCrimson (s u : State) : Prop :=
  u.sec.crimson = true ∧ u.sec.crimsonAt = s.now ∧ u.fe.halted = true ∧ HostMsg.aerFatal ∈ u.host ∧
  u.regF rMgtAlert 0 0 = 1 ∧ u.regF rRelCrimsonCtl 0 0 = 1 ∧ u.mem = s.mem ∧ tilesKept s u ∧
  ∀ k, k < 36 → (u.linkOf k).st = .disabled ∨ (u.linkOf k).st = .down

/-! The invariant of every run: the memory keeps its canonical form -/

def State.Inv (s : State) : Prop := s.mem.wf = true

end Sys2Proof.Machine
end

