-- ==== Sys2Proof/Certificates/Slice0/Obligations.lean ====
section
/-! DEFINITION. The statements about the model, for the provers. Each says in its docstring which rules of the spec
it formalises, or which choice of the model it is about. -/
open Sys2Proof Sys2Proof.Machine

/-! ## One step -/

/-- The command at the front of the queue runs with the rest of the queue, and is taken from it. -/
def Obligations.StepRunsFrontCommand : Prop :=
  ∀ (s : State) (c : Instr) (rest : List Instr),
    step { s with pending := c :: rest } = exec c { s with pending := rest }

/-- On an empty queue the module's clock advances (13 R497; that the tick is what an empty queue does is the
model's choice): the 112-bit counter grows by 2^48 + RATE × 2^16, and no register, memory byte, tile, ring,
partition or link changes. -/
def Obligations.EmptyQueueTicks : Prop :=
  ∀ s : State, s.pending = [] → -(2 : Int) ^ 32 ≤ s.time.rate →
    ∃ u, step s = .next u ∧
      (u.time.ctr : Int) = ((s.time.ctr : Int) + 2 ^ 48 + s.time.rate * 2 ^ 16) % 2 ^ 112 ∧
      u.pending = [] ∧ u.regs = s.regs ∧ u.mem = s.mem ∧ u.tiles = s.tiles ∧ u.fe = s.fe ∧ u.sec = s.sec ∧
      u.link = s.link ∧ u.power = s.power ∧ { u.time with ctr := s.time.ctr } = s.time

/-! ## The herder -/

/-- Integer instructions (08 R273, R274): the result modulo 2^64 goes to sD, the instruction retires, and nothing
else changes (`after` says all that a retired instruction leaves). -/
def Obligations.IntegerInstructionResults : Prop :=
  ∀ (s : State) (t : Nat) (w : BitVec 64),
    let c := s.act t
    let a := c.sget (fA w)
    let b := c.sget (fB w)
    let n := (b.extractLsb' 0 6).toNat
    let imm := w.extractLsb' 32 32
    let gives (i : Instr) (v : Word) : Prop := exec i s = .next (s.after t (c.sset (fD w) v))
    (s.issues t w 0x01 0 = true → gives (.add t w) (a + b)) ∧
    (s.issues t w 0x02 0 = true → gives (.sub t w) (a - b)) ∧
    (s.issues t w 0x03 0 = true → gives (.and t w) (a &&& b)) ∧
    (s.issues t w 0x04 0 = true → gives (.or t w) (a ||| b)) ∧
    (s.issues t w 0x05 0 = true → gives (.xor t w) (a ^^^ b)) ∧
    (s.issues t w 0x06 0 = true → gives (.shl t w) (BitVec.ofNat 64 (a.toNat * 2 ^ n))) ∧
    (s.issues t w 0x07 0 = true → gives (.shr t w) (BitVec.ofNat 64 (a.toNat / 2 ^ n))) ∧
    (s.issues t w 0x08 0 = true → gives (.sra t w) (BitVec.ofInt 64 (a.toInt / 2 ^ n))) ∧
    (s.issues t w 0x09 0 = true → gives (.mul t w) (BitVec.ofNat 64 (a.toNat * b.toNat))) ∧
    (s.issues t w 0x0A 0 = true →
      gives (.mulh t w) ((a.signExtend 128 * b.signExtend 128).extractLsb' 64 64)) ∧
    (s.issues t w 0x0B 0 = true → gives (.min t w) (BitVec.ofInt 64 (min a.toInt b.toInt))) ∧
    (s.issues t w 0x0C 0 = true → gives (.max t w) (BitVec.ofInt 64 (max a.toInt b.toInt))) ∧
    (s.issues t w 0x10 0 = true → gives (.addi t w) (a + imm.signExtend 64)) ∧
    (s.issues t w 0x11 0 = true → gives (.li t w) (imm.signExtend 64)) ∧
    (s.issues t w 0x12 0 = true → gives (.lih t w) (imm ++ a.extractLsb' 0 32)) ∧
    (s.issues t w 0x13 0 = true → gives (.andi t w) (a &&& imm.signExtend 64)) ∧
    (s.issues t w 0x14 0 = true → gives (.ori t w) (a ||| imm.signExtend 64)) ∧
    (s.issues t w 0x4C 0 = true → exec (.nop t w) s = .next (s.moves t))

/-- What retiring leaves: the PC moves by 8, the context waits for nothing, its other registers are as
given, and no other context, tile, register, memory byte, log entry or queue changes (07 R231, 08 R267). -/
def Obligations.RetiringChangesOneContext : Prop :=
  ∀ (s : State) (t : Nat) (c : Ctx),
    (s.after t c).ctx t (s.herder t).kctx = { c with pc := c.pc + 8, wait := .none } ∧
    onlyAct t s (s.after t c) ∧
    (s.moves t).ctx t (s.herder t).kctx = { s.act t with pc := (s.act t).pc + 8, wait := .none } ∧
    onlyAct t s (s.moves t)

/-- s0 reads zero and p0 reads one, and writes to either are discarded; a write of any other register reads back and
leaves every other register as it was (07 R224, R225). -/
def Obligations.RegisterFiles : Prop :=
  ∀ (c : Ctx) (i j : Nat) (v : Word) (b : Bool) (x : BitVec 48) (y : BitVec 256),
    c.sget 0 = 0 ∧ c.pget 0 = true ∧ c.sset 0 v = c ∧ c.pset 0 b = c ∧
    (i ≠ 0 → (c.sset i v).sget i = v ∧ (c.pset i b).pget i = b) ∧
    (c.aset i x).aget i = x ∧ (c.tset i y).tget i = y ∧
    (j ≠ i → (c.sset i v).sget j = c.sget j ∧ (c.pset i b).pget j = c.pget j ∧ (c.aset i x).aget j = c.aget j
      ∧ (c.tset i y).tget j = c.tget j) ∧
    (c.sset i v) = { c with s := (c.sset i v).s } ∧ (c.pset i b) = { c with p := (c.pset i b).p } ∧
    (c.aset i x) = { c with a := (c.aset i x).a } ∧ (c.tset i y) = { c with t := (c.tset i y).t }

/-- Predicate, address and tensor-register instructions (08 R273, R275, R276), and the transfers of 32 bytes
between a t-register and the tile's own window. -/
def Obligations.PredicateAddressTensorResults : Prop :=
  ∀ (s : State) (t : Nat) (w : BitVec 64),
    let c := s.act t
    let a := c.sget (fld w 19 15)
    let b := c.sget (fld w 24 20)
    let p := c.pget (fld w 17 15)
    let q := c.pget (fld w 22 20)
    let cc := fld w 27 25
    let imm := w.extractLsb' 32 32
    let e := (c.aget (fld w 20 17) + imm.signExtend 48).toNat
    let lt32 (x y : Word) : Prop := (x.extractLsb' 0 32).toInt < (y.extractLsb' 0 32).toInt
    (s.issues t w 0x18 0 = true → ∃ v, exec (.cmp t w) s = .next (s.after t (c.pset (fld w 14 12) v)) ∧
      (cc = 0 → (v = true ↔ a = b)) ∧ (cc = 1 → (v = true ↔ a ≠ b)) ∧
      (cc = 2 → (v = true ↔ a.toInt < b.toInt)) ∧ (cc = 3 → (v = true ↔ b.toInt ≤ a.toInt)) ∧
      (cc = 4 → (v = true ↔ a.toNat < b.toNat)) ∧ (cc = 5 → (v = true ↔ b.toNat ≤ a.toNat)) ∧
      (cc = 6 → (v = true ↔ lt32 a b)) ∧ (cc = 7 → (v = true ↔ ¬ lt32 b a))) ∧
    (s.issues t w 0x19 0 = true → ∃ v, exec (.plog t w) s = .next (s.after t (c.pset (fld w 14 12) v)) ∧
      (cc = 0 → v = (p && q)) ∧ (cc = 1 → v = (p || q)) ∧ (cc = 2 → v = (p ^^ q)) ∧ (cc = 3 → v = (p && !q))) ∧
    (s.issues t w 0x1C 0 = true →
      exec (.mova t w) s = .next (s.after t (c.aset (fld w 15 12) ((c.sget (fA w)).extractLsb' 0 48)))) ∧
    (s.issues t w 0x1D 0 = true →
      exec (.movs t w) s = .next (s.after t (c.sset (fD w) ((c.aget (fld w 20 17)).zeroExtend 64)))) ∧
    (s.issues t w 0x1E 0 = true →
      exec (.adda t w) s = .next (s.after t (c.aset (fld w 15 12) (c.aget (fld w 20 17) + imm.signExtend 48)))) ∧
    (s.issues t w 0x20 0 = true → ∃ v, exec (.tset t w) s = .next (s.after t (c.tset (fld w 15 12) v)) ∧
      v.extractLsb' (64 * fB w) 64 = c.sget (fA w) ∧
      ∀ j, j < 4 → j ≠ fB w → v.extractLsb' (64 * j) 64 = (c.tget (fld w 15 12)).extractLsb' (64 * j) 64) ∧
    (s.issues t w 0x21 0 = true →
      exec (.tget t w) s
        = .next (s.after t (c.sset (fD w) ((c.tget (fld w 20 17)).extractLsb' (64 * fB w) 64)))) ∧
    (s.issues t w 0x22 0 = true → e % 32 = 0 → inWindow t e 32 = true → s.clean e 32 = true →
      exec (.tld t w) s
        = .next (s.after t (c.tset (fld w 15 12) (BitVec.ofNat 256 (ofBytesLE (s.mem.readN e 32)))))) ∧
    (s.issues t w 0x23 0 = true → e % 32 = 0 → inWindow t e 32 = true →
      ∃ u, exec (.tst t w) s = .next u ∧
        u.mem = s.mem.writeN e (toBytesLE 32 (c.tget (fld w 15 12)).toNat) ∧
        (∀ j, e / 8 ≤ j → j < e / 8 + 4 → SMap.find u.eccW j = none) ∧
        u = { s.moves t with mem := u.mem, eccW := u.eccW })

/-- Scalar posit instructions (08 R278, R279): operands are P32 values of bits [31:0], the exact result is rounded
once to nearest even and goes to bits [31:0] with the others zero, its flags join TIL_NUM_FLAGS, and NaR in gives
NaR out without a flag; the quire instructions change q exactly, saturating, and `qrd` leaves it. -/
def Obligations.ScalarPositResults : Prop :=
  ∀ (s : State) (t : Nat) (w : BitVec 64),
    let k := (s.herder t).kctx
    let c := s.act t
    let x := positVal 32 ((c.sget (fA w)).extractLsb' 0 32).toNat
    let y := positVal 32 ((c.sget (fB w)).extractLsb' 0 32).toNat
    let ny := positVal 32 ((-((c.sget (fB w)).extractLsb' 0 32)).toNat)
    let toS (i : Instr) (r : Rounded) : Prop :=
      exec i s = .next (((s.setCtx t k (c.sset (fD w) (BitVec.ofNat 64 r.word))).setFlags t r.fl).moves t)
    let toQ (i : Instr) (r : Rounded) : Prop :=
      exec i s = .next (((s.setCtx t k { c with q := BitVec.ofNat 512 r.word }).setFlags t r.fl).moves t)
    let rnd (v : Option Dy) : Rounded :=
      match v with | some d => roundPosit 32 .nearestEven d | none => ⟨2 ^ 31, {}⟩
    let two (f : Dy → Dy → Dy) (a b : Option Dy) : Option Dy :=
      match a, b with | some a, some b => some (f a b) | _, _ => none
    (s.issues t w 0x30 0 = true → toS (.padd t w) (rnd (two Dy.add x y))) ∧
    (s.issues t w 0x31 0 = true → toS (.psub t w) (rnd (two Dy.add x ny))) ∧
    (s.issues t w 0x32 0 = true → toS (.pmul t w) (rnd (two Dy.mul x y))) ∧
    (s.issues t w 0x34 0 = true → toQ (.qclr t w) ⟨0, {}⟩) ∧
    (s.issues t w 0x35 0 = true → toQ (.qadd t w) (quireAdd 32 c.q.toNat x)) ∧
    (s.issues t w 0x36 0 = true → toQ (.qmadd t w) (quireAdd 32 c.q.toNat (two Dy.mul x y))) ∧
    (s.issues t w 0x37 0 = true → toQ (.qmsub t w) (quireAdd 32 c.q.toNat ((two Dy.mul x y).map Dy.neg))) ∧
    (s.issues t w 0x38 0 = true → toS (.qrd t w) (rnd (quireVal 32 c.q.toNat))) ∧
    (∀ a b, s.issues t w 0x33 0 = true → Fmt.ofCode (fld w 35 32) = some a → Fmt.ofCode (fld w 39 36) = some b →
      a.isQuire = false → b.isQuire = false → (a.isIeee = false ∨ b.isPosit = true ∨ a = b) →
      toS (.pcvt t w) (convert a b (c.sget (fA w)).toNat) ∧
      (a = b → convert a b (c.sget (fA w)).toNat = ⟨(c.sget (fA w)).toNat % 2 ^ a.width, {}⟩))

/-- Scalar loads and stores of memory and registers (08 R280, 07 R223): the effective address is (aB + OFF) mod 2^48
with the tile's register page also at its fixed alias; a load of clean memory extends the bytes it reads, a
register is read or written at the context's level, and a store writes the low bytes of sD. -/
def Obligations.ScalarLoadsAndStores : Prop :=
  ∀ (s : State) (t : Nat) (w : BitVec 64),
    let k := (s.herder t).kctx
    let c := s.act t
    let n := 2 ^ fld w 22 21
    let a := (c.aget (fld w 20 17) + (w.extractLsb' 32 32).signExtend 48).toNat
    let x := aliasOf t a
    let r := s.touch x
    let bs := r.rawRead x n
    let ok (write : Bool) : Prop := s.scalarCheck t c.level a n write = none ∧ s.targetSleeps t x = false
    let rd := s.regRead (.herder t c.level) (accOf x n).1 (accOf x n).2
    let put (s : State) (v : Word) : State := (s.modCtx t k (fun c => c.sset (fD w) v)).nextPc t k
    (s.issues t w 0x40 0 = true → ok false → regionOf x ≠ .reg → s.clean x n = true →
      exec (.ld t w) s = .next (put r (BitVec.ofNat 64 (ofBytesLE bs % 2 ^ (8 * n))))) ∧
    (s.issues t w 0x41 0 = true → ok false → regionOf x ≠ .reg → s.clean x n = true →
      exec (.lds t w) s = .next (put r (BitVec.ofInt 64 (toSigned (8 * n) (ofBytesLE bs))))) ∧
    (s.issues t w 0x40 0 = true → ok false → regionOf x = .reg →
      exec (.ld t w) s = .next (put rd.2 (BitVec.ofNat 64 (rd.1.toNat % 2 ^ (8 * n))))) ∧
    (s.issues t w 0x41 0 = true → ok false → regionOf x = .reg →
      exec (.lds t w) s = .next (put rd.2 (BitVec.ofInt 64 (toSigned (8 * n) rd.1.toNat)))) ∧
    (s.issues t w 0x42 0 = true → ok true → regionOf x ≠ .reg →
      exec (.st t w) s = .next ((r.store x (toBytesLE n (c.sget (fD w)).toNat)).nextPc t k)) ∧
    (s.issues t w 0x42 0 = true → ok true → regionOf x = .reg →
      let u := s.regWrite (.herder t c.level) (accOf x n).1 (accOf x n).2
        (BitVec.ofNat 64 ((c.sget (fD w)).toNat % 2 ^ (8 * n)))
      (u.ctx t k).st ≠ .idle → exec (.st t w) s = .next (u.nextPc t k))

/-- A store to memory changes exactly the stored bytes in a place that is not encrypted and whose words or blocks are
codewords; whatever a merge corrects or finds poisoned, it changes no byte outside the words or blocks it touches, and
a poisoned one that it does not cover keeps its bytes; one that it covers reads clean (10 R376, R379, R382). -/
def Obligations.StoreChangesItsBytes : Prop :=
  ∀ (s : State) (a : Nat) (bs : List Byte), s.mem.wf = true →
    let covers (u : EccUnit) : Prop := a ≤ u.addr ∧ u.addr + u.size ≤ a + bs.length
    (s.store a bs).mem.wf = true ∧
    ((∀ u ∈ eccUnits a bs.length, covers u ∨ (s.eccClass u).ok = true ∨
        (s.eccClass u = .poisoned ∧ s.injEcc u = none)) →
      (∀ j, (∀ u ∈ eccUnits a bs.length, j < u.addr ∨ u.addr + u.size ≤ j) →
        (s.store a bs).mem.read j = s.mem.read j) ∧
      (∀ u ∈ eccUnits a bs.length, covers u → (s.store a bs).checkDiff u = 0) ∧
      (∀ u ∈ eccUnits a bs.length, ¬ covers u → s.eccClass u = .poisoned →
        ∀ j, u.addr ≤ j → j < u.addr + u.size → (s.store a bs).mem.read j = s.mem.read j)) ∧
    (s.plain a bs.length = true →
      ∀ j, (s.store a bs).mem.read j = if a ≤ j ∧ j < a + bs.length then bs.getD (j - a) 0 else s.mem.read j)

/-- Branches (08 R282): a target that is a multiple of 8 inside the loaded program is taken, `jal` leaves PC + 8 in
sD; any other target raises IMEM and changes neither sD nor the PC. `exit` waits until the context has no
tensor instruction and no handle left, and then ends it; the end of a kernel context resumes the user context
(08 R283, 07 R257). -/
def Obligations.BranchesAndExit : Prop :=
  ∀ (s : State) (t : Nat) (w : BitVec 64),
    let k := (s.herder t).kctx
    let c := s.act t
    let tgt := fld w 43 32 * 8
    let ind := ((c.sget (fA w)).extractLsb' 0 15).toNat
    let inProg (p : Nat) : Prop := p % 8 = 0 ∧ p < 8 * c.prog.length
    let goes (i : Instr) (c' : Ctx) (p : Nat) : Prop :=
      ∃ u, exec i s = .next u ∧ u.ctx t k = { c' with pc := p, wait := .none } ∧ onlyAct t s u
    let traps (i : Instr) : Prop := exec i s = .next (s.excepts t .imem 0)
    (s.issues t w 0x48 0 = true → inProg tgt → goes (.br t w) c tgt) ∧
    (s.issues t w 0x49 0 = true → inProg tgt →
      goes (.jal t w) (c.sset (fD w) (BitVec.ofNat 64 (c.pc + 8))) tgt) ∧
    (s.issues t w 0x4A 0 = true → inProg ind → goes (.jr t w) c ind) ∧
    (s.issues t w 0x48 0 = true → ¬ inProg tgt → traps (.br t w)) ∧
    (s.issues t w 0x49 0 = true → ¬ inProg tgt → traps (.jal t w)) ∧
    (s.issues t w 0x4A 0 = true → ¬ inProg ind → traps (.jr t w)) ∧
    (s.issues t w 0x4B 0 = true →
      (∀ e ∈ (s.herder t).board ++ (s.herder t).park, e.kctx ≠ k) → (∀ o ∈ (s.herder t).out, o.kctx ≠ k) →
      ∃ u, exec (.exit t w) s = .next u ∧ (u.ctx t k).st = .idle ∧ (u.ctx t k).task = none ∧
        u.mem = s.mem ∧ u.regs = s.regs ∧
        (k = true → (u.herder t).kctx = false ∧ (u.herder t).preempted = false
          ∧ (u.herder t).board = (s.herder t).board ++ (s.herder t).park ∧ (u.herder t).park = [])) ∧
    (s.issues t w 0x4B 0 = true →
      ((∃ e ∈ (s.herder t).board ++ (s.herder t).park, e.kctx = k) ∨ (∃ o ∈ (s.herder t).out, o.kctx = k)) →
      exec (.exit t w) s = .next (s.stalls t .issue))

/-- A tensor instruction that passes its checks and meets no cause to stall takes the next ticket into ST, enters the
scoreboard with its class and its operands as they stand, and retires (07 R232 to R235, 08 R284): for `mma`,
`ldw`, `stream` FEED, COPY and DESC, `drn`, `sfu`, `red`, `topk` and `smp`. An `mma` also joins its array's queue,
or waits before it while a `dep` holds it back, and its in-cell registers become pending-full; a `drn` of in-cell
registers takes them off that list; a real-time `stream` whose deadline has passed counts its miss (09 R359). -/
def Obligations.TensorInstructionsIssue : Prop :=
  ∀ (s : State) (t : Nat) (w : BitVec 64),
    let k := (s.herder t).kctx
    let c := s.act t
    let goes (i : Instr) (cls : Cls) (e : Entry) : Prop :=
      ∃ u, exec i s = .next u ∧
        (u.ctx t k).ticket = nextTicket c.ticket ∧ (u.ctx t k).serial = c.serial + 1 ∧
        (fld w 16 12 ≠ 0 → (u.ctx t k).sget (fld w 16 12) = BitVec.ofNat 64 (nextTicket c.ticket)) ∧
        (∀ j, j ≠ fld w 16 12 → (u.ctx t k).sget j = c.sget j) ∧
        (u.ctx t k).pc = c.pc + 8 ∧
        u.mem = s.mem ∧ (∀ j, j ≠ t → u.tile j = s.tile j) ∧
        (u.herder t).board = (s.herder t).board ++
          [{ e with kctx := k, serial := c.serial, ticket := nextTicket c.ticket, pc := c.pc, cls := cls, word := w }]
    let free := s.mustStall t k c w = false
    let late := bit w 42 = true ∧ (c.sget (fld w 34 30)).toNat ≤ s.now
    let streams (i : Instr) : Prop :=
      (¬ late → goes i .rtv (streamEntry w c)) ∧
      (late → s.entry t k c.serial = none → goes i .rtv { streamEntry w c with bits := 0x80 } ∧
        ∃ u, exec i s = .next u ∧ u.regF (tilePage t oRtvDlCnt) 63 32
          = min (2 ^ 32 - 1) (s.regF (tilePage t oRtvDlCnt) 63 32 + 1))
    (s.issues t w 0x80 0 = true → free → s.mmaChecks t c w = none → goes (.mma t w) .pack (mmaEntry c w) ∧
      let p := s.mmaPass t k c w
      ∃ u, exec (.mma t w) s = .next u ∧
        ((s.tile t).holds p = false → (u.arr t p.array).queue = (s.arr t p.array).queue ++ [p]) ∧
        ((s.tile t).holds p = true → (u.tile t).pack.held = (s.tile t).pack.held ++ [p] ∧
          (u.tile t).pack.arrs = (s.tile t).pack.arrs) ∧
        (mmaIcr w = true → ∀ r ∈ mmaKeys p.gang w p.m (blockN p.twd), r ∈ (u.tile t).pack.pendFull)) ∧
    (s.issues t w 0x81 0 = true → free → s.ldwChecks t k c w = none → goes (.ldw t w) .rtv (ldwEntry c w)) ∧
    (s.issues t w 0x82 0 = true → free → s.feedChecks t k c w = none → streams (.streamFeed t w)) ∧
    (s.issues t w 0x82 1 = true → free → s.copyChecks t k c w = none → streams (.streamCopy t w)) ∧
    (s.issues t w 0x82 2 = true → free → s.descChecks t c w = none → streams (.streamDesc t w)) ∧
    (s.issues t w 0x83 0 = true → free → s.drnChecks t c w = none → goes (.drn t w) .drn (drnEntry c w) ∧
      ∃ u, exec (.drn t w) s = .next u ∧ (bit w 29 = true →
        ∀ r ∈ drnKeys w (c.tget (fld w 20 17)) (c.tget (fld w 24 21)), r ∉ (u.tile t).pack.pendFull)) ∧
    (s.issues t w 0x84 0 = true → free → s.sfuChecks t c w = none → goes (.sfu t w) .sfu (sfuEntry c w)) ∧
    (s.issues t w 0x85 0 = true → free → s.redChecks t c w = none → goes (.red t w) .chn (redEntry c w)) ∧
    (s.issues t w 0x86 0 = true → free → s.topkChecks t c w = none → goes (.topk t w) .sfu (topkEntry c w)) ∧
    (s.issues t w 0x87 0 = true → free → s.smpChecks t c w = none → goes (.smp t w) .sfu (smpEntry c w))

/-- Handles and waiting (07 R237 to R251; 08 R314 to R319): what each instruction does in its issue cycle when nothing
holds it, and when something does. -/
def Obligations.SynchronisationInstructions : Prop :=
  ∀ (s : State) (t : Nat) (w : BitVec 64),
    let k := (s.herder t).kctx
    let c := s.act t
    let h := s.herder t
    let d := fld w 16 12
    let q := fld w 19 17
    let put (f : Herder → Herder) : State := s.modHerder t f
    let older (e : Entry) : Prop := e ∈ h.board ++ h.park ∧ e.kctx = k ∧ e.serial < c.serial
    let v := (c.sget d).toNat
    let owed := ∃ o ∈ s.link.outst, ∃ n, o.what.writer = some (t, k, n) ∧ n < c.serial
    let scope := fld w 14 12
    (s.issues t w 0x90 0 = true → s.badTarget (s.tilePart t) (c.sget d) = false → 16 ≤ h.out.length →
      exec (.hput t w) s = .next (s.stalls t .issue)) ∧
    (s.issues t w 0x90 0 = true → s.badTarget (s.tilePart t) (c.sget d) = false → h.out.length < 16 →
      exec (.hput t w) s = .next ((put (fun h => { h with out := h.out ++
        [{ kctx := k, target := c.sget d, q := q, handle := c.sget (fld w 24 20), pc := c.pc, relNone := bit w 25,
           serial := c.serial }] })).moves t)) ∧
    (s.issues t w 0x90 0 = true → s.badTarget (s.tilePart t) (c.sget d) = true →
      exec (.hput t w) s = .next (s.excepts t .addr (c.sget d).toNat)) ∧
    (∀ x xs, s.issues t w 0x91 0 = true → SMap.get [] h.hq q = x :: xs →
      exec (.hget t w) s = .next ((put (fun h => { h with hq := SMap.set h.hq q xs })).after t (c.sset d x))) ∧
    (s.issues t w 0x91 0 = true → SMap.get [] h.hq q = [] → exec (.hget t w) s = .next (s.stalls t (.hget q d))) ∧
    (∀ x xs, s.issues t w 0x91 1 = true → SMap.get [] h.hq q = x :: xs →
      exec (.hgetNb t w) s
        = .next ((put (fun h => { h with hq := SMap.set h.hq q xs })).after t ((c.sset d x).pset (fld w 22 20) true))) ∧
    (s.issues t w 0x91 1 = true → SMap.get [] h.hq q = [] →
      exec (.hgetNb t w) s = .next (s.after t (c.pset (fld w 22 20) false))) ∧
    (s.issues t w 0x92 0 = true → v ≤ 0xFFFFFFC0 → (v ≤ c.ticket ∨ c.wrapped = true) →
      ((∀ e, older e → e.ticket ≠ v) → exec (.wait t w) s = .next (s.after t (c.sset (fld w 21 17)
        (if v = 0 then 0 else if 63 < c.age v then 0x101 else SMap.get 0 c.status (v % 64))))) ∧
      ((∃ e, older e ∧ e.ticket = v) → exec (.wait t w) s = .next (s.stalls t (.ticket v (fld w 21 17))))) ∧
    (s.issues t w 0x92 0 = true → 0xFFFFFFC0 < v ∨ (c.ticket < v ∧ c.wrapped = false) →
      exec (.wait t w) s = .next (s.excepts t .ticket 0)) ∧
    (s.issues t w 0x92 1 = true → (∀ e, ¬ older e) → exec (.waitAll t w) s = .next (s.moves t)) ∧
    (s.issues t w 0x92 1 = true → (∃ e, older e) → exec (.waitAll t w) s = .next (s.stalls t (.classes 31 c.serial))) ∧
    (s.issues t w 0x92 2 = true → (∀ e, older e → (fld w 28 24).testBit e.cls.bit = false) →
      exec (.waitCls t w) s = .next (s.moves t)) ∧
    (s.issues t w 0x92 2 = true → (∃ e, older e ∧ (fld w 28 24).testBit e.cls.bit = true) →
      exec (.waitCls t w) s = .next (s.stalls t (.classes (fld w 28 24) c.serial))) ∧
    (s.issues t w 0x93 0 = true → (scope = 1 ∨ ((∀ e, ¬ older e) ∧ (scope < 4 ∨ ¬ owed))) →
      exec (.fence t w) s = .next (s.moves t)) ∧
    (s.issues t w 0x93 0 = true → ((scope ≠ 1 ∧ ∃ e, older e) ∨ (4 ≤ scope ∧ owed)) →
      exec (.fence t w) s = .next (s.stalls t (.fence scope c.serial))) ∧
    (s.issues t w 0x94 0 = true → (∀ e, older e → (fld w 16 12).testBit e.cls.bit = false) →
      exec (.dep t w) s = .next (s.moves t)) ∧
    (s.issues t w 0x94 0 = true → (∃ e, older e ∧ (fld w 16 12).testBit e.cls.bit = true) → c.deps.length < 4 →
      ∃ prods, exec (.dep t w) s = .next (s.after t { c with deps := c.deps ++ [⟨c.serial, fld w 21 17, prods⟩] }) ∧
        ∀ n, n ∈ prods ↔ ∃ e, older e ∧ (fld w 16 12).testBit e.cls.bit = true ∧ e.serial = n) ∧
    (s.issues t w 0x94 0 = true → (∃ e, older e ∧ (fld w 16 12).testBit e.cls.bit = true) → 4 ≤ c.deps.length →
      exec (.dep t w) s = .next (s.stalls t .issue)) ∧
    (s.issues t w 0x95 0 = true → v ≤ s.now →
      exec (.atCount t w) s = .next (s.after t (c.pset (fld w 19 17) true))) ∧
    (s.issues t w 0x95 0 = true → s.now < v →
      exec (.atCount t w) s
        = .next (s.setCtx t k { c.pset (fld w 19 17) false with wait := .time v }))

/-- The system instructions at level K or F (08 R320, 09 R357): `uget` and `uput` move a register between the
contexts; `ucancel` discards the preempted user task's work on the tile, `rqsc` quiesces the user streams and
waits, `rres` lets them go on. The last three do nothing while no user context is preempted. -/
def Obligations.SystemInstructions : Prop :=
  ∀ (s : State) (t : Nat) (w : BitVec 64),
    let k := (s.herder t).kctx
    let c := s.act t
    let idle := (s.herder t).preempted = false
    let streams (u : State) (b : Bool) : Prop := ∀ y ∈ (u.tile t).retr.strms, y.kctx = false → y.quiesced = b
    (s.issues t w 0xC0 0 = true →
      exec (.uget t w) s = .next (s.after t (c.sset (fD w) ((s.herder t).user.sget (fA w))))) ∧
    (s.issues t w 0xC1 0 = true →
      exec (.uput t w) s = .next ((s.setCtx t false ((s.ctx t false).sset (fD w) (c.sget (fA w)))).nextPc t k)) ∧
    (s.issues t w 0xC2 0 = true → idle → exec (.ucancel t w) s = .next (s.moves t)) ∧
    (s.issues t w 0xC2 0 = true → k = true → (s.herder t).preempted = true →
      ∃ u, exec (.ucancel t w) s = .next u ∧ (u.herder t).user.st = .idle ∧ (u.herder t).user.task = none ∧
        (u.herder t).preempted = false ∧ (u.herder t).kern.pc = c.pc + 8 ∧
        (∀ e ∈ (u.herder t).board ++ (u.herder t).park, e.kctx = false → e.phase ≠ .issued) ∧
        (∀ o ∈ (u.herder t).out, o.kctx = true) ∧ (u.tile t).pack.parked = [] ∧
        ∀ r x, (s.herder t).user.task = some r → u.pkt r.ring r.count = some x → x.result = .cancelled) ∧
    (s.issues t w 0xC3 0 = true → idle → exec (.rqsc t w) s = .next (s.moves t)) ∧
    (s.issues t w 0xC3 0 = true → (s.herder t).preempted = true →
      ∃ u, exec (.rqsc t w) s = .next u ∧ (u.ctx t k).wait = .quiesce ∧ streams u true ∧ u.mem = s.mem ∧
        u.regs = s.regs) ∧
    (s.issues t w 0xC4 0 = true → idle → exec (.rres t w) s = .next (s.moves t)) ∧
    (s.issues t w 0xC4 0 = true → (s.herder t).preempted = true →
      ∃ u, exec (.rres t w) s = .next u ∧ (u.ctx t k).pc = c.pc + 8 ∧ streams u false ∧
        u.mem = s.mem ∧ u.regs = s.regs)

/-- s0 and p0 read constants and discard writes, and an instruction whose predicate (a p-register and a negate bit)
evaluates false retires as a no-op, for every instruction of the opcode map and for words outside it: the PC moves on, and it takes no
scoreboard entry and no ticket and raises no exception (07 R225). -/
def Obligations.FalsePredicateSkips : Prop :=
  (∀ (c : Ctx) (v : Word) (b : Bool), c.sget 0 = 0 ∧ c.pget 0 = true ∧ c.sset 0 v = c ∧ c.pset 0 b = c) ∧
  ∀ (s : State) (t : Nat) (w : BitVec 64), ∀ r ∈ herderRows t w,
    let skipped : Prop := exec r.1 s = .next (s.moves t) ∧ onlyAct t s (s.moves t) ∧
      (s.moves t).act t = { s.act t with pc := (s.act t).pc + 8, wait := .none }
    (s.skips t w r.2.1 r.2.2 = true → skipped) ∧
    (s.atWord t w = true → s.injLockstep t = false → (s.act t).pget (fld w 10 8) = bit w 11 →
      (opFields (fld w 7 0) = none ∨ (fld w 7 0 = r.2.1 ∧ noForm w = true)) → skipped)

/-- Precise exceptions of issue (07 R223, R227, R258; 08 R269, R282): an illegal word, a system-class instruction at
level U, and a fetch past the program halt the context with the exception recorded and no other effect, for every
instruction of the opcode map; past the last word of a full memory the recorded offset is 0. -/
def Obligations.IssueExceptions : Prop :=
  ∀ (s : State) (t : Nat) (w : BitVec 64),
    (∀ r ∈ herderRows t w, s.atWord t w = true → (s.act t).pget (fld w 10 8) ≠ bit w 11 →
      (fld w 7 0 = r.2.1 ∨ opFields (fld w 7 0) = none) → illegalWord w = true → exec r.1 s = .next (s.excepts t .illegal 0)) ∧
    (∀ r ∈ herderRows t w, s.atWord t w = true → (s.act t).pget (fld w 10 8) ≠ bit w 11 → fld w 7 0 = r.2.1 →
      opForm w = r.2.2 → illegalWord w = false → 0xC0 ≤ fld w 7 0 → (s.act t).level = .u →
      exec r.1 s = .next (s.excepts t .priv 0)) ∧
    (∀ r ∈ herderRows t w, s.tileRuns t = true → (s.act t).st = .run → (s.act t).wait = .none →
      ((s.herder t).kctx = true ∨ (s.herder t).preempted = false) → (s.act t).prog[(s.act t).pc / 8]? = none →
      exec r.1 s = .next (s.exceptsAt t ((s.act t).pc % 2 ^ 15) .imem 0))

/-- What taking a precise exception leaves (07 R258, R260, R263 to R265): HRD_EXC holds CODE, PRECISE, LEVEL, VALID and
ticket 0, HRD_EXC_PC the offset of the instruction, HRD_EXC_INFO the cause's word; the context is halted, its PC
and registers stand as they were, HRD_STATUS.STATE reads HALTED_EXC and the front end is to be told; memory, the other
tiles and every other register are unchanged. -/
def Obligations.ExceptionEntry : Prop :=
  ∀ (s : State) (t : Nat) (x : Exc) (info : Nat), (s.act t).st = .run → s.clash t (s.herder t).kctx = false →
    let k := (s.herder t).kctx
    let u := s.excepts t x info
    let e := u.reg (tilePage t oHrdExc)
    fld e 7 0 = x.code ∧ fld e 8 8 = 1 ∧ fld e 10 9 = (s.act t).level.code ∧ fld e 11 11 = 1 ∧ fld e 47 16 = 0 ∧
    u.reg (tilePage t oHrdExcPc) = BitVec.ofNat 64 (s.act t).pc ∧
    u.reg (tilePage t oHrdExcInfo) = BitVec.ofNat 64 info ∧
    u.ctx t k = { s.act t with st := .haltedExc, wait := .none, signal := true, excHalt := true, excCode := x.code } ∧
    (t < 1152 → fld (u.regView (tilePage t oHrdStatus)) 2 0 = 6) ∧
    u.ctx t (!k) = s.ctx t (!k) ∧ u.mem = s.mem ∧ (∀ j, j ≠ t → u.tile j = s.tile j) ∧
    (∀ a, a ≠ tilePage t oHrdExc → a ≠ tilePage t oHrdExcPc → a ≠ tilePage t oHrdExcInfo → u.reg a = s.reg a) ∧
    u.pending = s.pending ∧ u.host = s.host ∧ u.sec = s.sec ∧ u.fe = s.fe ∧ u.link = s.link

/-- Precise exceptions of operands: denied, misaligned or unreachable scalar and tensor-register accesses, a `pcvt` between
formats it does not convert, and the first failing check of every tensor instruction (08 R271, R276, R279, R280,
R285). -/
def Obligations.OperandExceptions : Prop :=
  ∀ (s : State) (t : Nat) (w : BitVec 64),
    let k := (s.herder t).kctx
    let c := s.act t
    let n := 2 ^ fld w 22 21
    let e := (c.aget (fld w 20 17) + (w.extractLsb' 32 32).signExtend 48).toNat
    let x := aliasOf t e
    let traps (i : Instr) (x : Exc) (info : Nat) : Prop := exec i s = .next (s.excepts t x info)
    let free := s.mustStall t k c w = false
    (s.issues t w 0x22 0 = true → e % 32 ≠ 0 → traps (.tld t w) .align e) ∧
    (s.issues t w 0x23 0 = true → e % 32 ≠ 0 → traps (.tst t w) .align e) ∧
    (s.issues t w 0x22 0 = true → e % 32 = 0 → inWindow t e 32 = false → traps (.tld t w) .addr e) ∧
    (s.issues t w 0x23 0 = true → e % 32 = 0 → inWindow t e 32 = false → traps (.tst t w) .addr e) ∧
    (s.issues t w 0x40 0 = true → s.regDenied t c.level x false = false → e % n ≠ 0 → traps (.ld t w) .align e) ∧
    (s.issues t w 0x41 0 = true → s.regDenied t c.level x false = false → e % n ≠ 0 → traps (.lds t w) .align e) ∧
    (s.issues t w 0x42 0 = true → s.regDenied t c.level x true = false → e % n ≠ 0 → traps (.st t w) .align e) ∧
    (s.issues t w 0x40 0 = true → s.regDenied t c.level x false = true → traps (.ld t w) .priv 0) ∧
    (s.issues t w 0x41 0 = true → s.regDenied t c.level x false = true → traps (.lds t w) .priv 0) ∧
    (s.issues t w 0x42 0 = true → s.regDenied t c.level x true = true → traps (.st t w) .priv 0) ∧
    (s.issues t w 0x41 0 = true → e % n = 0 → regionOf x = .none → traps (.lds t w) .addr e) ∧
    (s.issues t w 0x42 0 = true → e % n = 0 → regionOf x = .none → traps (.st t w) .addr e) ∧
    (s.issues t w 0x40 0 = true → e % n = 0 → regionOf x = .none → traps (.ld t w) .addr e) ∧
    (s.issues t w 0x33 0 = true →
      ((Fmt.ofCode (fld w 35 32)).all Fmt.isQuire = true ∨ (Fmt.ofCode (fld w 39 36)).all Fmt.isQuire = true ∨
        ∃ a b, Fmt.ofCode (fld w 35 32) = some a ∧ Fmt.ofCode (fld w 39 36) = some b ∧ a.isIeee = true ∧
          b.isPosit = false ∧ a ≠ b) →
      traps (.pcvt t w) .format 0) ∧
    (∀ y i, s.issues t w 0x80 0 = true → free → s.mmaChecks t c w = some (y, i) → traps (.mma t w) y i) ∧
    (∀ y i, s.issues t w 0x81 0 = true → free → s.ldwChecks t k c w = some (y, i) → traps (.ldw t w) y i) ∧
    (∀ y i, s.issues t w 0x82 0 = true → free → s.feedChecks t k c w = some (y, i) → traps (.streamFeed t w) y i) ∧
    (∀ y i, s.issues t w 0x82 1 = true → free → s.copyChecks t k c w = some (y, i) → traps (.streamCopy t w) y i) ∧
    (∀ y i, s.issues t w 0x82 2 = true → free → s.descChecks t c w = some (y, i) → traps (.streamDesc t w) y i) ∧
    (∀ y i, s.issues t w 0x83 0 = true → free → s.drnChecks t c w = some (y, i) → traps (.drn t w) y i) ∧
    (∀ y i, s.issues t w 0x84 0 = true → free → s.sfuChecks t c w = some (y, i) → traps (.sfu t w) y i) ∧
    (∀ y i, s.issues t w 0x85 0 = true → free → s.redChecks t c w = some (y, i) → traps (.red t w) y i) ∧
    (∀ y i, s.issues t w 0x86 0 = true → free → s.topkChecks t c w = some (y, i) → traps (.topk t w) y i) ∧
    (∀ y i, s.issues t w 0x87 0 = true → free → s.smpChecks t c w = some (y, i) → traps (.smp t w) y i)

/-! ## The pack -/

/-- Loading, starting and streaming a pass (03 R85 to R97): the load unit fills the loading slot with the block's
columns as the weight store holds them, the pass of the loading slot starts to stream when the vectors of all
its streams are at hand, one vector of each stream enters at a time, and after its last one the pass leaves the
streaming slot; a re-run loads and streams before any queued pass; a FILL pass takes a gap; a dry feeder freezes the
array and is counted. -/
def Obligations.PassesLoadAndStream : Prop :=
  ∀ (s : State) (t a : Nat) (p : Pass), s.enginesRun t = true →
    let r := s.arr t a
    let f := p.twd.fmt.getD .P8
    let n := blockN p.twd
    let kk := blockK p.twd
    let addr (j : Nat) : Nat := ((p.twd.base : Int) + (j : Int) * p.twd.str.getD 0 0).toNat
    let readable := ∀ j, j < n → s.clean (addr j) (rowBytes f kk) = true ∧ ∃ x o, regionOf (addr j) = .sram x o
    let loads (i : Instr) : Prop :=
      ∃ u, exec i s = .next u ∧ u.mem = s.mem ∧
        ((u.arr t a).loading = some { p with loaded := true, block := some ⟨p.twd.base, f, n, kk, p.gang,
          (List.range n).map (fun j => if kk = 0 then []
            else unpackRow f (s.mem.readN (addr j) (rowBytes f kk)) kk)⟩ }) ∧
        (u.arr t a).front = r.front ∧ ∀ q ∈ (u.arr t a).queue ++ (u.arr t a).reruns, q.same p = false
    let enters (i : Instr) (front : Option Block) : Prop :=
      ∃ u p', exec i s = .next u ∧ u.mem = s.mem ∧ p'.same p = true ∧ p'.entered = p.entered + 1 ∧ p'.block = front ∧
        p'.flight.length = p.flight.length + 1 ∧ (u.arr t a).front = front ∧
        (p.m ≤ p.entered + 1 → (u.arr t a).streaming = none ∧ p' ∈ (u.arr t a).flying) ∧
        (p.entered + 1 < p.m → (u.arr t a).streaming = some p') ∧
        (p.rerun = false → ∀ k ∈ p.streams a,
          SMap.get [] (u.tile t).pack.feed k = (SMap.get [] (s.tile t).pack.feed k).drop 1)
    let scalesOk := (s.tile t).pack.sclPend = [] ∧
      (p.channel = true → p.rerun = false → ∀ j, j < n → s.cwBad (sclReg t p a j) = false)
    (s.frozen t a = false → r.loading = none → r.reruns = [] → r.queue.find? (fun q => !r.reuses q) = some p →
      readable → loads (.passLoadStart t a)) ∧
    (s.frozen t a = false → r.loading = none → r.reruns.head? = some p → readable → loads (.rerunStart t a)) ∧
    (s.frozen t a = false → r.streaming = none → r.nextStart = some (p, true) → s.vectorReady t a p = true → scalesOk →
      enters (.passStreamStart t a) p.block) ∧
    (s.frozen t a = false → r.streaming = none → r.nextStart = some (p, false) → s.vectorReady t a p = true → scalesOk →
      enters (.passStreamStart t a) r.front) ∧
    (s.frozen t a = false → r.streaming = none → (∀ q l, r.nextStart = some (q, l) → s.vectorReady t a q = false) →
      r.reruns = [] → (∀ l, r.loading = some l → l.rerun = false) → bit (s.reg (tilePage t oPackCfg)) 2 = true →
      r.queue.find? (s.fillOk t a) = some p → scalesOk → enters (.fillPassStart t a) r.front) ∧
    (s.frozen t a = false → r.streaming = some p → s.vectorReady t a p = true →
      ∃ u, exec (.vectorEntry t a) s = .next u ∧ u.mem = s.mem ∧
        (p.m ≤ p.entered + 1 → (u.arr t a).streaming = none ∧
          ∃ p', (u.arr t a).flying = r.flying ++ [p'] ∧ p'.same p = true ∧ p'.entered = p.entered + 1) ∧
        (p.entered + 1 < p.m →
          ∃ p', (u.arr t a).streaming = some p' ∧ p'.same p = true ∧ p'.entered = p.entered + 1)) ∧
    (r.streaming = some p → s.vectorReady t a p = false → p.gang = 0 →
      ∃ u, exec (.vectorEntry t a) s = .next u ∧ u.tiles = s.tiles ∧ u.mem = s.mem ∧
        u.regF (tilePage t (oStallCnt (a % 4))) 15 0
          = min 65535 (s.regF (tilePage t (oStallCnt (a % 4))) 15 0 + 1))

/-- A pass drains and reports (03 R86 to R94, R101; 04 R123 to R137; 15 R580, R581, R585): a vector leaves the rows in
the order it entered, unless a dry companion or an in-cell register not yet moved out freezes the array, or both draining
slots are held; a pass whose vectors all passed their comparison adds its flags to the tile's and completes its
instruction; one with failed vectors is re-run for those vectors, and a second failure is a Rust error and marks the
tile. -/
def Obligations.PassesDrainAndReport : Prop :=
  ∀ (s : State) (t a : Nat) (p : Pass), s.enginesRun t = true →
    let r := s.arr t a
    (∀ fl rest b, r.draining = some p → p.flight = fl :: rest → p.block = some b → s.dryFeeders t a = [] →
      s.dryScales t a p b.n = [] → s.icrBusy t a fl.m p b.n = [] → r.drainFull p rest = false →
      ∃ u, exec (.columnDrainVector t a) s = .next u ∧
        (∀ q ∈ (u.arr t a).flying ++ (u.arr t a).streaming.toList, q.same p = true →
          q.flight = rest ∧ q.drained = p.drained + 1) ∧
        (mmaIcr p.word = true ∨ (s.eccW = [] ∧ s.eccB = [] ∧ s.sec.inj.armed = false) →
          ∃ q ∈ (u.arr t a).flying ++ (u.arr t a).streaming.toList, q.same p = true)) ∧
    (∀ fl rest b, r.draining = some p → p.flight = fl :: rest → p.block = some b →
      (s.dryScales t a p b.n ≠ [] ∨ s.icrBusy t a fl.m p b.n ≠ []) →
      ∃ u, exec (.columnDrainVector t a) s = .next u ∧ u.mem = s.mem ∧ u.frozen t a = true ∧
        (u.arr t a).passes = r.passes) ∧
    (∀ e rest, s.frozen t a = false → r.flying = p :: rest → p.flight = [] → p.failed = [] → p.fault = none →
      s.entry t p.kctx p.serial = some e →
      ∃ u, exec (.passReport t a) s = .next u ∧ u.mem = s.mem ∧ u.entry t p.kctx p.serial = none ∧
        (∀ q ∈ (u.arr t a).passes, q.same p = false) ∧
        u.reg (tilePage t oNumFlags) = s.reg (tilePage t oNumFlags) ||| p.flags.word ∧
        ((s.ctx t p.kctx).age e.ticket ≤ 63 →
          SMap.get 0 (u.ctx t p.kctx).status (e.ticket % 64) = e.statusWord)) ∧
    (∀ rest q, s.frozen t a = false → r.flying = p :: rest → p.flight = [] → p.failed ≠ [] → p.rerun = true →
      s.tilePart t = some q → q < 16 → (s.part q).st = .normal → s.sec.crimson = false →
      ∃ u, exec (.passReport t a) s = .next u ∧ u.entry t p.kctx p.serial = none ∧ (u.part q).st = .drain ∧
        (u.part q).retire = true ∧
        u.regF (tilePage t oTileCnt) 47 32 = min 65535 (s.regF (tilePage t oTileCnt) 47 32 + 1)) ∧
    (∀ rest, s.frozen t a = false → r.flying = p :: rest → p.flight = [] → p.failed ≠ [] → p.rerun = false →
      (s.ctx t p.kctx).st ≠ .draining →
      ∃ u p', exec (.passReport t a) s = .next u ∧ u.mem = s.mem ∧
        (u.arr t a).reruns = (r.reruns.filter (fun q => !q.same p)) ++ [p'] ∧ p'.same p = true ∧ p'.rerun = true ∧
        p'.only = p.failed ∧ p'.failed = [] ∧ p'.entered = 0 ∧ p'.block = none ∧ p'.replay = p.replay ∧
        u.regF (tilePage t oTileCnt) 31 16 = min 65535 (s.regF (tilePage t oTileCnt) 31 16 + 1))

/-- The drain's effect on a 32-bit target (04 R128, R136): the partial is added and the sum clipped to 32 bits, with
OF and NX when it is; on a quire the sum is exact, saturates at ±(2^(16n−1) − 1), and NaR stays NaR (02 R46). -/
def Obligations.DrainAddsToTargets : Prop :=
  (∀ (old : Nat) (i : Int),
    let x := toSigned 32 old + i
    addTarget .S32 old (some ⟨i, 0⟩) = some ⟨ofSigned 32 (max (-2 ^ 31) (min (2 ^ 31 - 1) x)),
      { of := decide (x < -2 ^ 31 ∨ 2 ^ 31 - 1 < x), nx := decide (x < -2 ^ 31 ∨ 2 ^ 31 - 1 < x) }⟩) ∧
  (∀ (f : Fmt) (old : Nat) (i q : Int), f.isQuire = true →
    let n := f.quireOf
    quireInt n old = some q →
    let lim : Int := 2 ^ (16 * n - 1) - 1
    addTarget f old (some ⟨i, quireLsb n⟩) = some ⟨ofSigned (16 * n) (max (-lim) (min lim (q + i))),
      { of := decide (q + i < -lim ∨ lim < q + i), nx := decide (q + i < -lim ∨ lim < q + i) }⟩) ∧
  (∀ (f : Fmt) (old : Nat) (v : Option Dy), f.isQuire = true → quireInt f.quireOf old = none →
    addTarget f old v = some ⟨quireNaR f.quireOf, {}⟩) ∧
  (∀ (f : Fmt) (old : Nat), f.isQuire = true → addTarget f old none = some ⟨quireNaR f.quireOf, {}⟩)

/-- Gang mode, delayed configuration and abandoned passes (03 R84, 08 R292, 11 R431): a written GANG takes effect when
all four arrays are idle, the oldest delayed QNT_CFG or ARR_PACK_CFG write takes effect once every `mma` issued before
it has reached its array, and after SIT a
pass that has not reported leaves its array and the scoreboard. -/
def Obligations.PackConfiguration : Prop :=
  ∀ (s : State) (t a : Nat),
    (∀ g, (s.tile t).pack.gangPend = some g → (s.tile t).pack.held = [] →
      (∀ x ∈ (s.tile t).pack.arrs, x.2.passes = []) →
      ∃ u, exec (.gangModeApply t) s = .next u ∧ onlyTile t s u ∧
        u.tile t = { s.tile t with pack := { (s.tile t).pack with gang := g, gangPend := none } }) ∧
    (∀ c cs, (s.tile t).pack.cfgWrites = c :: cs →
      (∀ p ∈ (s.tile t).pack.held, (if p.kctx then c.serialK else c.serialU) ≤ p.serial) →
      ∃ u, exec (.configWriteApply t) s = .next u ∧ u.reg c.addr = c.value ∧ (u.tile t).pack.cfgWrites = cs ∧
        (∀ x, x ≠ c.addr → u.reg x = s.reg x) ∧ u.mem = s.mem ∧
        (u.tile t).pack.gangPend = if c.addr = tilePage t oPackCfg then some (fld c.value 1 0)
          else (s.tile t).pack.gangPend) ∧
    (s.fe.sit.on = true →
      ∃ u, exec (.sitPassAbandon t a) s = .next u ∧ (u.arr t a).passes = [] ∧ u.mem = s.mem ∧
        ∀ p ∈ (s.arr t a).passes, u.entry t p.kctx p.serial = none)

/-! ## Chains -/

/-- Running-sum and top-k chains (04 R139 to R149, 08 R309, R311): a handed-over MID or TAIL gains its stage; a HEAD
with a local next stage reads and sends its elements beat by beat and completes, or waits while the next tile's chain
buffer has no place; a stage arms when the older instructions that target its elements have completed; an arriving
beat of an armed stage is added to the stage's elements in place, and goes on; a total beat of the return leg is written
in place, and goes on; the last list beat of a TAIL merges the two lists and writes the first k entries. -/
def Obligations.ChainStagesAndBeats : Prop :=
  ∀ (s : State) (t : Nat), s.enginesRun t = true →
    let mem (i : Instr) (m : Memory) (p : State → Prop) : Prop := ∃ u, exec i s = .next u ∧ u.mem = m ∧ p u
    let here (a n : Nat) : Prop := s.clean a n = true ∧ inWindow t a n = true
    let room (g : Stage) (n : Nat) : Prop := s.beatsFor (tileOf g.nlo) + n ≤ 32
    let next (b : Beat) (g : Stage) (q : Beat → Bool) : Prop :=
      s.chainsStill = true ∧ (s.tile t).held = [] ∧ s.beats.find? (fun x => x.dst == t && q x) = some b ∧
      (s.tile t).chain.drops = [] ∧ (s.tile t).chain.stages.find? (Stage.takes b) = some g ∧
      s.paused t g.kctx = false ∧ b.srcDev = none ∧ b.poison = false
    (∀ e, (s.herder t).nextOf (fun e => e.cls == .chn) = some e → s.paused t e.kctx = false →
      let g := s.stageOf e
      (g.role ≠ 1 → (g.role = 3 ∨ g.ndev = none) →
        mem (.redHandover t) s.mem (fun u => (u.tile t).chain.stages = (s.tile t).chain.stages ++ [g] ∧
          u.beats = s.beats)) ∧
      (g.role = 1 → g.ret = false → g.list = false → g.ndev = none → s.findStage t g.kctx g.serial = none →
        here g.lo (g.hi - g.lo) → room g g.beats →
        mem (.redHandover t) s.mem (fun u => (u.tile t).chain.stages = (s.tile t).chain.stages ∧
          u.entry t e.kctx e.serial = none ∧
          u.beats = s.beats ++ (List.range g.beats).map (fun i =>
            g.forward t i (some (s.mem.readN (g.lo + 64 * i) (min 64 (g.hi - (g.lo + 64 * i)))))))) ∧
      (g.role = 1 → g.ndev = none → 0 < g.beats → 32 ≤ s.beatsFor (tileOf g.nlo) →
        s.findStage t g.kctx g.serial = none →
        mem (.redHandover t) s.mem (fun u => (u.tile t).chain.stages = (s.tile t).chain.stages ++ [g] ∧
          u.beats = s.beats))) ∧
    (∀ g, (s.tile t).chain.stages.find? (fun g => !g.armed && g.role != 1 && !s.paused t g.kctx && s.stageFree t g)
        = some g → g.list = false →
      mem (.chainStageArm t) s.mem (fun u => u.beats = s.beats ∧
        (u.tile t).chain.stages = (s.tile t).chain.stages.map (fun x =>
          if x.is g.kctx g.serial then { x with armed := true } else x))) ∧
    (∀ b g, next b g (fun b => !b.ret && !b.list) → b.ret = false → g.armed = true →
      let a := g.lo + 64 * g.next
      let n := min 64 (g.hi - a)
      let r := addElems g.fmt (n / (g.fmt.width / 8)) (s.mem.readN a n) b.bytes
      let g1 := { g with from_ := some (b.srcDev, b.src) }
      here a n → (g.role = 2 → g.ndev = none ∧ room g 1) →
        mem (.chainBeatArrive t) (s.mem.writeN a r.1) (fun u =>
          u.reg (tilePage t oNumFlags) = s.reg (tilePage t oNumFlags) ||| r.2.word ∧
          u.beats = s.beats.erase b ++ (if g.role = 2 then [g1.forward t g.next (some r.1)]
            else if g.ret then [g1.back t g.next (some r.1)] else []))) ∧
    (∀ b g, next b g (fun b => b.ret) → b.ret = true →
      (g.role = 1 ∨ (g.retNext < g.next ∧ ∀ x, g.from_ = some x → x.1 = none)) →
      let a := g.lo + 64 * g.retNext
      here a (b.bytes.take (g.hi - a)).length →
        mem (.chainReturnBeat t) (s.mem.writeN a (b.bytes.take (g.hi - a))) (fun u => u.beats = s.beats.erase b ++
          (if g.role = 1 then [] else [g.back t g.retNext (some b.bytes)]))) ∧
    (∀ b g, next b g (fun b => b.list) → b.ret = false → b.list = true → g.armed = true → g.role = 3 →
      g.next + 1 = g.beats → g.gotBad = false → g.bad = none →
      (s.tile t).chain.stages.find? (Stage.is g.kctx g.serial) = some g →
      let n := (g.hi - g.lo) / 8
      let all := g.own ++ g.got ++ listWords (b.bytes.length / 8) b.bytes
      let l := (tkPad g.fmt n (tkSelect g.fmt n (all.map (tkOfWord g.fmt)))).map (tkWord g.fmt)
      here g.lo (listBytes l).length →
        mem (.topkListBeat t) (s.mem.writeN g.lo (listBytes l)) (fun u => u.beats = s.beats.erase b))

/-- The sum of a beat (02 R46, 04 R136): element by element, S32 elements clip to 32 bits and quires add exactly with
saturation; the result has as many bytes as elements of the format. -/
def Obligations.BeatSums : Prop :=
  (∀ (f : Fmt) (n : Nat) (xs ys : List Byte), (addElems f n xs ys).1.length = n * (f.width / 8)) ∧
  (∀ (n : Nat) (xs ys : List Byte), xs.length = 4 * n → ys.length = 4 * n → ∀ i, i < n →
    let at4 (l : List Byte) : Int := toSigned 32 (ofBytesLE ((l.drop (4 * i)).take 4))
    at4 (addElems .S32 n xs ys).1 = max (-2 ^ 31) (min (2 ^ 31 - 1) (at4 xs + at4 ys)))

/-! ## The drain path and the SFU -/

/-- `drn` (05 R164 to R182; 08 R300 to R302; 13 R519 to R526): its control block and channel records are read and checked when
it is handed over, and a rejected one ends it with DCB or COMPLEMENT; a group reads its elements, sends each
through the stages and writes the packed results; the finish counts the digest and the drift; the completion adds
the flags, sets the status and frees the drain; a delayed TIL_DIG_CFG write takes effect between drains. -/
def Obligations.DrnHandoverGroupsCompletion : Prop :=
  ∀ (s : State) (t : Nat),
    (∀ e, s.enginesRun t = true → (s.herder t).nextOf (fun e => e.cls == .drn) = some e → s.paused t e.kctx = false →
      (s.herder t).begunOf .drn = false →
      e.dtd.remote = false →
      let a := e.a1.toNat
      let v := ofBytesLE (s.mem.readN a 64)
      let d := Dcb.ofNat v
      let o := tileBase t + d.chrecOff
      let words := (List.range e.dChans).map (fun j => ofBytesLE (s.mem.readN (o + 16 * j) 16))
      let recs := words.map ChRec.ofNat
      inWindow t a 64 = true → s.clean a 64 = true → chrecReject d e.dChans = none → s.clean o (16 * e.dChans) = true →
      let ends (x : Exc) (i : Nat) : Prop := s.entry t e.kctx e.serial = some e → e.fault = none →
        ∃ u y, exec (.drnHandover t) s = .next u ∧ (u.tile t).drn = (s.tile t).drn ∧
          u.entry t e.kctx e.serial = some y ∧ y.fault = some (x, i) ∧ y.phase = .done
      (s.dcbReject t e d recs = none → dcbComplement d recs = none →
        ∃ u, exec (.drnHandover t) s = .next u ∧ onlyTile t s u ∧ (u.tile t).drn = (s.tile t).drn ++
          [{ kctx := e.kctx, serial := e.serial, dcb := v, recs := words, stats := List.replicate e.dChans {},
             dev := e.dtd.devid }]) ∧
      (∀ i, s.dcbReject t e d recs = some i → ends .dcb i) ∧
      (∀ i, s.dcbReject t e d recs = none → dcbComplement d recs = some i → ends .complement i)) ∧
    (∀ d e, s.drnTurn t (fun d e => decide (d.next < e.dGroups)) = some (d, e) →
      (e.dtd.remote = false ∨ d.redrain = true) →
      let i0 := d.next * e.dRate
      let sz := e.dSrc.width / 8
      let is := (List.range (min e.dRate (e.dElems - i0))).map (i0 + ·)
      let src (i : Nat) : Nat := (e.dts.rowAddr (i / e.dChans)).toNat + i % e.dChans * sz
      let key (i : Nat) : Nat := drnKey e.word (i / e.dChans) (i % e.dChans)
      let val (i : Nat) : Nat :=
        if e.dIcr then (if d.redrain then SMap.get 0 d.hold i else (SMap.get 0 (s.tile t).pack.icr (key i)).toNat)
        else ofBytesLE (s.mem.readN (src i) sz)
      let r := (is.map (fun i => (i, val i))).foldl
        (fun (r : List Nat × DrnRun) iw => (r.1 ++ [(r.2.elem e iw.1 iw.2).1], (r.2.elem e iw.1 iw.2).2)) ([], d)
      let segs := if d.redrain then [((Dcb.ofNat d.dcb).fbDest + 2 * i0, packRow .P16 r.1)]
        else drnSegs d.out (e.dtd.n 0) e.dtd.rows (fun j => (e.dtd.rowAddr j).toNat) d.lastWord i0 r.1
      (e.dIcr = false → ∀ i ∈ is, s.clean (src i) sz = true ∧ inWindow t (src i) sz = true) →
      (e.dIcr = true → ∀ i ∈ is, ∀ j ∈ is, key i = key j → i = j) →
      (∀ g ∈ segs, s.plain g.1 g.2.length = true) →
        ∃ u, exec (.drainGroup t) s = .next u ∧ u.regs = s.regs ∧
          u.mem = segs.foldl (fun m g => m.writeN g.1 g.2) s.mem ∧
          (e.dIcr = true → d.redrain = false → ∀ i ∈ is, SMap.find (u.tile t).pack.icr (key i) = none) ∧
          ∀ x ∈ (u.tile t).drn, x.kctx = d.kctx → x.serial = d.serial →
            x.next = d.next + 1 ∧ x.flags = r.2.flags ∧ x.stats = r.2.stats ∧ x.nar = r.2.nar) ∧
    (∀ d e, s.drnTurn t (fun d e => decide (e.dGroups ≤ d.next) && !d.finished) = some (d, e) →
      let b := Dcb.ofNat d.dcb
      let cnt := tilePage t oDriftCnt
      ((b.driftAct = 0 ∨ d.redrain = true) → (b.stats = false ∨ d.redrain = true) →
        bit (s.reg (tilePage t oDigCfg)) 0 = false →
        ∃ u, exec (.drnFinish t) s = .next u ∧ onlyTile t s u ∧
          ∀ x ∈ (u.tile t).drn, x.kctx = d.kctx → x.serial = d.serial → x.finished = true) ∧
      (let c := s.reg (tilePage t oDigCfg);
        bit c 0 = true → (b.driftAct = 0 ∨ d.redrain = true) → (b.stats = false ∨ d.redrain = true) →
        s.plain (tileBase t + fld c 20 5 * 32 + 32 * (s.regF (tilePage t oDigStat) 31 0 % 2 ^ fld c 4 1)) 32 = true →
        ∃ u, exec (.drnFinish t) s = .next u ∧
          u.regF (tilePage t oDigStat) 31 0 = (s.regF (tilePage t oDigStat) 31 0 + 1) % 2 ^ 32) ∧
      (b.driftAct = 1 → d.redrain = false → d.verdict ≠ (false, false) → b.stats = false →
        bit (s.reg (tilePage t oDigCfg)) 0 = false →
        ∃ u, exec (.drnFinish t) s = .next u ∧ u.regF cnt 31 0 = min (2 ^ 32 - 1) (s.regF cnt 31 0 + 1) ∧
          ∀ x ∈ (u.tile t).drn, x.kctx = d.kctx → x.serial = d.serial → x.finished = true ∧ x.drift = true) ∧
      (b.driftAct = 2 → d.redrain = false → d.verdict ≠ (false, false) → b.stats = false →
        bit (s.reg (tilePage t oDigCfg)) 0 = false →
        ∃ u, exec (.drnFinish t) s = .next u ∧ u.regF cnt 31 0 = min (2 ^ 32 - 1) (s.regF cnt 31 0 + 1) ∧
          u.regF cnt 63 32 = min (2 ^ 32 - 1) (s.regF cnt 63 32 + 1) ∧
          ∀ x ∈ (u.tile t).drn, x.kctx = d.kctx → x.serial = d.serial →
            x.redrain = true ∧ x.next = 0 ∧ x.elems = 0 ∧ x.digest = []) ∧
      (b.driftAct = 0 → d.redrain = false → b.stats = true → bit (s.reg (tilePage t oDigCfg)) 0 = false →
        s.plain b.statDest (d.record 0 false).length = true →
        ∃ u, exec (.drnFinish t) s = .next u ∧ u.mem = s.mem.writeN b.statDest (d.record 0 false))) ∧
    (∀ d e, s.drnTurn t (fun d _ => d.finished && d.outq.isEmpty && !s.drnOut t d.kctx d.serial) = some (d, e) →
      ∃ u, exec (.drnComplete t) s = .next u ∧ u.mem = s.mem ∧ u.entry t d.kctx d.serial = none ∧
        (∀ x ∈ (u.tile t).drn, ¬ (x.kctx = d.kctx ∧ x.serial = d.serial)) ∧
        u.reg (tilePage t oNumFlags) = s.reg (tilePage t oNumFlags) ||| d.flags.word ∧
        ((s.ctx t d.kctx).age e.ticket ≤ 63 →
          SMap.get 0 (u.ctx t d.kctx).status (e.ticket % 64) = Entry.statusWord { e with
            bits := e.bits ||| (if d.drift then 4 else 0) ||| (if d.redrained then 8 else 0) })) ∧
    (∀ v, (s.tile t).digPend = some v → s.drnBusy t = false →
      ∃ u, exec (.digestCfgApply t) s = .next u ∧ u.reg (tilePage t oDigCfg) = v ∧ (u.tile t).digPend = none ∧
        u.mem = s.mem ∧ (bit (s.reg (tilePage t oDigCfg)) 0 = false → bit v 0 = true →
          u.regF (tilePage t oDigStat) 31 0 = 0))

/-- One drained element (05 R164 to R169): NaR in the source, T or the bias gives the output format's NaR and no
statistics; without stage 1 and without a function the word is x·T + b rounded once; a stage-1 product is truncated
toward zero to a multiple of the source's least significant weight. -/
def Obligations.DrainedElement : Prop :=
  (∀ (src dst : Fmt) (t fn w : Nat) (s1 : Bool) (r : ChRec),
    (srcVal src w = none ∨ positVal 32 t = none ∨ positVal 32 r.bias = none) →
      drainElem src dst t s1 fn r w = ⟨(narTo dst).word, (narTo dst).fl, none, false⟩) ∧
  (∀ (src dst : Fmt) (t w : Nat) (r : ChRec) (x tv b : Dy),
    srcVal src w = some x → positVal 32 t = some tv → positVal 32 r.bias = some b →
      (drainElem src dst t false 0 r w).word = (dyTo dst ((x.mul tv).add b)).word) ∧
  (∀ (r : ChRec) (i : Int), r.shift < 64 →
    (stage1 .S32 r ⟨i, 0⟩).1 = ⟨(i * r.mult).tdiv (2 ^ r.shift), 0⟩ ∧
    ((stage1 .S32 r ⟨i, 0⟩).2 = true ↔ ¬ (2 ^ r.shift : Int) ∣ i * r.mult))

/-- The instructions of the SFU (06 R188 to R217; 08 R303 to R313): the one handed over occupies it with what it read, one
with rows runs them and completes, a `topk` outside a chain writes its list, and an `smp` writes its entry and,
where the SSR says so, the next step. -/
def Obligations.SfuInstructions : Prop :=
  ∀ (s : State) (t : Nat), s.enginesRun t = true →
    (∀ e, (s.herder t).nextOf (fun e => e.cls == .sfu) = some e → s.paused t e.kctx = false →
      (s.herder t).begunOf .sfu = false →
      (e.opc = 0x84 ∨ (e.opc = 0x86 ∧ ((s.stageOf e).role = 0 ∨ (s.stageOf e).role = 3 ∨ (s.stageOf e).ndev = none)) →
        ∃ u, exec (.sfuHandover t) s = .next u ∧ onlyTile t s u ∧
          (u.tile t).sfu = (s.tile t).sfu ++ [{ kctx := e.kctx, serial := e.serial }] ∧
          (u.tile t).chain.stages = (s.tile t).chain.stages ++
            (if e.opc = 0x86 ∧ (s.stageOf e).role ≠ 0 then [s.stageOf e] else [])) ∧
      (e.opc = 0x87 →
        let p := e.a1.toNat
        let q := e.a2.toNat
        let v := ofBytesLE (s.mem.readN p 16)
        let r := ofBytesLE (s.mem.readN q 32)
        inWindow t p 16 = true → inWindow t q 32 = true → s.clean p 16 = true → s.clean q 32 = true →
        spbReject v = none → ¬ (2 ≤ nfld v 1 0 ∧ 64 < (TD.ofWord e.t1).cnt.getD 0 1) →
        nfld r 127 64 = complN 64 (nfld r 63 0) →
        ∃ u, exec (.sfuHandover t) s = .next u ∧ onlyTile t s u ∧
          (u.tile t).sfu = (s.tile t).sfu ++ [{ kctx := e.kctx, serial := e.serial, spb := v, ssr := r }])) ∧
    (∀ run e, (s.tile t).sfu.find? (fun r => !s.paused t r.kctx) = some run →
      s.entry t run.kctx run.serial = some e → e.kctx = run.kctx → e.serial = run.serial →
      let ends (m : Memory) : Prop := ∃ u, exec (.sfuComplete t) s = .next u ∧ u.mem = m ∧
        u.entry t run.kctx run.serial = none ∧ ∀ r ∈ (u.tile t).sfu, ¬ (r.kctx = run.kctx ∧ r.serial = run.serial)
      let ts := TD.ofWord e.t1
      let td := TD.ofWord e.t2
      (∀ f d, e.opc = 0x84 → sfuOp e.word = 0 → ts.fmt = some f → td.fmt = some d → ts.rank = 0 → td.rank = 0 →
        td.n 0 = ts.n 0 → e.sto.statusEn = false → inWindow t ts.base (ts.rowLen f) = true →
        s.clean ts.base (ts.rowLen f) = true →
        let out := packRow d ((unpackRow f (s.mem.readN ts.base (ts.rowLen f)) (ts.n 0)).map
          (fun w => (sfuElement (fld e.word 38 33) f d w).word))
        s.plain td.base out.length = true → ends (s.mem.writeN td.base out)) ∧
      (∀ o, e.opc = 0x84 → sfuR ts = 1 → s.sfuRow t e 0 = (.ok o, s) → e.sto.statusEn = false → td.n 1 = 1 →
        let full := sfuOp e.word = 0 ∨ 8 ≤ sfuOp e.word
        let out := if full then packRow (td.fmt.getD .P8) (o.words.take (td.n 0)) else o.bytes
        let a := if full then (td.rowAddr 0).toNat else td.base
        s.plain a out.length = true → ends (s.mem.writeN a out)) ∧
      (∀ l, e.opc = 0x86 → (s.stageOf e).role = 0 → s.findStage t run.kctx run.serial = none →
        s.topkOwn t e = (.ok l, s) → s.plain (s.stageOf e).lo (listBytes l).length = true →
        ends (s.mem.writeN (s.stageOf e).lo (listBytes l))) ∧
      (∀ d, e.opc = 0x87 → s.smpDraw t e run = (.ok d, s) → s.plain td.base 8 = true →
        s.plain (e.a2.toNat + 16) 8 = true →
        let w := match d with | some (v, i) => i % 2 ^ 32 + (v % 2 ^ 32) <<< 32 | none => 0xFFFFFFFF
        let m := s.mem.writeN td.base (toBytesLE 8 w)
        ends (if run.ssr.testBit 192 then
          m.writeN (e.a2.toNat + 16) (toBytesLE 8 (nfld run.ssr 191 128 + 1)) else m)))

/-! ## The retriever -/

/-- Streams in their queues and their descriptor lists (09 R322, R323, R335, R336, R344, R346; 08 R294, R296): a queue
with room accepts the next stream in order and starts it when nothing stands before it; a list's bursts are fetched
ahead, through the local port or as read requests; once the requests before it have issued, a checked descriptor opens
its work, follows a LINK or waits at a MARK, and a rejected one ends the stream; a MARK is satisfied when everything
before it has completed. -/
def Obligations.StreamQueuesAndDescriptors : Prop :=
  ∀ (s : State) (t q : Nat), s.enginesRun t = true →
    let r := (s.tile t).retr
    let own (u : State) (x : Strm) (p : Strm → Prop) : Prop := ∃ y, u.stream t x.kctx x.serial = some y ∧ p y
    (∀ e, (s.herder t).nextOf (fun e => e.cls == .rtv) = some e → e.qid = q → r.held q < 4 →
      s.stream t e.kctx e.serial = none → s.entry t e.kctx e.serial = some e →
      let x := s.newStrm t e
      s.strmDevs e x = [] →
      let ahead := r.strms.any (fun y => y.qid == q && !y.stopping && !y.issued)
      let tg := Target.ofWord e.x1
      ∃ u, exec (.streamQueueAccept t q) s = .next u ∧ u.mem = s.mem ∧
        (u.tile t).retr.strms = r.strms ++ [{ x with started := !ahead }] ∧
        (∃ y, u.entry t e.kctx e.serial = some y ∧ y.phase = .begun) ∧
        u.sleds = if x.kind = .ldwHead ∧ ahead = false then s.sleds ++
          [{ src := t, srcDev := none, kctx := e.kctx, serial := e.serial, dst := tg.tile, header := true,
             fmt := (TD.ofWord e.t2).fmtCode, count := x.total, headDev := s.link.en.devid, headTile := t }]
          else s.sleds) ∧
    (∀ x, r.starter q = some x → s.stream t x.kctx x.serial = some x → x.kind ≠ .ldwHead →
      ∃ u, exec (.streamIssueStart t q) s = .next u ∧ onlyTile t s u ∧ own u x (fun y => y = { x with started := true })) ∧
    (∀ x e, r.starter q = some x → s.stream t x.kctx x.serial = some x → x.kind = .ldwHead →
      s.entry t x.kctx x.serial = some e → (Target.ofWord e.x1).remote = false →
      ∃ u, exec (.streamIssueStart t q) s = .next u ∧ u.mem = s.mem ∧ own u x (fun y => y = { x with started := true }) ∧
        u.sleds = s.sleds ++ [{ src := t, srcDev := none, kctx := e.kctx, serial := e.serial
                                dst := (Target.ofWord e.x1).tile, header := true
                                fmt := (TD.ofWord e.t2).fmtCode, count := x.total
                                headDev := s.link.en.devid, headTile := t }]) ∧
    (∀ x b, s.lister t q = some x → s.stream t x.kctx x.serial = some x → x.wantsBurst = some b →
      (isLocal t none b = true → (∀ a ∈ burstAddrs b, s.clean a 64 = true ∧ inWindow t a 64 = true) →
        ∃ u, exec (.descBurstFetch t q) s = .next u ∧ u.mem = s.mem ∧ u.regs = s.regs ∧
          own u x (fun y => y = { x with bursts := x.bursts ++
            [(b, (burstAddrs b).map (fun a => .data (BitVec.ofNat 512 (ofBytesLE (s.mem.readN a 64)))))] })) ∧
      (isLocal t none b = false →
        ∃ u, exec (.descBurstFetch t q) s = .next u ∧ onlyTile t s u ∧
          own u x (fun y => y = { x with bursts := x.bursts ++
            [(b, (burstAddrs b).map (s.burstWord (s.tilePart t)))] }))) ∧
    (∀ (x : Strm), s.lister t q = some x → s.stream t x.kctx x.serial = some x → x.worksIssued t = true →
      x.burstAsked = true →
      let gang := (s.tile t).pack.gang
      let rej (d : Desc) : Option Nat :=
        s.descReject t x.kctx gang (s.perPassAt t (Desc.arr d)) x.needScale.isSome d
      let takes (p : Strm → Prop) : Prop := ∃ u, exec (.descTakeUp t q) s = .next u ∧ u.mem = s.mem ∧ own u x p
      let fails (c : Exc) (i : Nat) : Prop := ∀ e, s.entry t x.kctx x.serial = some e → e.fault = none →
        ∃ u e', exec (.descTakeUp t q) s = .next u ∧ u.mem = s.mem ∧ u.entry t x.kctx x.serial = some e' ∧
          e'.fault = some (c, i) ∧ own u x (fun y => y.stopping = true)
      (x.nextWord = some .outside → fails .format (2 ^ 63 + x.next)) ∧
      (∀ d : Desc, x.nextWord = some (.data d) → fld d 63 32 ≠ complN 32 (fld d 31 0) → fails .complement 4) ∧
      ∀ d : Desc, x.nextWord = some (.data d) → fld d 63 32 = complN 32 (fld d 31 0) →
      let rej := rej d
      (rej = none → Desc.kind d = 5 → takes (fun y => y.next = Desc.src d ∧ y.bursts = [])) ∧
      (rej = none → Desc.kind d = 6 → takes (fun y => y.mark = true ∧ y.next = x.next + 64 ∧ y.listEnd = Desc.last d ∧
        y.bursts = [])) ∧
      (rej = none → 1 ≤ Desc.kind d → Desc.kind d ≤ 4 → Desc.rsrc d = false → Desc.rdst d = false →
        takes (fun y => y.taken = x.taken + 1 ∧ y.next = x.next + 64 ∧ y.listEnd = Desc.last d ∧
          y.works.getLast? = some { s.descWork d x.next
            (if Desc.kind d = 4 then x.needScale.getD 0 else if gang = 1 then Desc.sub d else Desc.arr d) with id := x.taken + 1 } ∧
          (y.needScale.isSome = true ↔ (Desc.kind d = 2 ∨ Desc.kind d = 3) ∧ Desc.scomp d = true))) ∧
      (∀ off, rej = some off → fails .format off)) ∧
    (∀ x, r.issuing q = some x → s.stream t x.kctx x.serial = some x → x.runs = true → x.mark = true → x.works = [] →
      x.quiet = true → x.wq = [] →
      ∃ u, exec (.markSatisfied t q) s = .next u ∧ onlyTile t s u ∧
        own u x (fun y => y.mark = false ∧ y.bursts = [] ∧ y.next = x.next))

/-- Requests, data and completion of streams (09 R324 to R330, R340, R344, R357, R359, R365; 08 R299; 01 R23): the mesh
port serves the queues in turn from the one after the last served, and a request that issues counts in the window and
takes its place in the order of issue; an element run is read through the local port and converted, and a
whole vector enters its feeder; a read or write request ends; the window counts restart; a stream completes when all
it owes is done; a real-time stream past its deadline is counted once; quiescence cancels the user streams' reads
and lets `rqsc` go on. -/
def Obligations.StreamRequestsAndCompletion : Prop :=
  ∀ (s : State) (t q n : Nat),
    let r := (s.tile t).retr
    let own (u : State) (x : Strm) (p : Strm → Prop) : Prop := ∃ y, u.stream t x.kctx x.serial = some y ∧ p y
    let pick := ((List.range 8).map (fun i => (r.lastQ + 1 + i) % 8)).findSome? (fun q =>
      (s.candidate t q).bind (fun c => if s.qualifies t q c.2 then some (q, c) else none))
    let sound := s.eccW = [] ∧ s.eccB = [] ∧ s.sec.inj.armed = false
    (∀ x m rd, s.enginesRun t = true → s.passOn t = s → pick = some (q, x, m) →
      (m = .again rd ∨ m = .fetch rd ∨ ∃ w', m = .read rd w') → s.stream t x.kctx x.serial = some x →
      rd.dev = none → isVirt rd.va = false → pageOf rd.va = .none → s.reach (s.partOf t) rd.va rd.bytes = true →
      ∃ u, exec (.requestIssue t) s = .next u ∧ u.mem = s.mem ∧ (u.tile t).retr.lastQ = q ∧
        (u.tile t).retr.winR = r.winR + 1 ∧ (u.tile t).retr.seq = r.seq + 1 ∧
        own u x (fun y => y.reads = x.reads ++ [{ rd with addr := rd.va, seq := r.seq }])) ∧
    (∀ x w, let w0 : WrReq := { w with seq := r.seq, addr := w.va }
      s.enginesRun t = true → s.passOn t = s → pick = some (q, x, .write w) →
      s.stream t x.kctx x.serial = some x → w.dev = none →
      isVirt w.va = false → pageOf w.va = .none →
      s.reach (s.partOf t) (w.va + (w.lo - w.va)) (w.hi - w.lo) = true →
      s.targetReady w.va = true → s.wayFree t x w0 = true →
      s.drnHolds t x.kctx x.serial (w0.runs.map (fun g => (w.va + g.1, g.2))) = false →
      (∀ g ∈ w0.runs, s.plain (w.va + g.1) g.2.length = true) →
      ∃ u, exec (.requestIssue t) s = .next u ∧
        u.mem = w0.runs.foldl (fun m g => m.writeN (w.va + g.1) g.2) s.mem ∧
        (u.tile t).retr.lastQ = q ∧ (u.tile t).retr.winW = r.winW + 1 ∧
        own u x (fun y => y.wout = x.wout ++ [{ w0 with arrived := true }] ∧ y.wq = x.wq.drop 1)) ∧
    (∀ x w, s.enginesRun t = true → s.passOn t = s → r.issuing q = some x → s.stream t x.kctx x.serial = some x → x.runs = true →
      x.started = true → x.works = [w] → w.localSrc t = true → w.kind = .feed → w.buf = [] → w.done = w.pos →
      0 < w.c 0 → s.localLimit t w = w.pos + w.c 0 → w.pos + w.c 0 ≤ w.n →
      (∀ i, i < w.c 0 → ∃ a, w.srcAt (w.pos + i) = some a ∧ s.clean a w.slen = true ∧ inWindow t a w.slen = true) →
      ∃ u, exec (.localElementRead t q) s = .next u ∧ u.mem = s.mem ∧
        SMap.get [] (u.tile t).pack.feed w.feeder = SMap.get [] (s.tile t).pack.feed w.feeder ++
          [(List.range (w.c 0)).map (fun i =>
            let p := w.pos + i
            some (w.cvt (w.raw p (s.mem.readN ((w.srcAt p).getD 0) w.slen))).word)]) ∧
    (∀ x rd, s.enginesRun t = true → (r.readsOf q)[n]? = some (x, rd) → s.stream t x.kctx x.serial = some x →
      x.stopping = false → ((∀ w ∈ x.works, w.localDst t = false) ∨ sound) →
      (rd.got.isSome = true ∨ (s.targetReady rd.addr = true ∧ s.clean rd.addr rd.bytes = true ∧
        ∀ y ∈ r.onWay, sameBlock y.2.addr rd.addr = false ∨ rd.seq ≤ y.2.seq)) →
      ∃ u, exec (.readDataReturn t q n) s = .next u ∧ own u x (fun y => y.reads = x.reads.erase rd)) ∧
    (∀ x w, (r.writesOf q)[n]? = some (x, w) → s.stream t x.kctx x.serial = some x → x.stopping = false →
      w.arrived = true →
      ∃ u, exec (.writeAck t q n) s = .next u ∧ u.mem = s.mem ∧
        own u x (fun y => y = { x with wout := x.wout.eraseP (fun y => y == w) })) ∧
    (∀ x w, (r.writesOf q)[n]? = some (x, w) → w.arrived = false →
      r.onWay.filter (fun y => decide (y.2.seq ≤ w.seq)) = [(x, w)] → s.targetReady w.addr = true →
      r.readAhead w.addr w.seq = false → (∀ g ∈ w.runs, s.plain (w.addr + g.1) g.2.length = true) →
      ∃ u, exec (.writeAck t q n) s = .next u ∧
        u.mem = w.runs.foldl (fun m g => m.writeN (w.addr + g.1) g.2) s.mem) ∧
    (∃ u, exec (.bwWindowBoundary t) s = .next u ∧ onlyTile t s u ∧
      u.tile t = { s.tile t with retr := { r with winR := 0, winW := 0, winX := 0 } }) ∧
    (∀ x e, s.enginesRun t = true → r.strms.find? (fun x =>
        x.qid == q && x.allDone && x.kind != .ldwHead && x.kind != .ldwMember) = some x →
      s.entry t x.kctx x.serial = some e →
      ∃ u, exec (.streamComplete t q) s = .next u ∧ u.mem = s.mem ∧ (e.isRt = false → u.regs = s.regs) ∧
        (e.isRt = true → u.regF (tilePage t oRtvDlCnt) 31 0
          = min (2 ^ 32 - 1) (s.regF (tilePage t oRtvDlCnt) 31 0 + 1)) ∧
        u.entry t x.kctx x.serial = none ∧ u.stream t x.kctx x.serial = none ∧
        ((s.ctx t x.kctx).age e.ticket ≤ 63 →
          SMap.get 0 (u.ctx t x.kctx).status (e.ticket % 64) = e.statusWord)) ∧
    (∀ e, ((s.herder t).board ++ (s.herder t).park).find? (Entry.misses s.now q) = some e →
      let a := tilePage t oRtvDlCnt
      ∃ u, exec (.streamDeadlineMiss t q) s = .next u ∧ u.mem = s.mem ∧
        u.regF a 63 32 = min (2 ^ 32 - 1) (s.regF a 63 32 + 1) ∧ u.regF a 31 0 = s.regF a 31 0 ∧
        ∀ y ∈ (u.herder t).board ++ (u.herder t).park, y.is e.kctx e.serial = true → y.bits.testBit 7 = true) ∧
    (s.enginesRun t = true → (s.ctx t true).st = .run → (s.ctx t true).wait = .quiesce →
      (∀ y ∈ r.strms, y.kctx = false → y.stopping = false → y.wq = []) →
      ∃ u, exec (.quiesceComplete t) s = .next u ∧ u.mem = s.mem ∧ (u.tile t).retr.quiesced = true ∧
        (∀ y ∈ (u.tile t).retr.strms, y.kctx = false → y.stopping = false → y.reads = []) ∧
        (u.ctx t true).pc = (s.ctx t true).pc + 8 ∧ (u.ctx t true).wait = .none)

/-- The sled chain (09 R349 to R351; 08 R295): a beat that no `ldw` of the tile takes waits in the router's buffer, a header at
a TAIL opens the transfer, its data are written at their places in the target, the HEAD learns that its last
beat was accepted, and then it completes, or faults where its header disagreed. -/
def Obligations.SledChain : Prop :=
  ∀ (s : State) (t q : Nat), s.enginesRun t = true →
    let r := (s.tile t).retr
    (∀ b, r.sled = [] → s.sleds.find? (fun b => b.dst == t) = some b → s.acceptSled t b = none →
      ∃ u, exec (.sledBeatArrive t) s = .next u ∧ u.mem = s.mem ∧ u.sleds = s.sleds.erase b ∧ (u.tile t).retr.sled = [b]) ∧
    (∀ b x e, r.sled = [] → r.sledDrop = [] → s.sleds.find? (fun b => b.dst == t) = some b → b.srcDev = none →
      r.sledTaker b = some x → s.stream t x.kctx x.serial = some x → s.entry t x.kctx x.serial = some e →
      x.kind = .ldwTail → (b.last = false ∨ b.src ≠ t) →
      (b.header = true → b.fmt = (TD.ofWord e.t2).fmtCode → b.count = x.total →
        ∃ u y, exec (.sledBeatArrive t) s = .next u ∧ u.mem = s.mem ∧ u.sleds = s.sleds.erase b ∧
          u.stream t x.kctx x.serial = some y ∧
          y = { x with header := true, badHeader := false, from_ := some (none, b.src), total := b.count }) ∧
      (b.header = false → x.badHeader = false →
        let td := TD.ofWord e.t2
        let l := td.rowLen (td.fmt.getD .P8)
        b.bytes ≠ [] → x.sent % l + b.bytes.length ≤ l →
        s.plain ((td.rowAddr (x.sent / l)).toNat + x.sent % l) b.bytes.length = true →
        ∃ u y, exec (.sledBeatArrive t) s = .next u ∧ u.sleds = s.sleds.erase b ∧
          u.mem = s.mem.writeN ((td.rowAddr (x.sent / l)).toNat + x.sent % l) b.bytes ∧
          u.stream t x.kctx x.serial = some y ∧ y.sent = x.sent + b.bytes.length ∧
          ∀ z, b.last = true → s.stream b.src b.kctx b.serial = some z →
            u.stream b.src b.kctx b.serial = some { z with acceptPend := true })) ∧
    (∀ x e, r.strms.find? (fun x =>
        x.qid == q && x.allDone && (x.kind == .ldwHead || x.kind == .ldwMember) && x.acceptPend) = some x →
      s.entry t x.kctx x.serial = some e → e.isRt = false →
      (x.badHeader = false →
        ∃ u, exec (.ldwAcceptReport t q) s = .next u ∧ u.mem = s.mem ∧ u.regs = s.regs ∧
          u.entry t x.kctx x.serial = none ∧ u.stream t x.kctx x.serial = none) ∧
      (x.badHeader = true → e.fault = none →
        ∃ u y, exec (.ldwAcceptReport t q) s = .next u ∧ u.mem = s.mem ∧ u.entry t x.kctx x.serial = some y ∧
          y.fault = some (.format, 0)))

/-! ## Handles, waits, preemption, faults -/

/-- What ends a wait (07 R237, R242, R244, R246 to R251, R254; 08 R272): a stalled instruction issues again when its cause is gone, a
satisfied `fence`, `wait`, `wait.all`, `wait.cls`, `at` or `hget` retires; a satisfied `dep` holds nothing back, its
place is free once no older one is unsatisfied, and the passes it held join their arrays; a released handle leaves the
buffer for its target, behind those for the same queue alone, enters a queue that has room, is refused by a full one and
sent again. -/
def Obligations.HandlesMoveAndWaitsEnd : Prop :=
  ∀ (s : State) (t : Nat),
    let h := s.herder t
    let k := h.kctx
    let c := s.act t
    let runs := s.tileRuns t = true ∧ c.st = .run ∧ (k = true ∨ h.preempted = false) ∧ s.injLockstep t = false
    let owed (j : Bool) (n : Nat) := ∃ o ∈ s.link.outst, ∃ m, o.what.writer = some (t, j, m) ∧ m < n
    let freed (o : OutHandle) : Prop := o.relNone = true ∨
      ((∀ e ∈ h.board ++ h.park, e.kctx = o.kctx → o.serial ≤ e.serial) ∧ ¬ owed o.kctx o.serial)
    let older (n : Nat) (e : Entry) : Prop := e ∈ h.board ++ h.park ∧ e.kctx = k ∧ e.serial < n
    let out (l : List OutHandle) : State := s.modHerder t (fun h => { h with out := l })
    (∀ w, c.st = .run → c.wait = .issue → c.prog[c.pc / 8]? = some w → s.mustStall t k c w = false →
      exec (.issueResume t) s = .next (s.setCtx t k { c with wait := .none })) ∧
    (∀ sc n, c.st = .run → s.injLockstep t = false → c.wait = .fence sc n →
      (sc % 8 = 1 ∨ ((∀ e, ¬ older n e) ∧ (sc < 4 ∨ ¬ owed k n))) →
      exec (.issueResume t) s = .next (s.moves t)) ∧
    (∀ v sd, runs → c.wait = .ticket v sd → (∀ e, older c.serial e → e.ticket ≠ v) →
      exec (.waitResume t) s = .next (s.after t (c.sset sd (c.statusOf v)))) ∧
    (∀ m n, runs → c.wait = .classes m n → (∀ e, older n e → m.testBit e.cls.bit = false) →
      exec (.waitResume t) s = .next (s.moves t)) ∧
    (∀ n, runs → c.wait = .time n → n ≤ s.now → exec (.atRelease t) s = .next (s.moves t)) ∧
    (∀ q sd x xs, runs → c.wait = .hget q sd → SMap.get [] h.hq q = x :: xs →
      exec (.hgetReturn t) s
        = .next ((s.modHerder t (fun h => { h with hq := SMap.set h.hq q xs })).after t (c.sset sd x))) ∧
    (let settled (j : Bool) (ds : List Dep) : List Dep :=
       (ds.map (fun d => if h.depOpen j d then d else { d with prods := [] })).dropWhile (fun d => d.prods.isEmpty)
     ∃ u, exec (.depSatisfied t) s = .next u ∧ onlyTile t s u ∧
      (u.herder t).user = { h.user with deps := settled false h.user.deps } ∧
      (u.herder t).kern = { h.kern with deps := settled true h.kern.deps } ∧
      ∀ p ∈ (s.tile t).pack.held, (p.kctx = true ∨ h.preempted = false) → (u.herder t).packHeld p = false →
        p ∉ (u.tile t).pack.held ∧ p ∈ (u.arr t p.array).queue) ∧
    (∀ pre o rest, s.tileRuns t = true → h.out = pre ++ o :: rest → o.sent = false → o.refused = false →
      (∀ x ∈ pre, x.refused = false ∧ x.sameQueue o = false ∧ (x.sent = true ∨ ¬ freed x)) →
      (Target.ofWord o.target).remote = false → freed o →
      exec (.handleSend t) s = .next (out (pre ++ { o with sent := true, refused := false } :: rest))) ∧
    (∀ pre o rest, s.tileRuns t = true → h.out = pre ++ o :: rest → (∀ x ∈ pre, x.refused = false) →
      o.refused = true → (Target.ofWord o.target).remote = false →
      exec (.handleResend t) s = .next (out (pre ++ { o with sent := true, refused := false } :: rest))) ∧
    (∀ pre o rest, h.out = pre ++ o :: rest → (∀ x ∈ pre, x.sent = false ∨ (Target.ofWord x.target).remote = true) →
      o.sent = true → (Target.ofWord o.target).remote = false →
      s.writesAhead t (Target.ofWord o.target).tile = false →
      let u := (Target.ofWord o.target).tile
      let l := SMap.get [] (s.herder u).hq o.q
      (s.tile u).pwr.st = .ivory →
      (l.length < 32 → ∃ v, exec (.handleArrive t) s = .next v ∧ v.mem = s.mem ∧
        SMap.get [] (v.herder u).hq o.q = l ++ [o.handle] ∧ (v.herder t).out = pre ++ rest) ∧
      (32 ≤ l.length → o.q < 8 → ∃ v, exec (.handleArrive t) s = .next v ∧ v.mem = s.mem ∧
        SMap.get [] (v.herder u).hq o.q = l ∧ v.regF (tilePage u oHqStatus) (48 + o.q) (48 + o.q) = 1 ∧
        (v.herder t).out = pre ++ { o with sent := false, refused := true } :: rest))

/-- Preemption and the completion of faults (07 R255 to R261; 08 R287; 10 R394; 11 R429): a kernel task stops the user
context, which keeps its registers, parks what has not begun, and the kernel context starts when no user pass holds a loading
or streaming slot; a faulted instruction completes with its fault in its status and halts its context, and of several the
one of the lowest ticket stands in the registers; the front end learns of the exception once the context's writes have
completed, and drains the task. -/
def Obligations.PreemptionAndFaultCompletion : Prop :=
  ∀ (s : State) (t : Nat),
    let h := s.herder t
    (h.kern.st = .run → h.kctx = false → h.preempted = false → h.user.st ≠ .idle →
      ∃ u, exec (.kernelPreempt t) s = .next u ∧ u.mem = s.mem ∧ (u.herder t).preempted = true ∧
        (u.herder t).user = h.user ∧ (u.herder t).kern = h.kern ∧
        (∀ e ∈ (u.herder t).board, e.kctx = false → e.phase ≠ .issued) ∧
        (∀ e ∈ h.board, e.kctx = false → e.phase = .issued → e ∈ (u.herder t).park)) ∧
    (h.kern.st = .run → h.kctx = false → (h.user.st = .idle ∨ h.preempted = true) →
      (s.tile t).pack.slotsFree = true →
      exec (.kernelContextStart t) s = .next (s.modHerder t (fun h => { h with kctx := true }))) ∧
    (∀ e x i, h.board.filter (s.faultReady t) = [e] → e.fault = some (x, i) → s.entry t e.kctx e.serial = some e →
      ∃ u, exec (.faultCompletion t) s = .next u ∧ u.mem = s.mem ∧ u.entry t e.kctx e.serial = none ∧
        fld (u.reg (tilePage t oHrdExc)) 7 0 = x.code ∧ fld (u.reg (tilePage t oHrdExc)) 8 8 = 0 ∧
        u.reg (tilePage t oHrdExcPc) = BitVec.ofNat 64 e.pc ∧ u.reg (tilePage t oHrdExcInfo) = BitVec.ofNat 64 i ∧
        ((s.ctx t e.kctx).st = .run → (u.ctx t e.kctx).st = .haltedExc ∧ (u.ctx t e.kctx).signal = true) ∧
        ((s.ctx t e.kctx).age e.ticket ≤ 63 → e.statusWord.getLsbD 1 = true ∧
          SMap.get 0 (u.ctx t e.kctx).status (e.ticket % 64) = e.statusWord)) ∧
    (∀ e x i, e ∈ h.board.filter (s.faultReady t) → e.fault = some (x, i) →
      (∀ y ∈ h.board.filter (s.faultReady t), y ≠ e → e.ticket < y.ticket) →
      ∃ u, exec (.faultCompletion t) s = .next u ∧ u.mem = s.mem ∧
        fld (u.reg (tilePage t oHrdExc)) 7 0 = x.code ∧ u.reg (tilePage t oHrdExcPc) = BitVec.ofNat 64 e.pc ∧
        u.reg (tilePage t oHrdExcInfo) = BitVec.ofNat 64 i) ∧
    (∀ k r p, (k = true → h.user.signal = false) → (h.ctx k).signal = true → s.writesDone t k = true →
      (h.ctx k).task = some r →
      (s.ring r.ring).pkts.find? (fun p => p.count = r.count) = some p → p.st = .running →
      ∃ u q, exec (.exceptionSignal t) s = .next u ∧ (u.ctx t k).signal = false ∧
        (u.ring r.ring).pkts.find? (fun p => p.count = r.count) = some q ∧
        q.st = .draining 1 s.now ∧ q.result = .fault ∧ q.code = (h.ctx k).excCode ∧ q.tile = t)

/-! ## The command front end -/

/-- Fetching, validating and retiring packets (11 R404, R408, R411, R412, R424): a fetch appends the 64 bytes of the
ring's next slot; a packet that passes every check is valid, and one that fails is rejected with the reason of its
first failing check, in FE_RING_STAT and in its record; an ended packet at the front of its ring leaves it, and
DONE advances; a NOP whose dependencies are satisfied ends at once. -/
def Obligations.PacketsFetchValidateRetire : Prop :=
  ∀ (s : State) (g : Nat), g < 1024 → s.feRuns = true →
    let r := s.ring g
    let n := (r.done + r.pkts.length) % 2 ^ 32
    let a := s.ringBase g + 64 * (n % s.ringSize g)
    let valid (k : Pkt) (prog : List (Nat × Nat)) : Prop :=
      ∃ u k', exec (.packetValidate g) s = .next u ∧ u.pkt g k.count = some k' ∧ k'.st = .valid ∧ k'.prog = prog ∧
        k'.version = 0 ∧ (u.ring g).fetched = (k.count + 1) % 2 ^ 32 ∧ u.mem = s.mem ∧ u.tiles = s.tiles ∧
        u.regs = s.regs
    let starts (k : Pkt) : Prop := k.isCmd = true ∧ k.opcode = 0x20 ∧ s.fe.sit.cmd = none
    let rejected (k : Pkt) (e : Nat) : Prop :=
      ∃ u, exec (.packetValidate g) s = .next u ∧ endedAs s u g k.count .rejected e 0x7FF ∧
        (u.ring g).fetched = (k.count + 1) % 2 ^ 32 ∧ u.regF (ringReg g oRingStat) 31 24 = e
    (s.fetchTurn g = true → s.ringGood g = true → s.reach (g / 64) a 64 = true → s.clean a 64 = true →
      ∃ u k, exec (.packetFetch g) s = .next u ∧ (u.ring g).pkts = r.pkts ++ [k] ∧ k.count = n ∧ k.st = .fetched ∧
        (∀ i, i < 8 → k.w i = BitVec.ofNat 64 (ofBytesLE (((s.rawRead a 64).drop (8 * i)).take 8))) ∧
        (∀ j, j ≠ g → u.ring j = s.ring j) ∧ u.mem = s.mem ∧ u.regs = s.regs ∧ u.tiles = s.tiles) ∧
    (∀ k, r.pkts.find? (fun k => k.st = .fetched) = some k → s.ringGood g = true →
      let base := fld (k.w 1) 47 0
      let len := 8 * (fld (k.w 1) 59 48 + 1)
      (k.badFormat = true → rejected k 1) ∧
      (k.badFormat = false → k.badComplement = true → rejected k 2) ∧
      (k.badFormat = false → k.badComplement = false →
        (s.badPriv g k = true → rejected k 3) ∧
        (s.badPriv g k = false →
          (k.kind ≠ 1 → ¬ starts k → valid k []) ∧
          (k.kind = 1 → (k.group.onMesh = false ∨ k.group.within (s.ringGroup g) = false) → rejected k 4) ∧
          (k.kind = 1 → k.group.onMesh = true → k.group.within (s.ringGroup g) = true → k.stored = false →
            isVirt base = false →
            ((base % 8 ≠ 0 ∨ s.imemBytes (g / 64) (s.ringKernel g) < len ∨ s.reach (g / 64) base len = false) →
              rejected k 5) ∧
            (base % 8 = 0 → len ≤ s.imemBytes (g / 64) (s.ringKernel g) → s.reach (g / 64) base len = true →
              (s.fe.sit.on = true → rejected k 7) ∧ (s.fe.sit.on = false → valid k [(base, len)])))))) ∧
    (∀ k ks, r.pkts = k :: ks → r.broken = false → k.st = .ended → k.recorded = true →
      ∃ u, exec (.packetRetire g) s = .next u ∧ (u.ring g).pkts = ks ∧ (u.ring g).done = (r.done + 1) % 2 ^ 32 ∧
        u.mem = s.mem ∧ u.regs = s.regs ∧ u.tiles = s.tiles) ∧
    (∀ k ks, r.pkts = k :: ks → s.ringGood g = true → s.nopOk g k = true → k.version = 0 →
      let c := s.ringCbase g + 32 * (k.count % s.ringSize g)
      s.reach (g / 64) c 32 = true → s.plain c 32 = true →
      ∃ u, exec (.packetRetire g) s = .next u ∧ (u.ring g).pkts.length = ks.length ∧
        (u.ring g).done = (r.done + 1) % 2 ^ 32 ∧ u.mem = s.mem.writeN c
          { k with start := s.now, endAt := s.now, result := .ok, code := 0, tile := 0x7FF }.record)

/-- Dispatching, starting and ending tasks (11 R415 to R418, R422, R423, R425; 07 R228): a dispatchable task's
program, argument, rank and size go to every tile of its group; a tile then starts a context with the registers of
R228 and all others zero; a task that no tile holds any more ends with RESULT OK, or CANCELLED after a `ucancel`; a deadline that passes is noted
and counted once; an expired slice passes the turn to another ready ring, or starts again. -/
def Obligations.TasksDispatchStartEnd : Prop :=
  ∀ (s : State) (g : Nat), g < 1024 → s.feRuns = true →
    (∀ k, s.dispatchable g = some k → s.ringGood g = true → k.group.onMesh = true →
      (s.ringKernel g = true ∨ (s.settleTurn (s.ringTurn g)).holder = some g) →
      (∀ x ∈ k.prog, s.clean x.1 x.2 = true ∧ s.touch x.1 = s) →
      let bs := (k.prog.map (fun x => s.rawRead x.1 x.2)).flatten
      ∃ u k', exec (.taskDispatch g) s = .next u ∧ u.pkt g k.count = some k' ∧ k'.st = .running ∧
        u.mem = s.mem ∧ u.regs = s.regs ∧
        (∀ t, t ∉ k.group.tiles → u.tile t = s.tile t) ∧
        ∀ t i, k.group.tiles[i]? = some t → ∃ l : Launch,
          (u.herder t).launches = (s.herder t).launches ++ [l] ∧ l.kctx = s.ringKernel g ∧ l.task = ⟨g, k.count⟩ ∧
          l.rank = i ∧ l.size = k.group.rows * k.group.cols ∧ l.arg = k.w 3 ∧ l.persist = k.persist ∧
          l.prog.length = bs.length / 8 ∧
          ∀ j, j < bs.length / 8 → l.prog[j]? = some (BitVec.ofNat 64 (ofBytesLE ((bs.drop (8 * j)).take 8)))) ∧
    (∀ t l, s.tileRuns t = true →
      (s.herder t).launches.find? (fun l => ((s.herder t).ctx l.kctx).st = .idle) = some l →
      ∃ u, exec (.tileTaskStart t) s = .next u ∧
        let c := u.ctx t l.kctx
        c.st = .run ∧ c.wait = .none ∧ c.level = (if l.kctx then .k else .u) ∧ c.task = some l.task ∧
        c.prog = l.prog ∧ c.pc = 0 ∧ c.q = 0 ∧ c.ticket = 0 ∧
        (∀ i, c.sget i = if i = 1 then BitVec.ofNat 64 t else if i = 2 then BitVec.ofNat 64 l.rank
          else if i = 3 then BitVec.ofNat 64 l.size else if i = 4 then l.arg
          else if i = 5 then BitVec.ofNat 64 s.link.en.devid else 0) ∧
        (∀ i, c.aget i = if i = 1 then BitVec.ofNat 48 (tileBase t) else 0) ∧
        (∀ i, c.tget i = 0) ∧ (∀ i, i ≠ 0 → c.pget i = false) ∧
        u.ctx t (!l.kctx) = s.ctx t (!l.kctx) ∧ u.mem = s.mem ∧ u.regs = s.regs) ∧
    (∀ n k, s.pkt g n = some k →
      (k.st = .running → s.taskTiles ⟨g, n⟩ = [] → s.ringGood g = true →
        ∃ u, exec (.taskEnd g n) s = .next u ∧
          endedAs s u g n (if k.result = .cancelled then .cancelled else .ok) 0 0x7FF) ∧
      (k.live = true → k.missed = false → k.deadline ≠ 0 → k.deadline ≤ s.now →
        ∃ u k', exec (.taskDeadlineMiss g n) s = .next u ∧ u.pkt g n = some k' ∧ k'.missed = true ∧ k'.st = k.st ∧
          u.regF (ringReg g oRingStat) 63 48 = min 0xFFFF (s.regF (ringReg g oRingStat) 63 48 + 1) ∧
          u.mem = s.mem ∧ u.tiles = s.tiles)) ∧
    (let x := s.ringTurn g;
     x.holder = some g → x.since + s.ringSlice g ≤ s.now → s.ringKernel g = false → (s.dispatchable g).isSome = true →
      ∃ u, exec (.sliceExpiry g) s = .next u ∧ u = { s with fe := { s.fe with turns := u.fe.turns } } ∧
        (s.otherReady x g = false → u.ringTurn g = { x with since := s.now }) ∧
        (∀ j, s.otherReady x g = true → s.turnTo (s.setRings x.part x.grp) x.lastNon = some j →
          (u.ringTurn g).holder = some j ∧ (u.ringTurn g).since = s.now))

/-- Stall budgets and drains (11 R427 to R430, R441; 07 R265): a task all of whose running tiles have stalled for its
budget is drained and recorded as hung; a drain whose contexts have nothing left ends the task with the drain's
result and leaves the contexts idle; a drain that takes 1 ms ends with KILLED and is a Rust error. -/
def Obligations.StallsAndDrains : Prop :=
  ∀ (s : State), s.feRuns = true →
    let hung := s.fe.rings.flatMap (fun gr => (gr.2.pkts.filter (s.hung gr.1)).map (fun k => (gr.1, k)))
    (hung = [] → exec .stallCheck s = .next s.holdTimers) ∧
    (∀ g k, g < 1024 → hung = [(g, k)] → s.pkt g k.count = some k →
      ∃ u k', exec .stallCheck s = .next u ∧ u.pkt g k.count = some k' ∧ k'.st = .draining 0 s.now ∧
        k'.result = .hung ∧
        (∀ x ∈ s.taskTiles ⟨g, k.count⟩, (s.ctx x.1 x.2).task = some ⟨g, k.count⟩ → (u.ctx x.1 x.2).st = .draining) ∧
        (∀ t, ∀ l ∈ (u.herder t).launches, l.task ≠ ⟨g, k.count⟩) ∧
        (let e := u.reg (partPage (g / 64) oHangLog);
         fld e 5 0 = g % 64 ∧ fld e 36 35 = 0 ∧ bit e 37 = false ∧ bit e 38 = true)) ∧
    (∀ g n k c b, g < 1024 → s.pkt g n = some k → k.st = .draining c b →
      ((∀ x ∈ s.taskTiles ⟨g, n⟩, s.ctxDrained x.1 x.2 = true) → s.ringGood g = true →
        ∃ u, exec (.drainComplete g n) s = .next u ∧
          endedAs s u g n k.result (if k.result = .fault then k.code else 0) (if k.result = .fault then k.tile else 0x7FF) ∧
          (s.plain (s.ringCbase g + 32 * (n % s.ringSize g)) 32 = true →
            ∀ x ∈ s.taskTiles ⟨g, n⟩, (u.ctx x.1 x.2).st = .idle ∧ (u.ctx x.1 x.2).task = none)) ∧
      (b + 1000000 ≤ s.now → (s.part (g / 64)).seqOn = false → s.sec.crimson = false → (s.part (g / 64)).st = .normal →
        ∃ u k', exec (.drainKill g n) s = .next u ∧ u.pkt g n = some k' ∧ k'.st = .ended ∧ k'.result = .killed ∧
          (u.part (g / 64)).st = .drain ∧
          u.regF (partPage (g / 64) oRelStatus) 15 8 = Source.drainKill.code))

/-- Commands of kernel rings (11 R414, R421, R440; 17 R650): the next command in validation order stops a partition's
user dispatch, releases a partition, starts its reset, cancels a ring's tasks, installs a version of a stored
program or removes its current one; each ends OK when its effect is complete,
and a stop or a cancellation that had to wait ends when no task is left that it waited for. -/
def Obligations.RingCommands : Prop :=
  (∀ (s : State) (g op : Nat) (k : Pkt), g < 1024 → s.cmdReady g op = some k → s.pkt g k.count = some k →
    k.version = 0 → s.ringGood g = true → s.plain (s.ringCbase g + 32 * (k.count % s.ringSize g)) 32 = true →
    let own := g / 64
    let p := fld (k.w 1) 3 0
    let x := 64 * own + fld (k.w 1) 5 0
    let id := fld (k.w 1) 7 0
    let held (u : State) : Prop := ∃ k', u.pkt g k.count = some k' ∧ k'.st = .busy
    let ok (u : State) : Prop := endedAs s u g k.count .ok 0 0x7FF
    let ext (y : Part) (d : List Byte) : Part := { y with pmr := sha384 (y.pmrBytes ++ d) }
    (op = 1 → ∃ u, exec (.partStop g) s = .next u ∧ u.fe.stopped.contains p = true ∧
      (s.userRuns p = true → held u ∧ u.mem = s.mem) ∧ (s.userRuns p = false → ok u)) ∧
    (op = 2 → s.twinOk (partPage p oLtr) = true → ∃ u, exec (.partRelease g) s = .next u ∧ ok u ∧
      ((s.firstOk p = true ∨ ((s.part p).released = true ∧ (s.part p).st = .held ∧ s.mayRelease = true)) →
        (u.part p).st = .normal ∧ (u.part p).released = true ∧ u.fe.stopped.contains p = false ∧
        (u.part p).pmr = (ext (ext { pmr := List.replicate 48 0 } (toBytesLE 8 (s.reg (rSecMap p)).toNat))
          (toBytesLE 8 (s.partLocks p))).pmr) ∧
      ((s.part p).released = true → (s.part p).st = .normal →
        (s.fe.stopped.contains p = true → u.fe.stopped = s.fe.stopped.filter (· != p) ∧ u.sec.logNext = s.sec.logNext) ∧
        (s.fe.stopped.contains p = false → u.sec.logNext = s.sec.logNext + 1 ∧ u.part p = s.part p))) ∧
    (op = 3 → ∃ u, exec (.partReset g) s = .next u ∧ held u ∧ (u.part p).seqOn = true ∧ (u.part p).st = (s.part p).st ∧
      ((s.part p).seqOn = false → (u.part p).seqRust = false ∧ (u.part p).rustAt = s.now ∧
        ∀ g' n k', g' / 64 = p → u.pkt g' n = some k' →
          k'.st ≠ .running ∧ k'.st ≠ .valid ∧ k'.st ≠ .fetched)) ∧
    (op = 4 → ∃ u, exec (.cancel g) s = .next u ∧
      (s.ringTasks x = [] → ok u) ∧
      (s.ringTasks x ≠ [] → held u ∧ ∀ n k', (x, n) ≠ (g, k.count) → s.pkt x n = some k' → k'.st = .running →
        ∃ k'', u.pkt x n = some k'' ∧ k''.st = .draining 2 s.now ∧ k''.result = .cancelled)) ∧
    (op = 9 →
      let n := nextVersion (SMap.get 0 s.fe.progLast (256 * own + id))
      ∃ u, exec (.progPatch g) s = .next u ∧ ok u ∧
        u.currentProg own id = some ⟨id, n, fld (k.w 2) 47 0, fld (k.w 3) 11 0 + 1, true, 0⟩ ∧
        ∀ y ∈ SMap.get [] s.fe.progs own, y.live ≠ 0 →
          (if y.id = id then { y with current := false } else y) ∈ SMap.get [] u.fe.progs own) ∧
    (op = 0xA → ∃ u, exec (.progRemove g) s = .next u ∧ ok u ∧ u.currentProg own id = none)) ∧
  (∀ (s : State) (g : Nat) (k : Pkt), s.readyHead g = some k → k.opcode = 9 →
    4 ≤ s.livePrograms (g / 64) (fld (k.w 1) 7 0) → exec (.progPatch g) s = .next s) ∧
  (∀ (s : State) (g : Nat) (k : Pkt), s.feRuns = true → s.pkt g k.count = some k → s.ringGood g = true →
    (s.cmdReady g 1 = none → s.cmdBusy g 1 = some k → s.userRuns (fld (k.w 1) 3 0) = false →
      ∃ u, exec (.partStop g) s = .next u ∧ endedAs s u g k.count .ok 0 0x7FF) ∧
    (s.cmdReady g 4 = none → s.cmdBusy g 4 = some k → s.ringTasks (64 * (g / 64) + fld (k.w 1) 5 0) = [] →
      ∃ u, exec (.cancel g) s = .next u ∧ endedAs s u g k.count .ok 0 0x7FF))

/-- LOCK_WR and the time commands (16 R616; 13 R512): LOCK_WR compares value and complement, then checks the reach of
its ring and that no WL field is cleared, and only then writes, past every lock; TIME_STEP sets the counter and
TIME_SLEW the rate of a free-running module, and any other module ignores them and says so. -/
def Obligations.LockWriteAndTimeCommands : Prop :=
  ∀ (s : State) (g op : Nat) (k : Pkt), g < 1024 → s.cmdReady g op = some k → s.pkt g k.count = some k →
    s.ringGood g = true →
    let a := (k.w 1).toNat
    let v := k.w 2
    let w := Writer.lockWr (g / 64) (s.ringSys g)
    let src := s.regF rTimCfg 1 0
    (op = 8 → s.checkRingLocks g = s →
      (k.w 3 ≠ ~~~ v → ∃ u, exec (.lockWr g) s = .next u ∧ endedAs s u g k.count .fault Exc.complement.code 0x7FF ∧
        u.sec.logNext ≠ s.sec.logNext) ∧
      (k.w 3 = ~~~ v → (s.permits w a true = false ∨ s.clearsWl a v = true) → s.regF rSecCfg 0 0 = 0 →
        ∃ u, exec (.lockWr g) s = .next u ∧ endedAs s u g k.count .fault Exc.priv.code 0x7FF ∧
          HostMsg.msix (128 * (g / 64) + 66) ∈ u.host) ∧
      (k.w 3 = ~~~ v → s.permits w a true = true → s.clearsWl a v = false →
        let s' := s.lockedWrite w a v (k.w 3)
        (s'.pkt g k.count).isSome = true → s'.ringGood g = true →
        ∃ u, exec (.lockWr g) s = .next u ∧ endedAs s' u g k.count .ok 0 0x7FF)) ∧
    (op = 0x10 → src = 0 →
      let s' := { s with time := { s.time with ctr := (a * 2 ^ 16 + fld v 15 0) * 2 ^ 32, locked := true } }
      ∃ u, exec (.timeStep g) s = .next u ∧ u.time = s'.time ∧ endedAs s' u g k.count .ok 0 0x7FF ∧
        u.regF rTimStatus 63 32 = min 0xFFFFFFFF (s.regF rTimStatus 63 32 + 1)) ∧
    (op = 0x11 → src = 0 → ∃ u, exec (.timeSlew g) s = .next u ∧ u.time = { s.time with rate := (k.w 1).toInt } ∧
      endedAs s u g k.count .ok 0 0x7FF) ∧
    (op = 0x10 → src ≠ 0 → ∃ u, exec (.timeStep g) s = .next u ∧ u.time = s.time ∧ u.regF rTimStatus 4 4 = 1 ∧
      endedAs s u g k.count .ok 0 0x7FF) ∧
    (op = 0x11 → src ≠ 0 → ∃ u, exec (.timeSlew g) s = .next u ∧ u.time = s.time ∧ u.regF rTimStatus 4 4 = 1 ∧
      endedAs s u g k.count .ok 0 0x7FF)

/-- SIT (11 R431 to R434; 16 R630): the command starts sit mode when its packet is validated; its broadcast reaches each tile once and stops the
contexts of the tiles that are powered; each such tile reports when it is quiet, and the last one ends the measured
latency; then the running tasks end with RESULT SIT and the command ends. -/
def Obligations.SitMode : Prop :=
  ∀ (s : State),
    (∀ g k i, s.feRuns = true → s.pkt g k.count = some k → k.isCmd = true → k.opcode = 0x20 → s.fe.sit.cmd = none →
      s.twinOk rPwrLtr = true → s.sec.inj.armed = false →
      ((s.ring g).pkts.find? (fun k => k.st = .fetched) = some k ∧ k.badFormat = false ∧ k.badComplement = false ∧
          s.badPriv g k = false ∧ (i = .packetValidate g ∨ (i = .sit g ∧ s.sitWaits g = none))) ∨
        (s.sitWaits g = some k ∧ i = .sit g) →
      ∃ u k', exec i s = .next u ∧ u.pkt g k.count = some k' ∧ k'.st = .busy ∧ u.fe.sit.on = true ∧
        u.fe.sit.done = false ∧ u.fe.sit.cmd = some ⟨g, k.count⟩ ∧ u.fe.sit.toReach = List.range 1152 ∧
        u.fe.sit.toReport = [] ∧ u.fe.sit.began = k.dbAt ∧ u.regF rMgtAlert 5 5 = 1 ∧ u.regF rSecBoot 23 20 = 5 ∧
        u.mem = s.mem ∧ u.tiles = s.tiles ∧
        (∀ r ∈ s.allTasks, r.ring < 1024 → r ≠ ⟨g, k.count⟩ → bit (u.reg (partPage (r.ring / 64) oHangLog)) 38 = true ∧
          fld (u.reg (partPage (r.ring / 64) oHangLog)) 36 35 = 3)) ∧
    (∀ t, t ∈ s.fe.sit.toReach →
      ∃ u, exec (.sitTileArrive t) s = .next u ∧ u.fe.sit.toReach = s.fe.sit.toReach.erase t ∧
        u.mem = s.mem ∧ (∀ a, a ≠ tilePage t oNumFlags → u.reg a = s.reg a) ∧ (∀ j, j ≠ t → u.tile j = s.tile j) ∧
        u.fe.sit.lat = (if u.fe.sit.toReach = [] ∧ u.fe.sit.toReport = [] then (s.now - s.fe.sit.began) % 2 ^ 32
          else s.fe.sit.lat) ∧
        ((s.tile t).pwr.st = .ivory → u.fe.sit.toReport = s.fe.sit.toReport ++ [t] ∧
          (∀ b, (s.ctx t b).st ≠ .idle → (u.ctx t b).st = .draining ∧ (u.ctx t b).wait = .none) ∧
          (u.herder t).park = [] ∧ (u.herder t).launches = [] ∧ (u.tile t).drn = [] ∧ (u.tile t).sfu = []) ∧
        ((s.tile t).pwr.st ≠ .ivory → u.fe.sit.toReport = s.fe.sit.toReport ∧ u.tile t = s.tile t)) ∧
    (∀ t, t ∈ s.fe.sit.toReport → (s.tile t).sitQuiet = true →
      exec (.sitTileReport t) s = .next { s with fe := { s.fe with sit :=
        { s.fe.sit with
          toReport := s.fe.sit.toReport.erase t
          lat := if s.fe.sit.toReach = [] ∧ s.fe.sit.toReport.erase t = [] then (s.now - s.fe.sit.began) % 2 ^ 32
            else s.fe.sit.lat } } }) ∧
    (∀ c k, s.fe.sit.cmd = some c → s.pkt c.ring c.count = some k → s.fe.sit.toReach = [] → s.fe.sit.toReport = [] →
      ∃ u k', exec .sitComplete s = .next u ∧ u.pkt c.ring c.count = some k' ∧ k'.st = .ended ∧ k'.result = .ok ∧
        u.fe.sit.on = s.fe.sit.on ∧ u.fe.sit.done = true ∧ u.fe.sit.cmd = none ∧
        u.fe.sit.lat = s.fe.sit.lat ∧ u.power.override = false ∧
        ∀ r ∈ s.allTasks, r ≠ c → ∀ j, s.pkt r.ring r.count = some j →
          ∃ j', u.pkt r.ring r.count = some j' ∧ j'.st = .ended ∧ j'.result = .sit)

/-! ## Registers -/

/-- Writes of registers (00 R11 to R13; 16 R607, R613, R617): a hidden register, a width other than 8 or 4 bytes and a
read-only register are left as they are; a writer that the register's page does not admit, or a write to a register
that is locked whole, is a violation and writes nothing (a herder's is refused before); a reserved bit or encoding
discards the write and is logged; and otherwise each bit follows its field's type: RW takes the written bit, W1C is
cleared by a 1, WL is set by a 1, and every other bit keeps its value. -/
def Obligations.RegisterWriteRules : Prop :=
  ∀ (s : State) (w : Writer) (a : Nat) (c : Acc) (v : Word),
    let gives (u : State) : Prop := exec (.registerWrite w a c v) s = .next u
    let m := c.mask
    let p := c.place v
    ((s.jetHides w a = true ∨ s.sitHides w a = true) → gives s) ∧
    (s.jetHides w a = false → s.sitHides w a = false → s.permits w a true = false →
      (∀ t l, w = .herder t l → gives s) ∧ ((∀ t l, w ≠ .herder t l) → gives (s.violation w a))) ∧
    (s.lets w a →
      (c = .other ∨ a % 8 ≠ 0 → gives s) ∧
      (c ≠ .other → a % 8 = 0 → findReg a = none → (p = 0 → gives s) ∧ (p ≠ 0 → gives (s.config (w.owner s) a))) ∧
      (∀ r, c = .full → findReg a = some r → s.checkLocks a = s →
        (s.lockedFor w a ≠ 0 → r.writable &&& ~~~ s.lockedFor w a = 0 → gives (s.violation w a)) ∧
        (s.lockedFor w a = 0 → isRoute a = false → r.cwMask = 0 → a ≠ rRelInjCtl → r.refuses v allBits v = true →
          gives (s.config (w.owner s) a)) ∧
        (s.lockedFor w a = 0 → isRoute a = false → r.writable = 0 → r.refuses v allBits v = false → gives s))) ∧
    (s.takes w a c v → plainReg a → ∀ r, findReg a = some r →
      ∃ x, gives (s.setReg a x) ∧ ∀ i, i < 64 →
        x.getLsbD i =
          if (r.maskOfTy .rw).getLsbD i && m.getLsbD i then p.getLsbD i
          else if (r.maskOfTy .w1c).getLsbD i then (s.reg a).getLsbD i && !p.getLsbD i
          else if (r.maskOfTy .wl).getLsbD i then (s.reg a).getLsbD i || p.getLsbD i
          else (s.reg a).getLsbD i)

/-- Complement-stored registers (00 R14; 16 R621): a write of the value waits, and the write of its twin installs the
pair when every CW bit differs, in the register and twin or in their shadows where the register is staged; a twin
that does not match, or that no value waits for, installs nothing and is logged. -/
def Obligations.ComplementPairs : Prop :=
  ∀ (s : State) (w : Writer) (a : Nat) (r : Reg) (v : Word), findReg a = some r → r.cwMask ≠ 0 → r.isTwin = false →
    (s.takes w a .full v → s.cwHeld a = false →
      exec (.cwWrite w a .full v) s = .next { s with cwPend := SMap.set s.cwPend a v }) ∧
    (s.takes w (a + 8) .full v → s.cwHeld (a + 8) = false →
      (SMap.find s.cwPend a = none → exec (.cwTwinWrite w (a + 8) .full v) s = .next (s.compWrite (w.owner s) (a + 8))) ∧
      (∀ x, SMap.find s.cwPend a = some x → (x ^^^ v) &&& r.cwMask ≠ r.cwMask →
        exec (.cwTwinWrite w (a + 8) .full v) s
          = .next (State.compWrite { s with cwPend := SMap.erase s.cwPend a } (w.owner s) (a + 8))) ∧
      (∀ x, SMap.find s.cwPend a = some x → (x ^^^ v) &&& r.cwMask = r.cwMask → a ≠ rPwrJet →
        ∃ u, exec (.cwTwinWrite w (a + 8) .full v) s = .next u ∧ SMap.find u.cwPend a = none ∧
          (r.staged = false → u.reg a = x ∧ u.reg (a + 8) = v ∧ u.shadow = s.shadow) ∧
          (r.staged = true → u.shadowOf a = x ∧ u.shadowOf (a + 8) = v ∧ u.regs = s.regs)))

/-- Writes that act on tiles and partitions (09 R355, R356, R364; 10 R393, R399, R401; 16 R622, R623, R635, R636,
R644): resuming or killing a faulted stream, clearing RTV_FAULT, committing channel scales, invalidating
translations, switching encryption, and extending a measurement register. -/
def Obligations.TileAndPartitionWrites : Prop :=
  ∀ (s : State) (w : Writer) (t p : Nat) (v : Word), t < 1152 → p < 16 →
    let page := partPage p
    (s.takes w (tilePage t oRtvCtl) .full v → ∀ q x, q < 8 → (s.tile t).retr.faulted q = some x →
      (v = BitVec.ofNat 64 (2 ^ q) →
        exec (.rtvResume w t .full v) s = .next (s.modStrm t x.kctx x.serial (fun y => { y with fault := none }))) ∧
      (v = BitVec.ofNat 64 (2 ^ (8 + q)) →
        exec (.rtvKill w t .full v) s
          = .next (s.failStrm t x.kctx x.serial .xlate ((x.fault.map (·.va)).getD 0)))) ∧
    (s.takes w (tilePage t oRtvFault) .full 8 → bit (s.reg (tilePage t oRtvFault)) 3 = true →
      let waiting := ((List.range 8).filterMap (s.tile t).retr.faulted).filter (fun x =>
        (x.fault.map (fun f => !f.reported)).getD false)
      ∃ u, exec (.rtvFaultClear w t .full 8) s = .next u ∧ u.mem = s.mem ∧
        (waiting = [] → u = s.setReg (tilePage t oRtvFault) (s.reg (tilePage t oRtvFault) &&& ~~~ 8)) ∧
        (∀ x xs f, waiting = x :: xs → x.fault = some f →
          u.reg (tilePage t oRtvFaultVa) = BitVec.ofNat 64 f.va ∧ bit (u.reg (tilePage t oRtvFault)) 3 = true)) ∧
    (∀ k, k < 4 → s.takes w (tilePage t oSclCommit) .full v → k ∉ (s.tile t).pack.sclPend →
      let regs := (List.range 8).map (fun n => tilePage t (oScl k n))
      let good := ∀ a ∈ regs, s.shadowOf a = ~~~ s.shadowOf (a + 8)
      (v = BitVec.ofNat 64 (2 ^ k) ∨ (v = BitVec.ofNat 64 (2 ^ k + 2 ^ (4 + k)) ∧ s.arrIdle t k = true) →
        ∃ u, exec (.qntSclCommit w t .full v) s = .next u ∧
          (∀ a ∈ regs, SMap.find u.shadow a = none ∧ SMap.find u.shadow (a + 8) = none) ∧
          (good → ∀ a ∈ regs, u.reg a = s.shadowOf a ∧ u.reg (a + 8) = s.shadowOf (a + 8)) ∧
          (¬ good → (∀ a ∈ regs, u.reg a = s.reg a) ∧ u.sec.logNext = s.sec.logNext + 1)) ∧
      (v = BitVec.ofNat 64 (2 ^ k + 2 ^ (4 + k)) → s.arrIdle t k = false →
        ∃ u, exec (.qntSclCommit w t .full v) s = .next u ∧
          (u.tile t).pack.sclPend = (s.tile t).pack.sclPend ++ [k] ∧ u.regs = s.regs ∧ u.shadow = s.shadow)) ∧
    (s.takes w (page oXltInv) .full 1 →
      exec (.xltInvalidate w p .full 1) s = .next (s.modPart p (fun x => { x with invBusy := true }))) ∧
    ((s.part p).invBusy = true → ∃ u, exec (.xltInvalidateDone p) s = .next u ∧ (u.part p).invBusy = false ∧
      (∀ j e, e ∈ (u.tile j).retr.cache ↔ e ∈ (s.tile j).retr.cache ∧ e.part ≠ p) ∧
      (∀ e, e ∈ u.fe.cache ↔ e ∈ s.fe.cache ∧ e.part ≠ p) ∧ u.mem = s.mem ∧ u.regs = s.regs) ∧
    (s.takes w (page oCryptCtl) .full v →
      (s.partBusy p = true → exec (.cryptEnable w p .full v) s = .next (s.config (w.owner s) (page oCryptCtl))) ∧
      (s.partBusy p = false → ∃ u, exec (.cryptEnable w p .full v) s = .next u ∧
        u.regF (page oCryptCtl) 0 0 = v.toNat ∧ u.mem = s.mem ∧
        (v = 0 → s.regF (page oCryptCtl) 0 0 = 1 → (u.part p).key = 0) ∧
        (v.toNat = s.regF (page oCryptCtl) 0 0 → (u.part p).key = (s.part p).key) ∧
        (v = 1 → s.regF (page oCryptCtl) 0 0 = 0 → s.freeCtr < u.freeCtr))) ∧
    (s.takes w (page oPmrCtl) .full 1 →
      ((s.part p).pmrBusy = true → exec (.extend w p .full 1) s = .next (s.config (w.owner s) (page oPmrCtl))) ∧
      ((s.part p).pmrBusy = false → exec (.extend w p .full 1) s = .next (s.modPart p (fun x =>
        { x with pmr := sha384 ((s.part p).pmrBytes ++ s.extBytes p), pmrBusy := true })))) ∧
    ((s.part p).pmrBusy = true →
      exec (.pmrExtendDone p) s = .next (s.modPart p (fun x => { x with pmrBusy := false })))

/-- Doorbells and ring configuration (11 R404, R405, R436, R439): a 64-bit doorbell whose halves are complements
advances TAIL up to the ring's size beyond DONE; a ring that is off and a TAIL out of range set the error code and
fire the vector, a bad complement is logged; EN rises only for a configured ring over an allowed group and clears
the counts, and falls only on an empty ring. -/
def Obligations.DoorbellsAndRingConfig : Prop :=
  ∀ (s : State) (w : Writer) (g : Nat) (v : Word), g < 1024 →
    let r := s.ring g
    let a := ringReg g oRingCfg
    let tail := fld v 31 0
    let dist (x y : Nat) : Nat := (x + 2 ^ 32 - y) % 2 ^ 32
    let failed (u : State) (e : Nat) : Prop := u.regF (ringReg g oRingStat) 0 0 = 1 ∧
      u.regF (ringReg g oRingStat) 23 16 = e ∧ HostMsg.msix (128 * (g / 64) + g % 64) ∈ u.host ∧ u.fe = s.fe
    (s.takes w (ringReg g oRingDb) .full v →
      (s.ringEn g = false → ∃ u, exec (.ringDoorbell w g .full v) s = .next u ∧ failed u 2 ∧
        u.sec.logNext = s.sec.logNext + 1) ∧
      (s.ringEn g = true → s.ringGood g = true →
        (fld v 63 32 ≠ complN 32 tail →
          exec (.ringDoorbell w g .full v) s = .next (s.compWrite (w.owner s) (ringReg g oRingDb))) ∧
        (fld v 63 32 = complN 32 tail →
          (s.ringSize g < dist tail r.done ∨ dist tail r.done < dist tail r.tail →
            ∃ u, exec (.ringDoorbell w g .full v) s = .next u ∧ failed u 1) ∧
          (dist tail r.done ≤ s.ringSize g → dist tail r.tail ≤ dist tail r.done → tail ≠ r.tail →
            ∃ u, exec (.ringDoorbell w g .full v) s = .next u ∧ (u.ring g).tail = tail ∧
              (u.ring g).countsOk = true ∧ (u.ring g).bells = r.bells ++ [(tail, s.now)] ∧ (u.ring g).pkts = r.pkts ∧
              (∀ j, j ≠ g → u.ring j = s.ring j) ∧ u.regs = s.regs ∧ u.mem = s.mem)))) ∧
    (s.lets w a → s.checkLocks a = s → bit (s.lockedFor w a) 0 = false →
      (∀ i, findReg a = some i →
        i.refuses v allBits v = false ∧ touchesLock i (s.regNow a) v allBits (s.lockedFor w a) = false) →
      (s.ringEn g = false → bit v 0 = true →
        (r.baseWritten = true → r.cbaseWritten = true → s.groupOk g = true →
          ∃ u, exec (.feRingCfgWrite w g .full v) s = .next u ∧ u.ringEn g = true ∧ (u.ring g).tail = 0 ∧
            (u.ring g).fetched = 0 ∧ (u.ring g).done = 0 ∧ (u.ring g).pkts = [] ∧ (u.ring g).broken = false ∧
            (u.ring g).countsOk = true ∧ u.mem = s.mem ∧ (∀ b, b ≠ a → u.reg b = s.reg b)) ∧
        (r.baseWritten = false ∨ r.cbaseWritten = false ∨ s.groupOk g = false →
          exec (.feRingCfgWrite w g .full v) s = .next (s.config (w.owner s) a))) ∧
      (s.ringEn g = true → v = s.reg a - 1 → s.lockedFor w a = 0 →
        (r.done = r.tail → exec (.feRingCfgWrite w g .full v) s = .next (s.setReg a v)) ∧
        (r.done ≠ r.tail → exec (.feRingCfgWrite w g .full v) s = .next (s.config (w.owner s) a))))

/-! ## Links -/

/-- Training (12 R449 to R453, R478, R480, R486, R488): each event takes the link from the state in which it is
expected to the next one, or to DOWN with the reason of the check that failed; a link that has been ACTIVE before
is routed again only with AUTO or by REJOIN, and never after a mismatch of the expected ID. -/
def Obligations.LinkTraining : Prop :=
  ∀ (s : State) (k : Nat), k < 36 →
    let l := s.linkOf k
    let sets (i : Instr) (f : Link → Link) : Prop := exec i s = .next (s.modLink k f)
    let down (i : Instr) (r : DownReason) : Prop := ∃ u, exec i s = .next u ∧ wentDown k r s u
    (l.st = .detect → sets (.signalDetect k) (fun l => { l with st := .equalize })) ∧
    (∀ loss, l.st = .equalize →
      sets (.equalizeDone k loss) (fun l => { l with st := .align, loss := min loss 0x3FF })) ∧
    (∀ ploss lanes planes pfull, l.st = .align →
      let worst := max l.loss ploss
      let both := lanes % 256 &&& planes % 256
      (400 < worst → down (.alignDone k ploss lanes planes pfull) .loss) ∧
      (worst ≤ 400 → both &&& 0x0F ≠ 0x0F → both &&& 0xF0 ≠ 0xF0 → down (.alignDone k ploss lanes planes pfull) .lanes) ∧
      (worst ≤ 400 → (both &&& 0x0F = 0x0F ∨ both &&& 0xF0 = 0xF0) →
        ∃ u, exec (.alignDone k ploss lanes planes pfull) s = .next u ∧ onlyLink k s u ∧ (u.linkOf k).st = .caps ∧
          (u.linkOf k).lanes = (if both = 0xFF then 0xFF else if both &&& 0x0F = 0x0F then 0x0F else 0xF0) ∧
          (u.linkOf k).narrow = decide (both ≠ 0xFF) ∧
          ((u.linkOf k).slow = false ↔ worst ≤ 300 ∧ pfull = true ∧ s.regF (linkReg k 0) 5 4 = 0))) ∧
    (∀ c, s.lcf k 4 = some c → l.st = .caps →
      (s.capsReject c.caps = none → ∃ u, exec (.caps k) s = .next u ∧ onlyLink k s u ∧
        (u.linkOf k).st = .measure ∧ (u.linkOf k).partner = Partner.ofRecord c.caps) ∧
      (∀ r, s.capsReject c.caps = some r → down (.caps k) r)) ∧
    (∀ sum, l.st = .measure → ∃ u, exec (.measureDone k sum) s = .next u ∧ ∃ rtt fl : Nat,
      64 * rtt ≤ sum + 32 ∧ sum ≤ 64 * rtt + 32 ∧ 2 * fl ≤ rtt + 1 ∧ rtt ≤ 2 * fl + 1 ∧
      (10000 < fl → wentDown k .long s u) ∧
      (fl ≤ 10000 → (u.linkOf k).st = .active ∧ (u.linkOf k).rtt = min rtt 0xFFFF ∧ (u.linkOf k).flight = fl ∧
        (u.linkOf k).nextSeq = 0 ∧ (u.linkOf k).ack = 0xFFF ∧ (u.linkOf k).kept = [] ∧ (u.linkOf k).pos = 0 ∧
        ((u.linkOf k).routed = true ↔ s.mgt.xstop = false ∧ (s.regF (linkReg k 0) 3 3 = 1 ∨ l.wasActive = false)))) ∧
    ((l.st = .equalize ∨ l.st = .align ∨ l.st = .caps ∨ l.st = .measure) →
      (2 ≤ l.returns → down (.trainBoundExpiry k) .train) ∧
      (l.returns < 2 → ∃ u, exec (.trainBoundExpiry k) s = .next u ∧ onlyLink k s u ∧ (u.linkOf k).st = .detect ∧
        (u.linkOf k).returns = l.returns + 1)) ∧
    (l.st = .narrow → down (.trainBoundExpiry k) .ladder) ∧
    (l.st ≠ .disabled → l.st ≠ .detect → l.st ≠ .down → down (.signalLoss k) .signal) ∧
    (l.st = .down → (l.reason = .signal ∨ l.reason = .ladder ∨ l.reason = .partner) →
      ∃ u, exec (.linkRetrainTimer k) s = .next u ∧ onlyLink k s u ∧ (u.linkOf k).st = .detect) ∧
    (∀ w v, s.takes w (linkReg k 0) .full v →
      (bit v 0 = true → bit v 1 = false → bit v 2 = false → l.st = .disabled → s.linksMayTrain = true →
        ∃ u, exec (.linkEnable w k .full v) s = .next u ∧ (u.linkOf k).st = .detect ∧ (u.linkOf k).returns = 0) ∧
      (bit v 0 = false → bit v 1 = false → bit v 2 = false → l.st ≠ .disabled →
        ∃ u, exec (.linkEnable w k .full v) s = .next u ∧ (u.linkOf k).st = .disabled ∧
          (u.linkOf k).reason = .disabled ∧ u.mem = s.mem) ∧
      (bit v 0 = true → bit v 1 = true → bit v 2 = false →
        (l.st = .down → ∃ u, exec (.retrain w k .full v) s = .next u ∧ (u.linkOf k).st = .detect ∧
          (u.linkOf k).returns = 0) ∧
        (l.st ≠ .down → l.st ≠ .disabled → ∃ u, exec (.retrain w k .full v) s = .next u ∧ u.linkOf k = l ∧
          u.sec.logNext = s.sec.logNext + 1)) ∧
      (bit v 0 = true → bit v 1 = false → bit v 2 = true → l.st = .active →
        ∃ u, exec (.rejoin w k .full v) s = .next u ∧ (u.linkOf k).st = .active ∧
          (u.linkOf k).routed = (l.routed || !s.mgt.xstop)))

/-- Flits and replay (12 R446 to R448, R455 to R462, R467, R476): a flit leaves as eight blocks, twenty blocks as a
codeword that the generator divides and from which the blocks read back; four streams of symbols interleave to a
codeword; each flit that leaves is well formed; a new DATA flit takes the next SEQ and is kept until it is
acknowledged; a received codeword is decoded, its corrected symbols counted, and one that does not decode is counted
and marks its blocks; a DATA flit in order is accepted and its transactions are received; one out of order sets NAK; a
flit that fails its check is counted, and an ACK frees what it covers; the replay timer resends everything kept, up to
eight attempts, and then asks for half the lanes or gives the link up. -/
def Obligations.FlitsAndReplay : Prop :=
  (∀ bl : List (BitVec 257), bl.length = 20 →
    let cw := (blocksCodeword bl).map (·.toNat)
    linkCode.isCodeword cw = true ∧ cw.length = 544 ∧ codewordBlocks cw = bl) ∧
  (∀ (n : Nat) (a b c d : List (BitVec 10)), a.length = n → b.length = n → c.length = n → d.length = n →
    (unstripe a b c d).length = 4 * n ∧
    ∀ i, i < n → [(unstripe a b c d).getD (4 * i) 0, (unstripe a b c d).getD (4 * i + 1) 0,
      (unstripe a b c d).getD (4 * i + 2) 0, (unstripe a b c d).getD (4 * i + 3) 0] =
      [a.getD i 0, b.getD i 0, c.getD i 0, d.getD i 0]) ∧
  (∀ w c fixed, linkCode.decode w = some (c, fixed) → linkCode.isCodeword c = true ∧ fixed.length ≤ 15 ∧
    ∀ i, i < 544 → (i ∈ fixed ↔ w.getD i 0 ≠ c.getD i 0)) ∧
  ∀ (s : State) (k : Nat), k < 36 →
    let l := s.linkOf k
    let v := s.retryStuck k
    let m := v.linkOf k
    let cnt (u : State) (hi lo : Nat) : Nat := u.regF (linkReg k 0x20) hi lo
    let kind (u : State) : Nat := nfld (ofBytesLE ((u.linkOf k).flit.take 16)) 3 0
    let whole (u : State) : Prop :=
      let q := m.blocks ++ flitBlocks (u.linkOf k).flit
      flitGood (u.linkOf k).flit false = true ∧
      (q.length < 20 → (u.linkOf k).blocks = q ∧ (u.linkOf k).wire = []) ∧
      (20 ≤ q.length → (u.linkOf k).blocks = q.drop 20 ∧ (u.linkOf k).wire = [blocksCodeword (q.take 20)])
    (m.st = .active → v.sec.inj.armed = false → (m.replay = none ∨ m.kept ≠ []) →
      ∃ u, exec (.flitTransmit k) s = .next u ∧ u.mem = v.mem ∧
        (m.pos % 35 = 34 → (u.linkOf k).pos = m.pos + 1 ∧ kind u = 3 ∧ (m.lcfOut.cmd ≠ 2 → whole u) ∧
          (u.linkOf k).st = (if m.lcfOut.cmd = 2 then .narrow else .active)) ∧
        (m.pos % 35 ≠ 34 → m.replay = none →
          let f := m.fill
          whole u ∧ (u.linkOf k).pos = m.pos + 1 ∧
          ((f.slots = [] ∨ 512 ≤ m.kept.length) → kind u = 2 ∧
            (u.linkOf k).kept = m.kept ∧ (u.linkOf k).txq = m.txq ∧ (u.linkOf k).nextSeq = m.nextSeq) ∧
          (f.slots ≠ [] → m.kept.length < 512 → kind u = 1 ∧
            (u.linkOf k).kept = m.kept ++ [⟨m.nextSeq, f.slots, f.txns⟩] ∧
            (u.linkOf k).nextSeq = (m.nextSeq + 1) % 4096 ∧ (u.linkOf k).txq = f.left ∧ (u.linkOf k).cut = f.cut)) ∧
        (∀ n f, m.pos % 35 ≠ 34 → m.replay = some n → 0 < n → m.kept[m.kept.length - n]? = some f →
          (u.linkOf k).flit = m.dataFlit f v.txt false ∧ (u.linkOf k).kept = m.kept ∧ (u.linkOf k).pos = m.pos + 1 ∧
          (u.linkOf k).replay = if n = 1 then none else some (n - 1))) ∧
    (m.st = .caps → ∃ u, exec (.flitTransmit k) s = .next u ∧ onlyLink k v u ∧ whole u ∧ kind u = 3) ∧
    (∀ cw, cw ≠ [] →
      let x := s.takeCodeword k cw
      let gets (w : List Nat) (bad : Bool) : Prop := l.rxLock = true →
        (x.linkOf k).rxBlocks = l.rxBlocks ++ (codewordBlocks w).map (fun b => ⟨b, bad⟩)
      (∀ c fixed, linkCode.decode (cw.map (·.toNat)) = some (c, fixed) → gets c false ∧
        x.regF (linkReg k 0x28) 63 0 = min (2 ^ 64 - 1) (s.regF (linkReg k 0x28) 63 0 + fixed.length) ∧
        cnt x 47 32 = cnt s 47 32) ∧
      (linkCode.decode (cw.map (·.toNat)) = none → gets (cw.map (·.toNat)) true ∧
        cnt x 47 32 = min 0xFFFF (cnt s 47 32 + 1))) ∧
    (∀ a b c d stamp, l.receives = true →
      let x := s.takeCodeword k (unstripe a b c d)
      ((x.linkOf k).nextFlit = none →
        exec (.flitReceive k a b c d stamp) s = .next x ∧ exec (.lcfReceive k a b c d) s = .next x) ∧
      (∀ bytes bad, (x.linkOf k).nextFlit = some (bytes, bad) →
        (goodLcf bytes bad = true → exec (.flitReceive k a b c d stamp) s = .next x) ∧
        (goodLcf bytes bad = false → exec (.lcfReceive k a b c d) s = .next x))) ∧
    (∀ a b c d bytes bad stamp, l.st = .active →
      let x := s.takeCodeword k (unstripe a b c d)
      let w := x.linkOf k
      w.nextFlit = some (bytes, bad) → goodLcf bytes bad = false →
      let hdr := ofBytesLE (bytes.take 16)
      ∃ u, exec (.flitReceive k a b c d stamp) s = .next u ∧ u.mem = s.mem ∧
        (flitGood bytes bad = false → cnt u 15 0 = min 0xFFFF (cnt x 15 0 + 1) ∧ (u.linkOf k).rx = w.rx ∧
          (u.linkOf k).kept = w.kept ∧ (u.linkOf k).rxBlocks = w.rxBlocks.drop 8 ∧ tilesKept s u ∧
          (nfld hdr 3 0 = 1 → (u.linkOf k).nak = true)) ∧
        (flitGood bytes bad = true → nfld hdr 28 28 = 0 → (u.linkOf k).rxBlocks = w.rxBlocks.drop 8 ∧ tilesKept s u ∧
          (∀ i, w.kept.findIdx? (fun f => f.seq == nfld hdr 27 16) = some i → (u.linkOf k).kept = w.kept.drop (i + 1)) ∧
          (nfld hdr 3 0 = 1 → nfld hdr 15 4 = (w.ack + 1) % 4096 →
            let sl := w.part ++ flitSlots bytes
            (u.linkOf k).ack = nfld hdr 15 4 ∧ (u.linkOf k).nak = false ∧
            (u.linkOf k).part = (takeTxns sl.length sl).2 ∧
            (u.linkOf k).rx = w.rx ++ (takeTxns sl.length sl).1.map (fun x =>
              { txn := x, txt := ofBytesLE ((bytes.drop 240).take 8), stamp := stamp })) ∧
          (nfld hdr 3 0 = 1 → nfld hdr 15 4 ≠ (w.ack + 1) % 4096 → (u.linkOf k).nak = true ∧ (u.linkOf k).rx = w.rx))) ∧
    (l.st = .active → l.kept ≠ [] → l.replay = none → l.narrowReq = none → l.lcfOut.cmd ≠ 2 →
      ∃ u, exec (.replayTimer k) s = .next u ∧
        (l.attempts < 8 → (u.linkOf k).attempts = l.attempts + 1 ∧ (u.linkOf k).replay = some l.kept.length ∧
          (u.linkOf k).kept = l.kept ∧ (u.linkOf k).episode.isSome = true ∧
          cnt u 31 16 = min 0xFFFF (cnt s 31 16 + 1)) ∧
        (8 ≤ l.attempts → l.narrow = false → (u.linkOf k).lcfOut.cmd = 1 ∧ (u.linkOf k).narrowReq = some l.pickHalf ∧
          (u.linkOf k).kept = l.kept) ∧
        (8 ≤ l.attempts → l.narrow = true → wentDown k .ladder s u)) ∧
    (∀ a b c d bytes bad, (l.st = .active ∨ l.st = .caps ∨ l.st = .narrow) →
      ((s.takeCodeword k (unstripe a b c d)).linkOf k).nextFlit = some (bytes, bad) → goodLcf bytes bad = true →
      ∃ u, exec (.lcfReceive k a b c d) s = .next u ∧ u.mem = s.mem ∧
        (nfld (ofBytesLE (bytes.take 16)) 28 28 = 0 → ofBytesLE ((bytes.drop 0x10).take 1) ≠ 0 →
          (u.linkOf k).lcfIn = some ⟨ofBytesLE ((bytes.drop 0x10).take 1), ofBytesLE ((bytes.drop 0x11).take 1),
            ofBytesLE ((bytes.drop 0x12).take 2), (bytes.drop 0x40).take 32⟩))

/-- The commands of link-control flits (12 R459, R476, R477, R479, R486): a request for half the lanes is answered, and
loses to this end's own only when this end has the lower SERIAL; the answer takes both ends to NARROW, from which
the link returns to ACTIVE on four lanes and resends what it kept; a notice takes the link down; an ID is noted. -/
def Obligations.LinkControlCommands : Prop :=
  ∀ (s : State) (k : Nat), k < 36 →
    let l := s.linkOf k
    (∀ c, s.lcf k 1 = some c → l.st = .active → l.narrow = false → (l.narrowReq = none ∨ s.lowSerial k = false) →
      ∃ u, exec (.narrowReq k) s = .next u ∧ onlyLink k s u ∧ (u.linkOf k).lcfOut = { cmd := 2, arg := c.arg % 2 } ∧
        (u.linkOf k).half = c.arg % 2 ∧ (u.linkOf k).narrowReq = none ∧ (u.linkOf k).lcfIn = none) ∧
    (∀ c, s.lcf k 1 = some c → l.narrowReq.isSome = true → s.lowSerial k = true →
      exec (.narrowReq k) s = .next (s.modLink k (fun l => { l with lcfIn := none }))) ∧
    (∀ c h, s.lcf k 2 = some c → l.narrowReq = some h → l.st = .active → c.arg = h →
      ∃ u, exec (.narrowAck k) s = .next u ∧ (u.linkOf k).st = .narrow ∧ (u.linkOf k).half = h ∧
        (u.linkOf k).kept = l.kept ∧ u.regF (linkReg k 0x20) 55 48 = min 0xFF (s.regF (linkReg k 0x20) 55 48 + 1)) ∧
    (l.st = .narrow → ∃ u, exec (.narrowDone k) s = .next u ∧ onlyLink k s u ∧ (u.linkOf k).st = .active ∧
      (u.linkOf k).narrow = true ∧ (u.linkOf k).lanes = (if l.half = 0 then 0x0F else 0xF0) ∧
      (u.linkOf k).attempts = 0 ∧ (u.linkOf k).pos = 0 ∧ (u.linkOf k).kept = l.kept ∧
      (l.kept ≠ [] → (u.linkOf k).replay = some l.kept.length)) ∧
    (∀ c, s.lcf k 3 = some c → l.st ≠ .down → l.st ≠ .disabled →
      ∃ u, exec (.downNotice k) s = .next u ∧ wentDown k .partner s u) ∧
    (∀ c, s.lcf k 5 = some c → ∃ u, exec (.idUpdate k) s = .next u ∧ onlyLink k s u ∧
      (u.linkOf k).partner = { l.partner with id := c.id % 16384 } ∧ (u.linkOf k).lcfIn = none)

/-- Requests that arrive (12 R464 to R473; 16 R611, R612; 07 R246; 11 R405): one that is not admitted is answered
DENIED; one for another module goes on with HOPS one less, and back with NO_ROUTE when its HOPS or its routes end;
RD, WR and AADD act on memory and answer, HPUT offers its handle, a DOORBELL rings, and a chain beat goes behind
the earlier beats of its path. -/
def Obligations.RequestsOfOtherModules : Prop :=
  ∀ (s s1 : State) (k : Nat) (r : RxTxn),
    let x := r.txn
    let c := s1.touch x.addr
    let got (v : VC) (ty : TType) : Prop := s.takeRx k v (fun x => x.type == ty) = some (r, s1)
    let mine := s.link.en.devid ≠ 0x3FFF ∧ x.dst = s.link.en.devid
    let answered (i : Instr) (u : State) (st : TStat) (d : List Byte) : Prop := exec i s = .next (u.respondTo k x st d)
    let rows : List (Instr × VC × TType) :=
      [(.rd k, .req, .rd), (.wr k 0, .req, .wr), (.wr k 2, .sled, .wr), (.wr k 3, .chain, .wr), (.aadd k, .req, .aadd),
       (.hiricQadd k, .chain, .qadd), (.hiricList k, .chain, .list), (.hiricHput k, .req, .hput), (.doorbell k, .msg, .doorbell)]
    (∀ i ∈ rows, got i.2.1 i.2.2 →
      (mine → s.admitted x = false → answered i.1 s1 .denied []) ∧
      (s.link.en.devid ≠ 0x3FFF → x.dst ≠ s.link.en.devid → s.fe.sit.on = false →
        (0 < x.hops → ∀ j u, s1.sendTxn { x with hops := x.hops - 1 } = (some j, u) → exec i.1 s = .next u) ∧
        (0 < x.hops → ∀ u, s1.sendTxn { x with hops := x.hops - 1 } = (none, u) → x.type.isResp = false →
          answered i.1 u .noRoute []) ∧
        (x.hops = 0 → x.type.isResp = false →
          answered i.1 (s1.log .config Source.config.sev none k x.addr) .noRoute [])) ∧
      (s.link.en.devid = 0x3FFF → x.type.isResp = false → answered i.1 s1 .noRoute [])) ∧
    (got .req .rd → mine → s.admitted x = true → populated x.addr x.len = true → s.targetReady x.addr = true →
      s.clean x.addr x.len = true → answered (.rd k) c .ok (c.rawRead x.addr x.len)) ∧
    (got .req .wr → mine → s.admitted x = true → populated x.addr x.data.length = true → populated x.addr x.len = true →
      s.targetReady x.addr = true →
      (x.status ≠ 5 → answered (.wr k 0) (c.store x.addr x.data) .ok []) ∧
      (x.status = 5 → answered (.wr k 0) (c.poisonRange x.addr x.data.length) .ok [])) ∧
    (got .req .aadd → mine → s.admitted x = true → populated x.addr x.len = true → populated x.addr 8 = true →
      s.targetReady x.addr = true → s.clean x.addr 8 = true → x.status ≠ 5 →
      let old := c.rawRead x.addr 8
      answered (.aadd k) ((c.touch x.addr).store x.addr (toBytesLE 8 ((ofBytesLE old + ofBytesLE x.data) % 2 ^ 64))) .ok old) ∧
    (got .sled .wr → mine → s.admitted x = true → exec (.wr k 2) s = .next (s1.sledIn x.sledBeat)) ∧
    (∀ i ∈ [(Instr.wr k 3, TType.wr), (.hiricQadd k, .qadd), (.hiricList k, .list)], got .chain i.2 → mine →
      s.admitted x = true →
      let b := x.chainBeat
      let earlier := (s.beats ++ (s.tile b.dst).held).filter (fun y =>
        decide (y.dst = b.dst ∧ y.src = b.src ∧ y.srcDev = b.srcDev))
      (earlier ≠ [] → exec i.1 s = .next { s1 with beats := s.beats ++ [b] }) ∧
      (earlier = [] →
        (∀ u, s1.acceptBeat b.dst b = some u → exec i.1 s = .next u) ∧
        (s1.acceptBeat b.dst b = none → exec i.1 s = .next { s1 with beats := s.beats ++ [b] }))) ∧
    (got .req .hput → mine → s.admitted x = true →
      let t := x.addr % 2048
      let q := x.addr / 2048 % 8
      let l := SMap.get [] (s.herder t).hq q
      (s.tile t).pwr.st = .ivory →
      (l.length < 32 → answered (.hiricHput k) (s1.modHerder t (fun h => { h with
        hq := SMap.set h.hq q (l ++ [BitVec.ofNat 64 (ofBytesLE x.data)]) })) .ok []) ∧
      (32 ≤ l.length → answered (.hiricHput k) (s1.setRegF (tilePage t oHqStatus) (48 + q) (48 + q) 1) .refused [])) ∧
    (got .msg .doorbell → mine → s.admitted x = true →
      let g := x.addr % 1024
      answered (.doorbell k) (s1.ringBell (some (g / 64)) g (BitVec.ofNat 64 (ofBytesLE x.data))) .ok [])

/-- Responses that arrive (12 R466, R495; 07 R248, R249; 09 R326; 15 R573): each ends the outstanding request that its
tile and tag name; the link mailbox gets the status and the data, an accepted handle leaves its buffer and a refused
one stays, one denied or without a route raises NO_ROUTE (for DENIED the model's choice, log entry 97), data goes to its
stream, an acknowledged write ends, and what has lost its answer is a Rust error. A response carries its request's tile,
partition and tag back to the module it came from, on the first live port of the route from SRCTILE mod COUNT on (R470,
R471); one that finds no live port waits until there is one. -/
def Obligations.ResponsesEndRequests : Prop :=
  (∀ (s s1 : State) (k : Nat) (r : RxTxn) (o : Outst),
    let y := r.txn
    let ends : State := { s1.holdTimers with link := { s1.link with outst := s1.link.outst.erase o } }
    ∀ i ∈ [(Instr.rdr k, TType.rdr), (.wra k, .wra), (.aadr k, .aadr), (.qaa k, .qaa), (.hpa k, .hpa)],
      s.takeRx k .rsp (fun x => x.type == i.2) = some (r, s1) → s.link.en.devid ≠ 0x3FFF → y.dst = s.link.en.devid →
      (s1.link.outst.find? (fun o => o.tile == y.srcTile && o.tag == y.tag) = none → exec i.1 s = .next s1) ∧
      (s1.link.outst.find? (fun o => o.tile == y.srcTile && o.tag == y.tag) = some o →
        (o.what = .mailbox → o.tile = 0x7FF → y.status ≤ 3 → ∃ u, exec i.1 s = .next u ∧ u.link = ends.link ∧
          u.regF rMboxStat 4 0 = 2 + 4 * y.status ∧
          u.reg rMboxRdata = (if y.data = [] then s1.reg rMboxRdata else BitVec.ofNat 64 (ofBytesLE y.data))) ∧
        (o.tile < 1152 → y.status = 0 →
          (∀ t h rest, o.what = .handle t → (s1.herder t).out = h :: rest → h.sent = true →
            (Target.ofWord h.target).remote = true → h.tag = y.tag →
            exec i.1 s = .next ((ends.modHerder t (fun h => { h with out := rest })).pumpTile o.tile)) ∧
          (∀ t kc n x q, o.what = .rtvRead t kc n → s1.stream t kc n = some x →
            x.reads.find? (fun z => z.dev.isSome && z.tag == y.tag) = some q →
            exec i.1 s = .next ((ends.finishRead t x q (.ok y.data)).pumpTile o.tile)) ∧
          (∀ t kc n x q, o.what = .rtvWrite t kc n → s1.stream t kc n = some x →
            x.wout.find? (fun z => z.dev.isSome && z.tag == y.tag) = some q →
            exec i.1 s = .next ((ends.finishWrite t x (fun z => z.dev.isSome && z.tag == y.tag)).pumpTile o.tile)) ∧
          (∀ t kc n, (o.what = .drnWrite t kc n ∨ o.what = .chainBeat t kc n) →
            exec i.1 s = .next (ends.pumpTile o.tile)) ∧
          (∀ p, o.what = .poison p → exec i.1 s = .next (ends.pumpTile o.tile))) ∧
        (∀ t h rest, o.tile < 1152 → y.status = 1 → o.what = .handle t → (s1.herder t).out = h :: rest → h.sent = true →
          (Target.ofWord h.target).remote = true → h.tag = y.tag →
          exec i.1 s = .next ((ends.modHerder t (fun g => { g with
            out := { h with sent := false, refused := true } :: rest })).pumpTile o.tile)) ∧
        (∀ t h rest, o.tile < 1152 → (y.status = 2 ∨ y.status = 3) → o.what = .handle t → (s1.herder t).out = h :: rest →
          h.sent = true → (Target.ofWord h.target).remote = true → h.tag = y.tag →
          exec i.1 s = .next (((ends.modHerder t (fun g => { g with out := rest })).raise t h.kctx false .noRoute h.pc
            y.src 0).pumpTile o.tile)) ∧
        (∀ t kc n, o.tile < 1152 → y.status = 4 → o.what = .drnWrite t kc n → (s1.tile t).drn = [] →
          exec i.1 s = .next ((ends.rustError .lost y.part o.tile y.addr).pumpTile o.tile)))) ∧
  (∀ (s : State) (k j : Nat) (x : Txn) (st : TStat) (d : List Byte),
    let e := s.reg (routeAddr x.src)
    let y : Txn := { type := x.type.answer, dst := x.src, src := x.dst, srcTile := x.srcTile, part := x.part, tag := x.tag,
                     addr := x.addr, len := max 1 d.length, status := st.code, vc := .rsp, data := d,
                     hops := s.regF rLnkCfg 5 0 }
    (x.src = s.link.en.devid →
      s.respondTo k x st d = s.modLink k (fun l => { l with rx := l.rx ++ [{ txn := y, own := true }] })) ∧
    (x.src ≠ s.link.en.devid → x.src ≠ 0x3FFF → s.sec.inj.armed = false → routePairOk e = true →
      s.pickPort e x.srcTile = some j →
      s.respondTo k x st d = s.modLink j (fun l => { l with txq := l.txq ++ [y] })) ∧
    (x.src ≠ s.link.en.devid → x.src ≠ 0x3FFF → s.sec.inj.armed = false → routePairOk e = true →
      s.pickPort e x.srcTile = none →
      s.respondTo k x st d = { s with link := { s.link with stuck := s.link.stuck ++ [y] } }) ∧
    (∀ z, s.link.stuck = [z] → z.dst ≠ s.link.en.devid → z.dst ≠ 0x3FFF → s.sec.inj.armed = false →
      routePairOk (s.reg (routeAddr z.dst)) = true → s.pickPort (s.reg (routeAddr z.dst)) z.srcTile = some j →
      s.retryStuck k = { s with link := { s.link with stuck := [] } }.modLink j (fun l => { l with txq := l.txq ++ [z] })) ∧
    (∀ p, s.pickPort e x.srcTile = some p → s.live p = true ∧
      ∃ i, i < fld e 26 24 ∧ p = fld e (6 * ((x.srcTile + i) % fld e 26 24) + 5) (6 * ((x.srcTile + i) % fld e 26 24)) ∧
        ∀ i', i' < i → s.live (fld e (6 * ((x.srcTile + i') % fld e 26 24) + 5)
          (6 * ((x.srcTile + i') % fld e 26 24))) = false))

/-- Enumeration (12 R483 to R486): START makes the module the root with its own ID; a module without an ID takes that
of the token, one with an ID answers BUSY, and IDs above 3FFEH end in FAIL; the holder sends the token to its ACTIVE
links in rising order and, when none is left, is done or returns it to its parent. -/
def Obligations.Enumeration : Prop :=
  ∀ (s s1 : State) (k : Nat) (r : RxTxn),
    let e := s.link.en
    let w := ofBytesLE r.txn.data
    let n := nfld w 13 0
    let msg (u : State) (next kind cause : Nat) : Txn :=
      { type := .enum, vc := .msg, src := u.link.en.devid, len := 8,
        data := toBytesLE 8 (enumWord next kind cause u.link.en.rootId) }
    let queued (u : State) (j next kind cause : Nat) : Prop := ∃ l, (u.linkOf j).txq = l ++ [msg u next kind cause]
    let nextLink (parent : Option Nat) (lo : Nat) : Option Nat :=
      (List.range 36).find? (fun j => decide (lo ≤ j) && (s1.linkOf j).st == .active && parent != some j)
    let got (kind : Nat) : Prop := s.takeRx k .msg (isEnum kind) = some (r, s1)
    let visits (i : Instr) (lo next : Nat) : Prop := ∃ u, exec i s = .next u ∧ u.mem = s.mem ∧ u.tiles = s.tiles ∧
      (∀ j, nextLink e.parent lo = some j → u.link.en.waiting = some j ∧ queued u j next 0 0) ∧
      (nextLink e.parent lo = none → u.link.en.waiting = none ∧ u.link.en.holding = false ∧
        (e.root = true → u.link.en.done = true ∧ u.link.en.nextOut = next) ∧
        (∀ q, e.root = false → e.parent = some q → queued u q next 1 0))
    (∀ wr v, s.takes wr rEnumCfg .full v → bit v 2 = true → bit v 1 = false →
      ((bit v 0 = false ∨ e.started = true) → ∃ u, exec (.enumStart wr .full v) s = .next u ∧ u.link = s.link ∧
        u.sec.logNext = s.sec.logNext + 1) ∧
      (bit v 0 = true → e.started = false → ∃ u, exec (.enumStart wr .full v) s = .next u ∧
        u.link.en.started = true ∧ u.link.en.root = true ∧ u.link.en.devid = fld v 29 16 ∧
        u.link.en.rootId = fld v 29 16)) ∧
    (got 0 → e.devid ≠ 0x3FFF → exec (.enumToken k) s = .next (s1.sendEnum k n 2 0)) ∧
    (got 0 → e.devid = 0x3FFF → 0x3FFE < n → ∃ u, exec (.enumToken k) s = .next u ∧ u.link.en.devid = 0x3FFF ∧
      queued u k n 3 1) ∧
    (got 0 → e.devid = 0x3FFF → n ≤ 0x3FFE → ∃ u, exec (.enumToken k) s = .next u ∧ u.link.en.devid = n ∧
      u.link.en.started = true ∧ u.link.en.parent = some k ∧ u.link.en.rootId = nfld w 31 18 ∧ u.mem = s.mem) ∧
    (got 1 → e.waiting = some k → visits (.enumReturn k) (k + 1) n) ∧
    (got 2 → e.waiting = some k → visits (.enumBusy k) (k + 1) e.next) ∧
    (got 3 → e.waiting = some k → ∃ u, exec (.enumFail k) s = .next u ∧ u.link.en.holding = false ∧
      u.link.en.waiting = none ∧
      (e.root = true → u.link.en.fail = true ∧ u.link.en.cause = nfld w 17 16 ∧ u.link.en.nextOut = n) ∧
      (∀ q, e.root = false → e.parent = some q → queued u q n 3 (nfld w 17 16)))

/-! ## Time and power -/

/-- Global time (13 R499, R501 to R511, R513): a read of TIM_NOW latches the fraction of the same instant; masters and
locked modules send SYNC on every ACTIVE link; a SYNC of a locked master starts an exchange, a DELAY_REQ is answered
with its time of receipt, and the answer closes the exchange: a delay that differs from the link's flight time by
more than 1 ns is set aside, an offset beyond 1 µs steps the counter and unlocks, and any other sets the rate
within its limit (the gain of its integral term is a free value); the host's dialogue feeds the same servo. -/
def Obligations.GlobalTime : Prop :=
  ∀ (s s1 : State) (k : Nat) (r : RxTxn) (w : Nat),
    let src := s.regF rTimCfg 1 0
    let msg (u : State) (kind seq t : Nat) : Txn :=
      { type := .time, vc := .msg, src := u.link.en.devid, len := 16, data := u.timeData kind seq t }
    let stamp (x : Nat) : Nat := (x % 2 ^ 48) * 2 ^ 16 + x / 2 ^ 48 % 2 ^ 16
    let servo (th2 bound : Int) (v u : State) : Prop :=
      (131072000 < th2.natAbs → (u.time.ctr : Int) = ((v.time.ctr : Int) - th2 * 2 ^ 31) % 2 ^ 112 ∧
        u.time.locked = false ∧ u.time.rate = v.time.rate ∧
        u.regF rTimStatus 63 32 = min 0xFFFFFFFF (v.regF rTimStatus 63 32 + 1)) ∧
      (th2.natAbs ≤ 131072000 → u.time.ctr = v.time.ctr ∧ -429497 ≤ u.time.rate ∧ u.time.rate ≤ 429497 ∧
        u.time.holdover = false ∧ (v.time.locked = true → u.time.locked = true) ∧
        (∃ g : Int, u.time.rate = clampRate (-(th2 * 32768).tdiv 100000 + g)) ∧
        (bound < th2.natAbs → u.time.good = 0 ∧ u.time.locked = v.time.locked) ∧
        ((th2.natAbs : Int) ≤ bound → u.time.good = min 16 (v.time.good + 1) ∧
          u.time.locked = (v.time.locked || decide (15 ≤ v.time.good))))
    (∀ rd, s.jetHides rd rTimNow = false → s.sitHides rd rTimNow = false → s.permits rd rTimNow false = true →
      (s.regRead rd rTimNow .full).1 = BitVec.ofNat 64 (s.time.ctr / 2 ^ 48) ∧
      exec (.timNowRead rd .full) s
        = .next { s with time := { s.time with frac := s.time.ctr / 2 ^ 32 % 2 ^ 16 } }) ∧
    ((src ≠ 2 ∨ s.time.locked = true) → ∃ u, exec .syncSend s = .next u ∧
      u.time.syncSeq = (s.time.syncSeq + 1) % 65536 ∧
      ∀ j, j < 36 → (u.linkOf j).txq = (s.linkOf j).txq ++
        (if (s.linkOf j).st = .active then [msg s 0 s.time.syncSeq 0] else [])) ∧
    (s.takeTime k 0 = some (r, w, s1) → (timeMsg r.txn).isSome = true → s1.upstream = some k → w.testBit 2 = true →
      ∃ u, exec (.sync k) s = .next u ∧ u.time.depth = min 15 (nfld w 6 3 + 1) ∧
        (∃ e, u.time.ex = some e ∧ e.seq = nfld w 31 16 ∧ e.t1 = stamp r.txt ∧ e.t2 = r.stamp ∧ e.t3 = none) ∧
        (u.linkOf k).txq = (s1.linkOf k).txq ++ [msg u 1 (nfld w 31 16) 0]) ∧
    (s.takeTime k 1 = some (r, w, s1) → (timeMsg r.txn).isSome = true →
      exec (.delayReq k) s = .next (s1.sendTime k 2 (nfld w 31 16)
        (r.stamp / 2 ^ 16 % 2 ^ 48 + (r.stamp % 2 ^ 16) * 2 ^ 48))) ∧
    (∀ e t3, s.takeTime k 2 = some (r, w, s1) → (timeMsg r.txn).isSome = true → s1.time.ex = some e →
      e.t3 = some t3 → e.seq = nfld w 31 16 → s1.upstream = some k →
      let a := stampDiff (e.t2 % 2 ^ 64) e.t1
      let b := stampDiff (stamp (nfld w 127 64)) (t3 % 2 ^ 64)
      let off := (10 * (a + b) - 131072 * ((s1.linkOf k).flight : Int)).natAbs
      let quiet := e.recov = false ∧ (s1.linkOf k).episode = none
      ∃ u, exec (.delayResp k) s = .next u ∧ u.time.ex = none ∧
        ((1310720 < off ∨ ¬ quiet) → u.time = { s1.time with ex := none }) ∧
        (off ≤ 1310720 → quiet → servo (a - b) 131072 s1 u)) ∧
    (∀ e t3, s.time.ex = some e → e.t3 = some t3 → t3 + 327680000 ≤ s.stamp →
      exec .exchangeTimeout s = .next { s with time := { s.time with ex := none } }) ∧
    (src = 2 → exec .holdoverEntry s
      = .next { s with time := { s.time with locked := false, holdover := true, good := 0 } }) ∧
    (∀ off, src = 1 → s.power.jet = false → ∃ u, exec (.ptmDialogue off) s = .next u ∧ servo (2 * off) 524288 s u)

/-- Power states of tiles and channel sets (14 R535, R536, R539 to R554): an idle tile descends one state at a time as
far as its partition's tolerance allows, Ash after a handshake that a packet aborts, Slate only without in-cell
registers, whose planes it loses; the partition's channel sets follow its shallowest tile; a held packet, an `at`
that is near and a tighter tolerance start the exit, and its end delivers what was held; an exit that fails is a
Rust error. -/
def Obligations.PowerStates : Prop :=
  ∀ (s : State) (t : Nat) (d : PwrSt), t < 1152 → s.power.jet = false →
    let x := s.tile t
    let others (u : State) : Prop := (∀ j, j ≠ t → u.tile j = s.tile j) ∧ u.mem = s.mem
    let rests (st : PwrSt) : Prop := x.pwr.st = st ∧ x.pwr.exiting = false ∧ x.idle = true ∧ s.deepestFor t = (d, s)
    let sank (u : State) (st : PwrSt) : Prop := (u.tile t).pwr.st = st ∧ others u ∧ u.regs = s.regs ∧
      ∀ p, s.tilePart t = some p → ∀ c, c < 16 → s.ownsSet p c = true →
        SMap.get .selfRefresh u.power.ch c = (u.partState p).ch
    let exits (u : State) : Prop := (u.tile t).pwr.exiting = true ∧ (u.tile t).pwr.target = .ivory ∧
      (u.tile t).pwr.st = x.pwr.st ∧ others u
    (rests .ivory → 1 ≤ d.code → ∃ u, exec (.doveEntry t) s = .next u ∧ sank u .dove) ∧
    (∀ st, (st, d) ∈ [(PwrSt.ivory, PwrSt.ivory), (.dove, .ivory), (.dove, .dove)] → rests st →
      (st = .ivory → exec (.doveEntry t) s = .next s) ∧ (st = .dove → exec (.ashHandshake t) s = .next s)) ∧
    (rests .dove → 2 ≤ d.code → ∃ u, exec (.ashHandshake t) s = .next u ∧ (u.tile t).pwr.handshake = true ∧
      (u.tile t).pwr.st = .dove ∧ others u) ∧
    (x.pwr.handshake = true → x.pwr.st = .dove → x.idle = true →
      ∃ u, exec (.ashEntry t) s = .next u ∧ sank u .ash ∧ (u.tile t).pwr.handshake = false) ∧
    (x.pwr.handshake = true → ∃ u, exec (.handshakeAbort t) s = .next u ∧ (u.tile t).pwr.handshake = false ∧
      (u.tile t).pwr.st = .ivory ∧ others u ∧
      ∀ p, s.tilePart t = some p → u.regF (partPage p oWakeCnt) 31 0
        = min 0xFFFFFFFF (s.regF (partPage p oWakeCnt) 31 0 + 1)) ∧
    (rests .ash → d = .slate → x.pack.icr = [] → ∃ u, exec (.slateEntry t) s = .next u ∧ sank u .slate ∧
      ∀ a b, (a, b) ∈ (u.tile t).pack.arrs → b.front = none) ∧
    (x.pack.icr ≠ [] → exec (.slateEntry t) s = .next s) ∧
    (∀ pkt, x.pwr.st ≠ .ivory → x.pwr.handshake = false → x.pwr.held.length < 64 →
      ∃ u, exec (.heldPacketArrive t pkt) s = .next u ∧ exits u ∧ (u.tile t).pwr.held = x.pwr.held ++ [pkt]) ∧
    (∀ c, x.herder.atCount = some c → x.pwr.st ≠ .ivory →
      (c ≤ s.now + x.pwr.st.latency + 1000 → ∃ u, exec (.atEarlyWake t) s = .next u ∧ exits u) ∧
      (s.now + x.pwr.st.latency + 1000 < c → exec (.atEarlyWake t) s = .next s)) ∧
    (x.pwr.exiting = true →
      (x.pwr.held = [] ∨ x.pwr.target ≠ .ivory → ∃ u, exec (.stateExitComplete t) s = .next u ∧
        (u.tile t).pwr.st = x.pwr.target ∧ (u.tile t).pwr.exiting = false ∧ others u) ∧
      (∀ h, x.pwr.held = [h] → x.pwr.target = .ivory → s.tilePart t = none →
        exec (.stateExitComplete t) s = .next ((s.modPwr t (fun p => { p with
          st := .ivory, exiting := false, target := .ivory, held := [] })).deliverHeld h)) ∧
      (∀ p, s.tilePart t = some p → s.sec.crimson = false → (s.part p).st = .normal →
        ∃ u, exec (.wakeFail t) s = .next u ∧ (u.tile t).pwr.held = [] ∧ (u.part p).st = .drain ∧
          (x.pwr.held = [] → u.regF (partPage p oRelStatus) 15 8 = Source.wakeFail.code)) ∧
      (∀ src h rest, x.pwr.held = [.handle src] → s.tilePart src = none → s.tilePart t = none →
        (s.herder src).out = h :: rest → h.sent = true → (Target.ofWord h.target).remote = false →
        (Target.ofWord h.target).tile = t →
        ∃ u, exec (.wakeFail t) s = .next u ∧ (u.herder src).out = rest ∧
          fld (u.reg (tilePage src oHrdExc)) 7 0 = Exc.noRoute.code)) ∧
    (∀ c, c ∈ s.power.chExit → ∃ u, exec (.channelSetExitComplete c) s = .next u ∧
      SMap.get .selfRefresh u.power.ch c = .active ∧ c ∉ u.power.chExit ∧ u.mem = s.mem ∧ u.regs = s.regs ∧
      u.tiles = s.tiles)

/-- The governor (14 R557 to R560, R564): after a bin the step is 16 under the override, falls to the largest step that
keeps the bin's power within the limit, and rises by at most one after ten bins; bins under throttle, excursions
and actions of the rail limit are counted. -/
def Obligations.Governor : Prop :=
  ∀ (s : State) (mw w e : Nat), s.power.jet = false → s.power.railsOff = false → 1 ≤ s.power.step → s.power.step ≤ 16 →
    let k := s.power.step
    let fast := 1475000 < w ∨ 1475000 < e
    ∃ u, exec (.governorTick mw w e) s = .next u ∧ 1 ≤ u.power.step ∧ u.power.step ≤ 16 ∧
      u.power.bins = (mw :: s.power.bins).take 1000 ∧
      (s.power.override = true → u.power.step = 16) ∧
      (s.power.override = false → fast → 3 ≤ k → u.power.step ≤ k - 2) ∧
      (s.power.override = false → ¬ fast → mw ≤ 150000 → k ≤ u.power.step ∧ u.power.step ≤ k + 1) ∧
      (s.power.override = false → 2790000 < mw → 1 < k → u.power.step < k) ∧
      (s.power.override = false → s.power.sinceRaise < 9 → u.power.step ≤ k) ∧
      (u.power.excursion.isSome = true ↔ 1000 * 2400000 < u.power.bins.sum) ∧
      u.regF rPwrGovCnt 63 32 = min 0xFFFFFFFF (s.regF rPwrGovCnt 63 32 + if k < 16 then 1 else 0) ∧
      u.regF rPwrGovCnt 15 0 = min 0xFFFF (s.regF rPwrGovCnt 15 0 + if fast then 1 else 0) ∧
      u.mem = s.mem ∧ u.tiles = s.tiles ∧ u.link = s.link ∧ u.sec = s.sec

/-! ## The module -/

/-- Writes that act on the whole module (14 R555, R556; 15 R572, R583, R584, R594, R595; 16 R622 to R625, R631; 17 R646,
R648, R650; 12 R495): Jet entry and exit, the reset of a Crimson error and RESET, a retirement taken into effect, an
error injection armed, a map committed and its zeroing done, RAISE, PROCEED, a first release, and a transaction of the
link mailbox; each is turned away and logged where its condition does not hold. -/
def Obligations.ModuleWrites : Prop :=
  ∀ (s : State) (w : Writer) (v : Word),
    let off (a : Nat) : State := s.config (w.owner s) a
    (∀ x, s.takes w (rPwrJet + 8) .full v → SMap.find s.cwPend rPwrJet = some x → bit v 0 = !bit x 0 →
      s.sec.inj.armed = false →
      (bit x 0 = true → s.power.jet = false →
        (s.jetOk = true → ∃ u, exec (.jetEnter w .full v) s = .next u ∧ u.power.jet = true ∧ u.mem = [] ∧
          u.time.locked = false ∧ u.time.holdover = true ∧ u.time.ctr = s.time.ctr ∧ (∀ p, (u.part p).key = 0) ∧
          (∀ t b, (u.ctx t b).st = .idle) ∧ (∀ k, k < 36 → (u.linkOf k).st = .disabled ∨ (u.linkOf k).st = .down)) ∧
        (s.jetOk = false → ∃ u, exec (.jetEnter w .full v) s = .next u ∧ u.power = s.power ∧
          u.reg rPwrJet = s.reg rPwrJet ∧ u.sec.logNext = s.sec.logNext + 1 ∧ u.mem = s.mem)) ∧
      (bit x 0 = false → s.power.jet = true → ∃ u, exec (.jetExit w .full v) s = .next u ∧ u.power.jetExit = true ∧
        u.power.jet = true ∧ u.mem = s.mem)) ∧
    (s.power.jetExit = true → ∃ u, exec .jetExitComplete s = .next u ∧ u.power.jet = false ∧ u.power.jetExit = false ∧
      u.fe.stopped = [] ∧ u.mem = s.mem ∧ ∀ p, p < 16 → (u.part p).released = false ∧ (u.part p).st = .normal) ∧
    (s.takes w rRelCrimsonCtl .full v → bit v 1 = true → s.sec.crimson = true →
      ∃ u, exec (.crimsonReset w .full v) s = .next u ∧
        wasReset (if s.sec.crimsonPower then .power else .boot)
          (s.setReg rRelCrimsonCtl (s.reg rRelCrimsonCtl &&& ~~~ (v &&& 1))) u) ∧
    (s.takes w rMgtBootCtl .full v → bit v 1 = true →
      ∃ u, exec (.resetWrite w .full v) s = .next u ∧ wasReset .boot s u) ∧
    (∀ east : Bool, let r := rRelSpare east;
      let i := if east then Instr.applyE w .full 2 else .applyW w .full 1
      let moved (t : Nat) : Prop := t < 1152 ∧ t % 48 ∈ movedCols east (s.regF r 12 8)
      let ready := s.regF r 14 14 = 1 ∧ s.regF r 4 0 = skipHome east ∧
        ∀ p ∈ s.colOwners (movedCols east (s.regF r 12 8)), (s.part p).st = .held ∨ (s.part p).st = .failed
      s.takes w rRelSpareCtl .full (if east then 2 else 1) →
        (¬ ready → exec i s = .next (off rRelSpareCtl)) ∧
        (ready → ∃ u, exec i s = .next u ∧ u.regF r 4 0 = s.regF r 12 8 ∧ u.regF r 14 14 = 0 ∧
          (∀ t j, moved t → tileBase t ≤ j → j < tileBase t + tileSize → u.mem.read j = 0) ∧
          (s.mem.wf = true → ∀ j, (∀ t, moved t → j < tileBase t ∨ tileBase t + tileSize ≤ j) → u.mem.read j = s.mem.read j) ∧
          (∀ p, (s.part p).st ≠ .failed → u.part p = s.part p))) ∧
    (s.takes w rRelInjCtl .full v →
      (s.regF rRelCfg 0 0 = 0 → exec (.injectArm w .full v) s = .next s) ∧
      (s.regF rRelCfg 0 0 = 1 →
        ((s.sec.inj.armed = true ∨ injBad v = true) → exec (.injectArm w .full v) s = .next (off rRelInjCtl)) ∧
        (s.sec.inj.armed = false → injBad v = false → 1 ≤ fld v 3 0 → fld v 3 0 ≤ 6 →
          ∃ u, exec (.injectArm w .full v) s = .next u ∧ u.sec.inj.armed = true ∧ u.regF rRelInjCtl 3 0 = fld v 3 0 ∧
            u.regF rRelInjCtl 63 32 = fld v 63 32 ∧ u.mem = s.mem))) ∧
    (s.takes w rSecMapCommit .full 1 → s.sec.mapBusy = false →
      let ok := mapValid s.shadowMap = true ∧ ∀ p ∈ s.mapChanges, s.mayRemap p = true
      (ok → ∃ u, exec (.secMapCommit w .full 1) s = .next u ∧ u.sec.mapBusy = true ∧
        (∀ p, p < 16 → u.reg (rSecMap p) = s.shadowOf (rSecMap p)) ∧
        (∀ t j, t < 1152 → s.tilePart t ≠ u.tilePart t → tileBase t ≤ j → j < tileBase t + tileSize → u.mem.read j = 0) ∧
        (∀ c j, c < 16 → s.setPartOf c ≠ u.setPartOf c → c * setBytes ≤ j → j < (c + 1) * setBytes → u.mem.read j = 0)) ∧
      (¬ ok → ∃ u, exec (.secMapCommit w .full 1) s = .next u ∧ u.regF rSecMapCommit 1 1 = 1 ∧ u.mem = s.mem ∧
        (∀ p, p < 16 → u.reg (rSecMap p) = s.reg (rSecMap p)) ∧ u.sec.logNext = s.sec.logNext + 1)) ∧
    (s.sec.mapBusy = true → exec .mapZeroDone s = .next { s with sec := { s.sec with mapBusy := false } }) ∧
    (s.takes w rSecBoot .full v → bit v 16 = true → s.fe.sit.on = false → s.mgt.phase ≠ .sit →
      ∃ u, exec (.raise w .full v) s = .next u ∧ u.sec.raise = true ∧ u.mgt.pref = fld v 0 0 ∧ u.regs = s.regs) ∧
    (s.takes w rMgtBootCtl .full 1 →
      ((s.mgt.phase = .links ∨ s.mgt.phase = .time) →
        exec (.proceed w .full 1) s = .next { s with mgt := { s.mgt with proceed := true } }) ∧
      (s.mgt.phase ≠ .links → s.mgt.phase ≠ .time → exec (.proceed w .full 1) s = .next (off rMgtBootCtl))) ∧
    (∀ q, q < 16 → s.takes w rMgtPartRel .full (BitVec.ofNat 64 (2 ^ q)) →
      let i := Instr.mgtPartRel w .full (BitVec.ofNat 64 (2 ^ q))
      let ok := (s.part q).released = false ∧ s.mgt.phase = .ready ∧ s.sec.mapBusy = false ∧ 0 < s.nCol q ∧
        ((s.part q).st = .normal ∨ (s.part q).st = .held)
      (ok → s.twinOk (partPage q oLtr) = true → s.sec.inj.armed = false →
        ∃ u, exec i s = .next u ∧ (u.part q).released = true ∧ (u.part q).st = .normal ∧ u.mem = s.mem) ∧
      (¬ ok → exec i s = .next (off rMgtPartRel))) ∧
    (s.takes w rMboxH1 .full v →
      let h0 := s.reg rMboxH0
      let ty := fld h0 4 0
      let len := fld v 53 48 + 1
      let ok := s.fe.sit.on = false ∧ s.regF rMboxStat 0 0 = 0 ∧ 1 ≤ ty ∧ ty ≤ 3 ∧ len ≤ 8 ∧ (ty = 3 → len = 8)
      (¬ ok → exec (.mboxSend w .full v) s = .next (off rMboxH1)) ∧
      (∀ g j, ok → s.freeTag 0x7FF = some g → s.sec.inj.armed = false → fld h0 24 11 ≠ s.link.en.devid →
        fld h0 24 11 ≠ 0x3FFF → routePairOk (s.reg (routeAddr (fld h0 24 11))) = true →
        s.pickPort (s.reg (routeAddr (fld h0 24 11))) 0x7FF = some j → bellRing (fld v 47 0) = none →
        ∃ u x, exec (.mboxSend w .full v) s = .next u ∧ u.regF rMboxStat 0 0 = 1 ∧
          (u.linkOf j).txq = (s.linkOf j).txq ++ [x] ∧ u.link.outst = s.link.outst ++ [⟨0x7FF, g, .mailbox, j⟩] ∧
          x.type.code = ty ∧ x.dst = fld h0 24 11 ∧ x.addr = fld v 47 0 ∧ x.len = len ∧ x.tag = g ∧
          x.src = s.link.en.devid ∧ x.srcTile = 0x7FF ∧ x.hops = s.regF rLnkCfg 5 0 ∧
          x.data = if ty = 1 then [] else (toBytesLE 8 (s.reg rMboxData).toNat).take len))

/-- Start-up (17 R646 to R651; 16 R626 to R630; 15 R572, R587; 18 R686): each phase passes to the next when its work is
done and its gate is open, and waits otherwise; without a valid and compatible set of firmware objects the module goes
to sit mode with the cause; MEASURE leaves memory zeroed; a phase that overruns its bound fails start-up; the input,
PERST# and the automatic reset after a Crimson error start it again. -/
def Obligations.StartUp : Prop :=
  ∀ (s : State),
    let obj (i b : Nat) : FwObj := FwObj.ofBytes i (SMap.get [] s.mgt.flash (2 * i + b))
    let passes (i : Instr) (p : BootPhase) : Prop := ∃ u, exec i s = .next u ∧ u.mgt.phase = p ∧ u.mgt.waiting = false ∧
      u.mem = s.mem ∧ u.regs = s.regs
    let waits (i : Instr) : Prop := exec i s = .next { s with mgt := { s.mgt with waiting := true } }
    let sits (c : Nat) : Prop := ∃ u, exec .bootPhaseDone s = .next u ∧ u.mgt.phase = .sit ∧
      u.regF rSecBoot 23 20 = c ∧ u.regF rMgtAlert 5 5 = 1 ∧ u.mem = s.mem
    (s.starting .power = true → passes .powerPhaseDone .boot) ∧
    (s.starting .boot = true → s.mgt.running = [] →
      (s.bootSlot 1 = none → sits 2) ∧
      (∀ b1, s.bootSlot 1 = some b1 →
        (s.bootSlot 2 = none → sits 3) ∧
        (∀ b2, s.bootSlot 2 = some b2 →
          (s.bootSlot 3 = none → sits 4) ∧
          (∀ b3, s.bootSlot 3 = some b3 →
            (fwCompatible (obj 1 b1) (obj 2 b2) (obj 3 b3) = false → sits 1) ∧
            (fwCompatible (obj 1 b1) (obj 2 b2) (obj 3 b3) = true →
              ∃ u, exec .bootPhaseDone s = .next u ∧ u.mgt.phase = .measure ∧ u.mgt.mcf = true ∧
                SMap.find u.mgt.running 1 = some (obj 1 b1) ∧ SMap.find u.mgt.running 2 = some (obj 2 b2) ∧
                SMap.find u.mgt.running 3 = some (obj 3 b3) ∧ u.mem = s.mem))))) ∧
    (∀ rs, s.starting .measure = true →
      let v := (if s.mgt.measured then s else s.measureWork).snapshot rs
      ∃ u, exec (.measurePhaseDone rs) s = .next u ∧ (s.mgt.measured = false → u.mem = [] ∧ u.eccW = [] ∧ u.eccB = []) ∧
        u.reg rMgtTlmSeq = s.reg rMgtTlmSeq + 1 ∧
        (v.sensorsGood = true → u.mgt.phase = .links ∧
          ∀ k, k < 36 → v.regF (linkReg k 0) 0 0 = 1 → (u.linkOf k).st = .detect) ∧
        (v.sensorsGood = false → u.mgt.phase = .measure ∧ u.mgt.waiting = true)) ∧
    (∀ rs, s.starting .sit = true → s.mgt.measured = false →
      exec (.measurePhaseDone rs) s = .next (s.measureWork.snapshot rs) ∧ s.measureWork.mem = []) ∧
    (s.starting .links = true → s.mgt.xstop = false →
      let gate := s.mgt.proceed = true ∨ s.mgt.bootCfg.testBit 1 = false ∨ s.link.en.devid ≠ 0x3FFF
      (gate → passes .linksPhaseDone .time) ∧ (¬ gate → waits .linksPhaseDone)) ∧
    (s.starting .time = true →
      let gate := s.mgt.proceed = true ∨ s.mgt.bootCfg.testBit 2 = false ∨ s.time.locked = true
      (¬ gate → waits .timePhaseDone) ∧
      (gate → s.mgt.bootCfg.testBit 0 = false → passes .timePhaseDone .ready) ∧
      (gate → s.mgt.bootCfg.testBit 0 = true → s.sec.inj.armed = false → s.sec.mapBusy = false →
        (∀ p, p < 16 → s.twinOk (partPage p oLtr) = true) →
        ∃ u, exec .timePhaseDone s = .next u ∧ u.mgt.phase = .ready ∧ u.mgt.cresets = 0 ∧
          ∀ p, p < 16 → 0 < s.nCol p → (s.part p).released = false → (s.part p).st = .normal →
            (u.part p).released = true ∧ (u.part p).st = .normal)) ∧
    ((s.mgt.phase = .power ∨ s.mgt.phase = .boot ∨ s.mgt.phase = .measure) → s.mgt.input = true → s.mgt.fail = false →
      ∃ u, exec .phaseBoundExpiry s = .next u ∧ u.mgt.fail = true ∧ u.mgt.cause = 3 ∧ u.power.railsOff = true ∧
        u.regF rMgtAlert 3 3 = 1) ∧
    (s.mgt.input = false → ∃ u, exec .inputPowerApply s = .next u ∧ u.mgt.phase = .power ∧ u.mgt.input = true ∧
      u.mem = [] ∧ u.tiles = [] ∧ u.sec.log = [] ∧ u.mgt.bootCfg = s.mgt.bootCfg ∧ u.reg rMgtSerial = s.reg rMgtSerial) ∧
    (s.mgt.input = true → ∃ u, exec (.inputPowerLoss false) s = .next u ∧ u.mgt.input = false ∧ u.mem = [] ∧
      u.power.railsOff = true) ∧
    (s.mgt.input = true → s.sec.crimson = false → ∃ u, exec (.inputPowerLoss true) s = .next u ∧ heldByCrimson s u) ∧
    (s.mgt.input = true → ∃ u, exec .perstN s = .next u ∧ wasReset .boot s u) ∧
    (s.sec.crimson = true → s.regF rRelCfg 1 1 = 1 → ¬ (s.mgt.fail = true ∧ s.mgt.cause = 5) →
      (s.sec.crimsonAt + 100000000 ≤ s.now → ∃ u, exec .crimsonAutoReset s = .next u ∧
        wasReset (if s.sec.crimsonPower then .power else .boot) s u) ∧
      (s.now < s.sec.crimsonAt + 100000000 → exec .crimsonAutoReset s = .next s))

/-- Firmware update and attestation (17 R664, R665, R670; 16 R632 to R634): an operation of an interface that does not
own the update, or while one runs, sets BUSY and nothing else; OPEN takes the update and erases its slot, WRITE
programs 4 KiB, COPY copies the other slot, VERIFY checks, CLOSE lets go; the responder answers in the order of its
negotiation with the measurements of the function. -/
def Obligations.UpdateAndAttestation : Prop :=
  (∀ (s : State) (w : Writer) (v : Word), s.takes w rMgtFwCtl .full v →
    let op := fld v 2 0
    let ty := fld v 7 6
    let off := fld v 63 32
    let tgt := 2 * ty + (1 - s.mgt.pref)
    let mine := s.mgt.fwBusy = none ∧ (s.mgt.owner = 0 ∨ s.mgt.owner = w.iface)
    let owns := s.mgt.fwBusy = none ∧ s.mgt.owner ≠ 0 ∧ s.mgt.owner = w.iface
    let rows : List (Instr × Nat) := [(.fwOpen w .full v, 1), (.fwWrite w .full v, 2), (.fwVerify w .full v, 3),
      (.fwCopy w .full v, 4), (.fwClose w .full v, 5)]
    let slot (u : State) (i : Nat) : List Byte := SMap.get [] u.mgt.flash i
    let ends (u : State) (r : Nat) : Prop := u.mgt.fwResult = r ∧ u.mgt.fwBusy = none ∧ u.mgt.flash = s.mgt.flash ∧
      u.mgt.owner = s.mgt.owner
    let runs (u : State) (o : FwOp) : Prop := u.mgt.fwBusy = some (o, ty) ∧ u.mgt.fwSlot = 1 - s.mgt.pref ∧
      (∀ i, i ≠ tgt → slot u i = slot s i) ∧ u.mem = s.mem
    ∀ i ∈ rows, op = i.2 → ∃ u, exec i.1 s = .next u ∧
      (¬ mine → u.mgt = { s.mgt with fwResult := 1 }) ∧
      (mine → op ≠ 1 → s.mgt.owner = 0 → ends u 5) ∧
      (mine → op = 1 → SMap.find s.mgt.runSlot ty = some (1 - s.mgt.pref) → ends u 2) ∧
      (mine → op = 1 → SMap.find s.mgt.runSlot ty ≠ some (1 - s.mgt.pref) → runs u .open_ ∧ u.mgt.owner = w.iface ∧
        slot u tgt = []) ∧
      (owns → op = 2 → (off % 4096 ≠ 0 ∨ slotSize ty < off + 4096) → ends u 3) ∧
      (owns → op = 2 → off % 4096 = 0 → off + 4096 ≤ slotSize ty → runs u .write ∧
        (∀ j, j < 4096 → (slot u tgt)[off + j]? = some (BitVec.ofNat 8 ((s.reg (0xF00000081000 + 8 * (j / 8))).toNat / 256 ^ (j % 8)))) ∧
        ∀ j, j < off → j < (slot s tgt).length → (slot u tgt)[j]? = (slot s tgt)[j]?) ∧
      (owns → op = 3 → runs u .verify ∧ slot u tgt = slot s tgt) ∧
      (owns → op = 4 → runs u .copy ∧ slot u tgt = slot s (2 * ty + s.mgt.pref)) ∧
      (owns → op = 5 → runs u .close ∧ slot u tgt = slot s tgt)) ∧
  (∀ (s : State) (o : FwOp) (ty : Nat), s.mgt.fwBusy = some (o, ty) →
    ∃ u, exec .fwOpDone s = .next u ∧ u.mgt.fwBusy = none ∧ u.mgt.flash = s.mgt.flash ∧ u.regF rMgtAlert 4 4 = 1 ∧
      u.mgt.owner = (if o = .close then 0 else s.mgt.owner) ∧
      u.mgt.fwResult = (if o = .close then 0 else if s.flashError = true then 6
        else if (o = .verify ∨ o = .copy) ∧ s.slotOk ty (1 - s.mgt.pref) = false then 4 else 0)) ∧
  (∀ (s : State) (fn idx nonce slot off len : Nat) (sign : Bool), s.doeOff fn = false → nonce < 2 ^ 256 →
    let x := SMap.get {} s.sec.spdm fn
    let gives (i : Instr) (r : SpdmResp → Prop) : Prop := ∃ u y, exec i s = .next u ∧ r y ∧
      (SMap.get {} u.sec.spdm fn).resp = x.resp ++ [y] ∧ u.mem = s.mem ∧ u.tiles = s.tiles
    let block (i : Nat) (d : List Byte) : Prop := gives (.getMeasurements fn i nonce sign) (fun y =>
      ∃ n g, y = .measurements [(i, d)] n g ∧ g.isSome = sign)
    gives (.getVersion fn) (· = .version 0x12) ∧
    (x.gotVersion = true → gives (.getCapabilities fn) (· = .capabilities true true true false)) ∧
    (x.gotVersion = false → gives (.getCapabilities fn) (· = .error)) ∧
    (x.gotCaps = true → gives (.negotiateAlgorithms fn true true) (· = .algorithms true true)) ∧
    (x.gotCaps = true → gives (.negotiateAlgorithms fn false true) (· = .error)) ∧
    (x.gotAlgs = false → ∀ i ∈ [Instr.getDigests fn, .getCertificate fn slot off len, .challenge fn slot nonce,
      .getMeasurements fn idx nonce sign], gives i (· = .error)) ∧
    (x.gotAlgs = true →
      gives (.getDigests fn) (· = .digests [(0, sha384 (s.cert 0)), (1, sha384 (s.cert 1))]) ∧
      (slot ≤ 1 → gives (.getCertificate fn slot off len) (fun y =>
        y = (if off < (s.cert slot).length then .certificate slot off (((s.cert slot).drop off).take len) else .error))) ∧
      (slot ≤ 1 → gives (.challenge fn slot nonce) (fun y => ∃ n g, y = .challengeAuth slot n g)) ∧
      (∀ i o, 1 ≤ i → i ≤ 3 → SMap.find s.mgt.running i = some o → block i o.digest) ∧
      block 5 (sha384 ((List.range 16).flatMap (fun p => toBytesLE 8 (s.reg (rSecMap p)).toNat))) ∧
      (1 ≤ fn → block 0x10 (sha384 (s.part (fn - 1)).pmrBytes)) ∧
      (s.checkAllLocks = s → block 4 (sha384 (toBytesLE 8 (s.reg rSecCfg).toNat ++ toBytesLE 8 s.modLocks
        ++ (List.range 16).flatMap (fun p => toBytesLE 8 (s.partLocks p)))))))

/-- Partition sequences (15 R569, R570, R573, R601; 16 R610): a Rust error drains its partition and tells the host; when
no task is open, or after 1 ms, the engines of its tiles are reset; when the poison writes are acknowledged the
contexts, flags and faults of the tiles are cleared and the partition is HELD, or FAILED when a tile was marked, while
PART_RESET leaves its state; a sequence of 10 ms is a Crimson error; an FLR runs the same sequence and ends HELD. -/
def Obligations.PartitionSequences : Prop :=
  ∀ (s : State) (p : Nat), p < 16 → s.sec.crimson = false →
    let x := s.part p
    let quiet := s.beats = [] ∧ s.sleds = [] ∧ ∀ t, s.ownsTile p t = true → (s.tile t).lostWrites = [] ∧
      (s.tile t).retr.onWay = [] ∧ (s.tile t).drn = [] ∧ (s.tile t).held = [] ∧ (s.tile t).retr.sled = []
    (∀ src unit info, x.st = .normal → let u := s.rustError src p unit info;
      (u.part p).st = .drain ∧ (u.part p).seqOn = true ∧ (u.part p).seqRust = true ∧ (u.part p).rustAt = s.now ∧
      HostMsg.msix (128 * p + 64) ∈ u.host ∧ u.regF (partPage p oRelStatus) 15 8 = src.code % 256 ∧
      u.regF (partPage p oRelCnt) 31 16 = min 0xFFFF (s.regF (partPage p oRelCnt) 31 16 + 1) ∧ u.mem = s.mem ∧
      ∀ g n k, g / 64 = p → u.pkt g n = some k → k.st ≠ .running ∧ k.st ≠ .valid ∧ k.st ≠ .fetched) ∧
    (x.seqOn = true → x.resetting = false → s.openTasks p = [] → quiet → x.poison = [] →
      ∃ u, exec (.partitionDrainDone p) s = .next u ∧ (u.part p).resetting = true ∧
        (u.part p).st = (if x.seqRust then .reset else x.st) ∧ u.mem = s.mem ∧ u.regs = s.regs ∧
        ∀ t, s.ownsTile p t = true → (u.herder t).board = [] ∧ (u.herder t).out = [] ∧ (u.tile t).retr.strms = [] ∧
          (u.tile t).pack.arrs = [] ∧ (u.tile t).drn = [] ∧ (u.tile t).sfu = [] ∧ (u.tile t).chain.stages = []) ∧
    (x.seqOn = true → x.resetting = false → s.openTasks p ≠ [] → s.now < x.rustAt + 1000000 →
      exec (.partitionDrainDone p) s = .next s ∧ exec (.partitionDrainTimeout p) s = .next s) ∧
    (x.seqOn = true → x.resetting = false → x.rustAt + 1000000 ≤ s.now →
      ∃ u, exec (.partitionDrainTimeout p) s = .next u ∧ (u.part p).resetting = true ∧
        ∀ r ∈ s.openTasks p, ∃ k, u.pkt r.ring r.count = some k ∧ k.st = .ended ∧ k.result = .partReset) ∧
    (x.seqOn = true → x.resetting = true → s.poisonDone p = true →
      ∃ u, exec (.partitionResetDone p) s = .next u ∧
        (∀ t, s.ownsTile p t = true → s.resetCmds p = [] → (∀ b, (u.ctx t b).st = .idle ∧ (u.ctx t b).task = none ∧
            (u.ctx t b).s = [] ∧ (u.ctx t b).q = 0 ∧ (u.ctx t b).ticket = 0) ∧
          (u.tile t).retr.cache = [] ∧ (u.tile t).pack.icr = [] ∧ u.reg (tilePage t oNumFlags) = 0) ∧
        (quiet → s.resetCmds p = [] → (u.part p).seqOn = false ∧ (u.part p).resetting = false ∧ u.mem = s.mem ∧
          (u.part p).st = (if x.seqRust = true ∨ x.seqFlr = true then (if x.retire then .failed else .held) else x.st)) ∧
        (∀ r k, s.resetCmds p = [r] → s.pkt r.ring r.count = some k →
          ∃ k', u.pkt r.ring r.count = some k' ∧ k'.st = .ended ∧ k'.result = .ok)) ∧
    (x.seqOn = true → x.seqRust = true → x.rustAt + 10000000 ≤ s.now →
      ∃ u, exec (.rustTimeout p) s = .next u ∧ heldByCrimson s u) ∧
    (s.power.jet = false → ∃ u, exec (.flr p) s = .next u ∧ (u.part p).seqOn = true ∧ (u.part p).seqFlr = true ∧
      (u.part p).st = x.st ∧ u.mem = s.mem ∧
      (x.seqOn = false → (u.part p).seqRust = false ∧ (u.part p).rustAt = s.now))

/-- The management chain and telemetry (17 R652 to R663): a frame reads back as it was built; POS gives a module the
next position and goes on; IDENT, READ, WRITE and RESET for this module are answered with the status of R658, an
unknown command with BADCMD, and without an MCF with DENIED; an alert is sent while a bit of MGT_ALERT is set; other
frames are forwarded; a snapshot writes every sensor, and the third sample at trip or a rail out of band is a
Crimson error. -/
def Obligations.ManagementChain : Prop :=
  (∀ f : Frame, f.dst < 2 ^ 13 → f.src < 2 ^ 12 → f.cmd < 256 → f.tag < 256 → f.status < 256 → f.payload.length ≤ 64 →
    parseFrame f.bytes = some f) ∧
  ∀ (s : State) (bs : List Byte) (f : Frame), s.mgt.input = true →
    let forMe := parseFrame bs = some f ∧ f.status = 0 ∧ f.cmd < 0x80 ∧ s.mgt.upq.length < 4 ∧
      (f.dst.testBit 12 = true ∨ (s.mgt.posValid = true ∧ f.dst = s.mgt.pos))
    let reply (st : Nat) (p : List Byte) : Frame :=
      { dst := f.src, src := s.mgt.pos, cmd := f.cmd + 0x80, tag := f.tag, status := st, payload := p }
    let queued (u : State) (g : Frame) : State := { u with mgt := { u.mgt with upq := u.mgt.upq ++ [g] } }
    let a := ofBytesLE (f.payload.take 8)
    let n := ofBytesLE (f.payload.drop 8)
    (∀ c, parseFrame bs = some f → f.dst.testBit 12 = true → f.cmd = 1 → f.status = 0 → f.payload = toBytesLE 2 c →
      (c < 4095 → exec (.posFrame bs) s = .next { s with mgt := { s.mgt with
        pos := c + 1, posValid := true, down := s.mgt.down ++ [(Frame.mk 0x1000 (c + 1) 1 f.tag 0 (toBytesLE 2 (c + 1))).bytes] } }) ∧
      (c = 4095 → exec (.posFrame bs) s = .next { s with mgt := { s.mgt with posValid := false } })) ∧
    (∀ i ∈ [Instr.ident bs, .chainRead bs, .chainWrite bs, .chainReset bs], forMe → 1 ≠ f.cmd → f.cmd ∉ [2, 3, 4, 6] →
      exec i s = .next (queued s (reply (if s.mgt.mcf then 1 else 2) []))) ∧
    (forMe → f.cmd = 2 → f.payload = [] → exec (.ident bs) s = .next (queued s (reply 0 s.identData))) ∧
    (forMe → f.cmd = 3 → f.payload.length = 9 → 1 ≤ n → n ≤ 7 →
      let words := (List.range n).map (fun i => a + 8 * i)
      (a % 8 ≠ 0 → exec (.chainRead bs) s = .next (queued s (reply 3 []))) ∧
      (a % 8 = 0 → (∃ x ∈ words, s.permits .chain x false = false ∨ (s.mgt.mcf = false ∧ romRead x = false)) →
        exec (.chainRead bs) s = .next (queued s (reply 2 (List.replicate (8 * n) 0)))) ∧
      (a % 8 = 0 → s.mgt.mcf = true → (∀ x ∈ words, s.permits .chain x false = true ∧ (findReg x).isSome = true ∧ x ≠ rTimNow ∧ x ≠ rPwrStatus) →
        exec (.chainRead bs) s
          = .next (queued s (reply 0 (words.flatMap (fun x => toBytesLE 8 (s.regView x).toNat)))))) ∧
    (forMe → f.cmd = 4 → f.payload.length = 16 →
      (a % 8 = 0 → s.permits .chain a true = true → s.mgt.mcf = true → (findReg a).isSome = true →
        exec (.chainWrite bs) s = .next ((queued s (reply 0 [])).regWrite .chain a .full (BitVec.ofNat 64 n))) ∧
      (a % 8 = 0 → s.permits .chain a true = false →
        exec (.chainWrite bs) s = .next (queued (s.violation .chain a) (reply 2 [])))) ∧
    (forMe → f.cmd = 6 → f.payload = [] →
      (s.mgt.mcf = true → ∃ u, exec (.chainReset bs) s = .next u ∧ wasReset .boot s u ∧ u.mgt.upq = [] ∧
        u.mgt.up = s.mgt.up ++ (s.mgt.upq ++ [reply 0 []]).map Frame.bytes) ∧
      (s.mgt.mcf = false → exec (.chainReset bs) s = .next (queued s (reply 2 [])))) ∧
    (∀ i ∈ [Instr.alert, .alertRepeat], (s.regView rMgtAlert = 0 → exec i s = .next s) ∧
      (s.regView rMgtAlert ≠ 0 → s.mgt.upq.length < 4 → ∃ u tag, exec i s = .next u ∧ u.mgt.upq = s.mgt.upq ++
        [Frame.mk 0 s.mgt.pos 5 tag 0
          (toBytesLE 8 (s.regView rMgtAlert).toNat ++ toBytesLE 4 (fld (s.regView rRelLogStat) 31 0))])) ∧
    (exec (.chainFrameForward bs false) s = .next { s with mgt := { s.mgt with up := s.mgt.up ++ [bs] } }) ∧
    (s.passesDown bs = true →
      exec (.chainFrameForward bs true) s = .next { s with mgt := { s.mgt with down := s.mgt.down ++ [bs] } }) ∧
    (∀ rs, ∃ u, exec (.telemetrySnapshot rs) s = .next u ∧ u.reg rMgtTlmSeq = s.reg rMgtTlmSeq + 1 ∧ u.mem = s.mem ∧
      u.tiles = s.tiles ∧ ∀ i ∈ sensors, let r := u.reg (rMgtSens i);
        (s.reading rs i = none → bit r 32 = false) ∧
        (∀ v, s.reading rs i = some v → bit r 32 = true ∧ r.extractLsb' 0 32 = BitVec.ofInt 32 v ∧
          bit r 34 = sensTrip i v ∧ bit r 33 = (sensWarn i v || bit (s.reg (rMgtSens i)) 33))) ∧
    (∀ i v, i ∈ sensors → 0x20 ≤ i → let c := SMap.get 0 s.mgt.trips i;
      (sensTrip i v = true → c = 2 → s.sec.crimson = false →
        ∃ u, exec (.tempSample [(i, v)]) s = .next u ∧ heldByCrimson s u) ∧
      (sensTrip i v = false → exec (.tempSample [(i, v)]) s
        = .next { s with mgt := { s.mgt with trips := SMap.set s.mgt.trips i 0 } })) ∧
    (∀ r, r ≤ 6 → s.sec.crimson = false → ∃ u, exec (.railOutOfBand r) s = .next u ∧ heldByCrimson s u)

/-- Host accesses (18 R682 to R685; 14 R556; 16 R609, R630; 10 R370): the BARs map memory, registers and the MSI-X table
as the spec lays them out, a virtual function's by the tiles and channel sets of its partition in rising order; an
access to nothing is an Unsupported Request; in Jet memory reads all ones and takes no write. -/
def Obligations.HostAccesses : Prop :=
  (∀ t o q, t < 1152 → q < 16 → o < 0x1000 →
    pfBar 0 (0x10000000 + 0x1000 * t + o) 8 = .reg (tilePage t o) ∧
    pfBar 0 (0x10800000 + 0x10000 * q + o) 8 = .reg (partPage q o)) ∧
  ∀ (s : State) (fn bar off n : Nat) (bs : List Byte), fn ≤ 16 → s.mgt.input = true →
    let rd := exec (.hostBarAccess fn bar off false bs n) s
    let wr := exec (.hostBarAccess fn bar off true bs n) s
    let got (u : State) (d : List Byte) : State := { u with hostData := .data d }
    let x := s.barTarget fn bar off n
    let y := s.barTarget fn bar off bs.length
    let okR := 0 < n ∧ n ≤ 4096
    let okW := bs ≠ [] ∧ bs.length ≤ 512
    (okR → x = .nothing → rd = .next { s with hostData := .unsupported }) ∧
    (okW → y = .nothing → wr = .next { s with host := s.host ++ [.aerUR fn bar off] }) ∧
    (okR → x = .zero → rd = .next (got s (List.replicate n 0))) ∧
    (okW → y = .zero → wr = .next s) ∧
    (∀ a, okR → x = .mem a → (s.power.jet = true → rd = .next (got s (List.replicate n 0xFF))) ∧
      (s.power.jet = false → s.targetReady a = true → s.clean a n = true →
        rd = .next (got (s.touch a) ((s.touch a).rawRead a n)))) ∧
    (∀ a, okW → y = .mem a → (s.power.jet = true → wr = .next s) ∧
      (s.power.jet = false → s.targetReady a = true → wr = .next ((s.touch a).store a bs))) ∧
    (∀ a, okR → x = .reg a → let z := s.regRead (hostWriter fn) (accOf a n).1 (accOf a n).2;
      rd = .next (got z.2 (toBytesLE n z.1.toNat))) ∧
    (∀ a, okW → y = .reg a →
      wr = .next (s.regWrite (hostWriter fn) (accOf a bs.length).1 (accOf a bs.length).2 (BitVec.ofNat 64 (ofBytesLE bs)))) ∧
    (∀ i, bs.length = 4 → y = .msix i → ∃ u, wr = .next u ∧ u.msixWord fn i = BitVec.ofNat 32 (ofBytesLE bs) ∧
      (∀ j, j ≠ i → u.msixWord fn j = s.msixWord fn j) ∧ u = { s with msixTab := u.msixTab }) ∧
    (∀ i, n = 4 → x = .msix i → rd = .next (got s (toBytesLE 4 (s.msixWord fn i).toNat))) ∧
    (∀ p t, fn = p + 1 → t < (s.partTiles p).length → off % 0x200000 + n ≤ tileSize → 0 < n → off / 0x200000 = t → bar = 2 →
      s.mgt.phase ≠ .sit → ∃ k, (s.partTiles p)[t]? = some k ∧ x = .mem (tileBase k + off % 0x200000))

/-! ## Reset and invariants -/

/-- The module at reset: start-up is in POWER, every tile is in Slate and its contexts are idle, memory reads zero,
nothing is queued or cached, and these registers hold the values the spec gives them: MGT_PART_ID, the pack's and
the retriever's configuration, the channel scales with their twins, the ring groups, the partition map, shares,
admission and instruction memory, the links' EN, HOPS, XID and route entries, TIM_CFG and the digest
configuration (00 R5; 03 R105; 05 R157; 09 R361, R367; 10 R397; 11 R436, R440; 12 R470, R488, R494; 13 R522, R526;
14 R543; 16 R606, R640; 17 R647). A register whose reset value the spec leaves open is not named here. -/
def Obligations.ResetState : Prop :=
  let s := State.reset
  s.pending = [] ∧ s.mgt.phase = .power ∧ s.sec.crimson = false ∧ s.fe.rings = [] ∧ s.fe.cache = [] ∧
  (∀ a, s.mem.read a = 0) ∧ (∀ t b, (s.ctx t b).st = .idle ∧ (s.ctx t b).task = none) ∧
  (∀ t, (s.tile t).pwr.st = .slate) ∧ (∀ k, (s.linkOf k).st = .disabled) ∧ s.link.en.devid = 0x3FFF ∧
  s.reg rMgtPartId = 0x0C4A480041013000 ∧ s.reg rLnkCfg = 0x0F ∧ s.reg rEnumXid = 0x3FFF ∧ s.reg rTimCfg = 0xFC ∧
  (∀ k, k < 36 → s.reg (linkReg k 0) = 1) ∧
  (∀ d, d < 0x4000 → s.reg (routeAddr d) = 0xFFFFFFFF00000000) ∧
  (∀ t, t < 1152 → s.reg (tilePage t oPackCfg) = 4 ∧ s.reg (tilePage t oQcfg) = 0xFFFFFFFFFFFF ∧
    s.reg (tilePage t oDigCfg) = 8 ∧ s.reg (tilePage t oNumFlags) = 0 ∧
    ∀ k n, k < 4 → n < 8 → s.reg (tilePage t (oScl k n)) = 0x4000400040004000 ∧
      s.reg (tilePage t (oScl k n) + 8) = ~~~ 0x4000400040004000) ∧
  (∀ p, p < 16 → s.reg (partPage p oPartCtl) = 2 ∧ s.reg (partPage p oPartBw) = 0x080810 ∧
    s.regF (partPage p oAdmit) 15 0 = 2 ^ p ∧ (s.part p).st = .normal ∧ (s.part p).released = false ∧
    s.colFirst p = 3 * p ∧ s.nCol p = 3 ∧ s.chSets p = 2 ^ p ∧
    s.ringGroup (64 * p) = ⟨0, 3 * p, 24, 3⟩)

/-- The invariant holds at reset. -/
def Obligations.ResetKeepsInvariant : Prop := State.reset.Inv

/-- Every step keeps the memory in its canonical form: addresses rise and no listed byte is zero, so that equal
memories are equal data (the form is the model's). -/
def Obligations.StepKeepsInvariant : Prop :=
  ∀ s t : State, s.Inv → step s = .next t → t.Inv

/-- No command touches the queue: commands run in the order in which they came, and each step takes exactly the front
one, over every command and every state. -/
def Obligations.QueueIsFirstInFirstOut : Prop :=
  (∀ (c : Instr) (s t : State), exec c s = .next t → t.pending = s.pending) ∧
  (∀ (s t : State), step s = .next t → t.pending = s.pending.tail) ∧
  (∀ s : State, ∃ t, step s = .next t)
end

