-- ==== Sys2Proof/Laws/Memory.lean ====
section
/-! SUPPORT. Memory reads back what was written, and every operation keeps its canonical form. -/
namespace Sys2Proof.Machine

@[simp] theorem Memory.read_nil (a : Nat) : Memory.read [] a = 0 := by simp [Memory.read]

theorem Memory.wfFrom_mono {lo hi : Nat} (m : Memory) (h : hi ≤ lo) (w : m.wfFrom lo = true) :
    m.wfFrom hi = true := by
  cases m with
  | nil => simp [Memory.wfFrom]
  | cons c m =>
    obtain ⟨k, b⟩ := c
    simp only [Memory.wfFrom, Bool.and_eq_true, decide_eq_true_eq] at w ⊢
    exact ⟨⟨by omega, w.1.2⟩, w.2⟩

/-- Below its first listed address a canonical memory reads zero. -/
theorem Memory.read_below (m : Memory) : ∀ lo a, m.wfFrom lo = true → a < lo → m.read a = 0 := by
  induction m with
  | nil => intros; simp
  | cons c m ih =>
    obtain ⟨k, b⟩ := c
    intro lo a w h
    simp only [Memory.wfFrom, Bool.and_eq_true, decide_eq_true_eq] at w
    have h1 : a ≠ k := by omega
    have h2 : a < k := by omega
    simp [Memory.read, h1, h2]

theorem Memory.read_write_from (m : Memory) :
    ∀ lo a b j, m.wfFrom lo = true → (m.write a b).read j = if j = a then b else m.read j := by
  induction m with
  | nil =>
    intro lo a b j _
    by_cases hb : b = 0#8
    · simp [Memory.write, hb]
    · by_cases hj : j = a
      · simp [Memory.write, hb, Memory.read, hj]
      · simp [Memory.write, hb, Memory.read, hj]
  | cons c m ih =>
    obtain ⟨k, x⟩ := c
    intro lo a b j w
    have w' := w
    simp only [Memory.wfFrom, Bool.and_eq_true, decide_eq_true_eq] at w
    have hm := w.2
    have zero : ∀ y, y < k + 1 → Memory.read m y = 0#8 := fun y hy => Memory.read_below m (k + 1) y hm hy
    simp only [Memory.write]
    split
    · rename_i hak
      by_cases hb : b = 0#8
      · simp only [hb, BitVec.ofNat_eq_ofNat, if_true]
        by_cases hj : j = a
        · subst hj
          have h1 : j ≠ k := by omega
          simp [Memory.read, h1, hak]
        · simp [hj]
      · simp only [BitVec.ofNat_eq_ofNat, hb, if_false]
        by_cases hj : j = a
        · simp [Memory.read, hj]
        · by_cases hl : j < a
          · have h1 : j ≠ k := by omega
            have h2 : j < k := by omega
            simp [Memory.read, hj, hl, h1, h2]
          · simp [Memory.read, hj, hl]
    · split
      · rename_i _ hak
        subst hak
        by_cases hb : b = 0#8
        · simp only [hb, BitVec.ofNat_eq_ofNat, if_true]
          by_cases hj : j = a
          · subst hj
            simp [zero j (by omega)]
          · by_cases hl : j < a
            · simp [Memory.read, hj, hl, zero j (by omega)]
            · simp [Memory.read, hj, hl]
        · simp only [BitVec.ofNat_eq_ofNat, hb, if_false]
          by_cases hj : j = a
          · simp [Memory.read, hj]
          · by_cases hl : j < a <;> simp [Memory.read, hj, hl]
      · rename_i h1 h2
        by_cases hj : j = k
        · subst hj
          simp [Memory.read, Ne.symm h2]
        · by_cases hl : j < k
          · have : j ≠ a := by omega
            simp [Memory.read, hj, hl, this]
          · simp [Memory.read, hj, hl, ih (k + 1) a b j hm]

/-- A byte reads as written; every other byte is unchanged. -/
theorem Memory.read_write (m : Memory) (a : Nat) (b : Byte) (j : Nat) (w : m.wf = true) :
    (m.write a b).read j = if j = a then b else m.read j := Memory.read_write_from m 0 a b j w

theorem Memory.wfFrom_write (m : Memory) :
    ∀ lo a b, lo ≤ a → m.wfFrom lo = true → (m.write a b).wfFrom lo = true := by
  induction m with
  | nil =>
    intro lo a b h _
    by_cases hb : b = 0#8 <;> simp [Memory.write, hb, Memory.wfFrom, h]
  | cons c m ih =>
    obtain ⟨k, x⟩ := c
    intro lo a b h w
    have w' := w
    simp only [Memory.wfFrom, Bool.and_eq_true, decide_eq_true_eq] at w
    simp only [Memory.write]
    split
    · rename_i hak
      by_cases hb : b = 0#8
      · simpa [hb] using w'
      · simp only [BitVec.ofNat_eq_ofNat, hb, if_false, Memory.wfFrom, Bool.and_eq_true, decide_eq_true_eq]
        exact ⟨⟨h, hb⟩, ⟨by omega, w.1.2⟩, w.2⟩
    · split
      · rename_i _ hak
        subst hak
        by_cases hb : b = 0#8
        · simp only [hb, BitVec.ofNat_eq_ofNat, if_true]
          exact Memory.wfFrom_mono m (by omega) w.2
        · simp only [BitVec.ofNat_eq_ofNat, hb, if_false, Memory.wfFrom, Bool.and_eq_true, decide_eq_true_eq]
          exact ⟨⟨h, hb⟩, w.2⟩
      · simp only [Memory.wfFrom, Bool.and_eq_true, decide_eq_true_eq]
        exact ⟨w.1, ih (k + 1) a b (by omega) w.2⟩

theorem Memory.wf_write (m : Memory) (a : Nat) (b : Byte) (w : m.wf = true) : (m.write a b).wf = true :=
  Memory.wfFrom_write m 0 a b (Nat.zero_le a) w

theorem Memory.wf_writeN (bs : List Byte) : ∀ (m : Memory) (a : Nat), m.wf = true → (m.writeN a bs).wf = true := by
  induction bs with
  | nil => intro m a w; exact w
  | cons b bs ih => intro m a w; exact ih _ _ (Memory.wf_write m a b w)

theorem Memory.wfFrom_zero (m : Memory) :
    ∀ from_ lo hi, m.wfFrom from_ = true → (m.zero lo hi).wfFrom from_ = true := by
  induction m with
  | nil => intros; rfl
  | cons c m ih =>
    obtain ⟨k, x⟩ := c
    intro from_ lo hi w
    simp only [Memory.wfFrom, Bool.and_eq_true, decide_eq_true_eq] at w
    have h := ih (k + 1) lo hi w.2
    unfold Memory.zero at h ⊢
    by_cases e : k < lo ∨ hi ≤ k
    · simp only [List.filter_cons, e, decide_true, if_true, Memory.wfFrom, Bool.and_eq_true, decide_eq_true_eq]
      exact ⟨w.1, h⟩
    · simp only [List.filter_cons, e, decide_false]
      exact Memory.wfFrom_mono _ (by omega) h

theorem Memory.wf_zero (m : Memory) (lo hi : Nat) (w : m.wf = true) : (m.zero lo hi).wf = true :=
  Memory.wfFrom_zero m 0 lo hi w

/-- Bytes written from an address on: inside they read as written, outside as before. -/
theorem Memory.read_writeN (bs : List Byte) : ∀ (m : Memory) (a j : Nat), m.wf = true →
    (m.writeN a bs).read j = if a ≤ j ∧ j < a + bs.length then bs.getD (j - a) 0 else m.read j := by
  induction bs with
  | nil =>
    intro m a j _
    have h : ¬ (a ≤ j ∧ j < a + ([] : List Byte).length) := by simp
    rw [if_neg h]
    rfl
  | cons b bs ih =>
    intro m a j w
    simp only [Memory.writeN, List.length_cons]
    rw [ih _ _ _ (Memory.wf_write m a b w), Memory.read_write m a b j w]
    by_cases h1 : j = a
    · subst h1
      have n1 : ¬ (j + 1 ≤ j ∧ j < j + 1 + bs.length) := by omega
      have n2 : j ≤ j ∧ j < j + (bs.length + 1) := by omega
      simp [n1, n2]
    · by_cases h2 : a + 1 ≤ j ∧ j < a + 1 + bs.length
      · have n2 : a ≤ j ∧ j < a + (bs.length + 1) := by omega
        have e : j - a = (j - (a + 1)) + 1 := by omega
        simp only [h2, n2, and_self, if_true, e]
        simp
      · have n2 : ¬ (a ≤ j ∧ j < a + (bs.length + 1)) := by omega
        simp only [h2, n2, if_false, h1]

end Sys2Proof.Machine
end

