-- ==== Sys2Proof/Laws/SMap.lean ====
section
/-! SUPPORT. What a sparse map reads as after it is changed. -/
namespace Sys2Proof.Machine

@[simp] theorem SMap.get_nil {α : Type} (d : α) (j : Nat) : SMap.get d [] j = d := rfl

@[simp] theorem SMap.get_set_same {α : Type} (d : α) (m : SMap α) (k : Nat) (v : α) :
    SMap.get d (SMap.set m k v) k = v := by
  induction m with
  | nil => simp [SMap.set, SMap.get]
  | cons p m ih =>
    obtain ⟨k', v'⟩ := p
    simp only [SMap.set]
    split
    · simp [SMap.get]
    · split
      · simp [SMap.get]
      · rename_i h
        simp [SMap.get, h, ih]

theorem SMap.get_set_ne {α : Type} (d : α) (m : SMap α) {k j : Nat} (v : α) (h : j ≠ k) :
    SMap.get d (SMap.set m k v) j = SMap.get d m j := by
  induction m with
  | nil => simp [SMap.set, SMap.get, h]
  | cons p m ih =>
    obtain ⟨k', v'⟩ := p
    simp only [SMap.set]
    split
    · simp [SMap.get, h]
    · split
      · rename_i e
        subst e
        simp [SMap.get, h]
      · simp [SMap.get, ih]

/-- Setting a key twice leaves the second value. -/
@[simp] theorem SMap.set_set {α : Type} (m : SMap α) (k : Nat) (v u : α) :
    SMap.set (SMap.set m k v) k u = SMap.set m k u := by
  induction m with
  | nil => simp [SMap.set]
  | cons p m ih =>
    obtain ⟨k', v'⟩ := p
    by_cases h1 : k < k'
    · simp [SMap.set, h1]
    · by_cases h2 : k = k'
      · simp [SMap.set, h2]
      · simp [SMap.set, h1, h2, ih]

@[simp] theorem SMap.find_set_same {α : Type} (m : SMap α) (k : Nat) (v : α) :
    SMap.find (SMap.set m k v) k = some v := by
  induction m with
  | nil => simp [SMap.set, SMap.find]
  | cons p m ih =>
    obtain ⟨k', v'⟩ := p
    simp only [SMap.set]
    split
    · simp [SMap.find]
    · split
      · simp [SMap.find]
      · rename_i h
        simp [SMap.find, h, ih]

theorem SMap.find_set_ne {α : Type} (m : SMap α) {k j : Nat} (v : α) (h : j ≠ k) :
    SMap.find (SMap.set m k v) j = SMap.find m j := by
  induction m with
  | nil => simp [SMap.set, SMap.find, h]
  | cons p m ih =>
    obtain ⟨k', v'⟩ := p
    simp only [SMap.set]
    split
    · simp [SMap.find, h]
    · split
      · rename_i e
        subst e
        simp [SMap.find, h]
      · simp [SMap.find, ih]

@[simp] theorem SMap.find_erase_same {α : Type} (m : SMap α) (k : Nat) : SMap.find (SMap.erase m k) k = none := by
  induction m with
  | nil => rfl
  | cons p m ih =>
    obtain ⟨k', v'⟩ := p
    unfold SMap.erase at ih ⊢
    by_cases h : k' = k
    · subst h
      simpa using ih
    · simp [h, SMap.find, Ne.symm h, ih]

theorem SMap.find_erase_ne {α : Type} (m : SMap α) {k j : Nat} (h : j ≠ k) :
    SMap.find (SMap.erase m k) j = SMap.find m j := by
  induction m with
  | nil => rfl
  | cons p m ih =>
    obtain ⟨k', v'⟩ := p
    unfold SMap.erase at ih ⊢
    by_cases e : k' = k
    · subst e
      simp [SMap.find, h, ih]
    · simp [e, SMap.find, ih]

@[simp] theorem SMap.get_erase_same {α : Type} (d : α) (m : SMap α) (k : Nat) : SMap.get d (SMap.erase m k) k = d := by
  induction m with
  | nil => rfl
  | cons p m ih =>
    obtain ⟨a, v⟩ := p
    by_cases h : a = k
    · simpa [SMap.erase, h] using ih
    · simpa [SMap.erase, h, SMap.get, Ne.symm h] using ih

end Sys2Proof.Machine
end

