-- ==== Sys2Proof/Laws/State.lean ====
section
/-! SUPPORT. One lemma per field per update of the state, true by rfl; then what the accessors read after an
update. -/
namespace Sys2Proof.Machine

@[simp] theorem State.setReg_pending (s : State) (a : Nat) (v : Word) : (s.setReg a v).pending = s.pending := rfl
@[simp] theorem State.setReg_freeCtr (s : State) (a : Nat) (v : Word) : (s.setReg a v).freeCtr = s.freeCtr := rfl
@[simp] theorem State.setReg_cwPend (s : State) (a : Nat) (v : Word) : (s.setReg a v).cwPend = s.cwPend := rfl
@[simp] theorem State.setReg_shadow (s : State) (a : Nat) (v : Word) : (s.setReg a v).shadow = s.shadow := rfl
@[simp] theorem State.setReg_mem (s : State) (a : Nat) (v : Word) : (s.setReg a v).mem = s.mem := rfl
@[simp] theorem State.setReg_eccW (s : State) (a : Nat) (v : Word) : (s.setReg a v).eccW = s.eccW := rfl
@[simp] theorem State.setReg_eccB (s : State) (a : Nat) (v : Word) : (s.setReg a v).eccB = s.eccB := rfl
@[simp] theorem State.setReg_tiles (s : State) (a : Nat) (v : Word) : (s.setReg a v).tiles = s.tiles := rfl
@[simp] theorem State.setReg_beats (s : State) (a : Nat) (v : Word) : (s.setReg a v).beats = s.beats := rfl
@[simp] theorem State.setReg_sleds (s : State) (a : Nat) (v : Word) : (s.setReg a v).sleds = s.sleds := rfl
@[simp] theorem State.setReg_fe (s : State) (a : Nat) (v : Word) : (s.setReg a v).fe = s.fe := rfl
@[simp] theorem State.setReg_sec (s : State) (a : Nat) (v : Word) : (s.setReg a v).sec = s.sec := rfl
@[simp] theorem State.setReg_link (s : State) (a : Nat) (v : Word) : (s.setReg a v).link = s.link := rfl
@[simp] theorem State.setReg_time (s : State) (a : Nat) (v : Word) : (s.setReg a v).time = s.time := rfl
@[simp] theorem State.setReg_power (s : State) (a : Nat) (v : Word) : (s.setReg a v).power = s.power := rfl
@[simp] theorem State.setReg_mgt (s : State) (a : Nat) (v : Word) : (s.setReg a v).mgt = s.mgt := rfl
@[simp] theorem State.setReg_host (s : State) (a : Nat) (v : Word) : (s.setReg a v).host = s.host := rfl
@[simp] theorem State.setReg_hostData (s : State) (a : Nat) (v : Word) : (s.setReg a v).hostData = s.hostData := rfl
@[simp] theorem State.setReg_msixTab (s : State) (a : Nat) (v : Word) : (s.setReg a v).msixTab = s.msixTab := rfl

@[simp] theorem State.setRegF_pending (s : State) (a hi lo v : Nat) : (s.setRegF a hi lo v).pending = s.pending := rfl
@[simp] theorem State.setRegF_freeCtr (s : State) (a hi lo v : Nat) : (s.setRegF a hi lo v).freeCtr = s.freeCtr := rfl
@[simp] theorem State.setRegF_cwPend (s : State) (a hi lo v : Nat) : (s.setRegF a hi lo v).cwPend = s.cwPend := rfl
@[simp] theorem State.setRegF_shadow (s : State) (a hi lo v : Nat) : (s.setRegF a hi lo v).shadow = s.shadow := rfl
@[simp] theorem State.setRegF_mem (s : State) (a hi lo v : Nat) : (s.setRegF a hi lo v).mem = s.mem := rfl
@[simp] theorem State.setRegF_eccW (s : State) (a hi lo v : Nat) : (s.setRegF a hi lo v).eccW = s.eccW := rfl
@[simp] theorem State.setRegF_eccB (s : State) (a hi lo v : Nat) : (s.setRegF a hi lo v).eccB = s.eccB := rfl
@[simp] theorem State.setRegF_tiles (s : State) (a hi lo v : Nat) : (s.setRegF a hi lo v).tiles = s.tiles := rfl
@[simp] theorem State.setRegF_beats (s : State) (a hi lo v : Nat) : (s.setRegF a hi lo v).beats = s.beats := rfl
@[simp] theorem State.setRegF_sleds (s : State) (a hi lo v : Nat) : (s.setRegF a hi lo v).sleds = s.sleds := rfl
@[simp] theorem State.setRegF_fe (s : State) (a hi lo v : Nat) : (s.setRegF a hi lo v).fe = s.fe := rfl
@[simp] theorem State.setRegF_sec (s : State) (a hi lo v : Nat) : (s.setRegF a hi lo v).sec = s.sec := rfl
@[simp] theorem State.setRegF_link (s : State) (a hi lo v : Nat) : (s.setRegF a hi lo v).link = s.link := rfl
@[simp] theorem State.setRegF_time (s : State) (a hi lo v : Nat) : (s.setRegF a hi lo v).time = s.time := rfl
@[simp] theorem State.setRegF_power (s : State) (a hi lo v : Nat) : (s.setRegF a hi lo v).power = s.power := rfl
@[simp] theorem State.setRegF_mgt (s : State) (a hi lo v : Nat) : (s.setRegF a hi lo v).mgt = s.mgt := rfl
@[simp] theorem State.setRegF_host (s : State) (a hi lo v : Nat) : (s.setRegF a hi lo v).host = s.host := rfl
@[simp] theorem State.setRegF_hostData (s : State) (a hi lo v : Nat) : (s.setRegF a hi lo v).hostData = s.hostData := rfl
@[simp] theorem State.setRegF_msixTab (s : State) (a hi lo v : Nat) : (s.setRegF a hi lo v).msixTab = s.msixTab := rfl

@[simp] theorem State.addRegF_pending (s : State) (a hi lo d : Nat) : (s.addRegF a hi lo d).pending = s.pending := rfl
@[simp] theorem State.addRegF_freeCtr (s : State) (a hi lo d : Nat) : (s.addRegF a hi lo d).freeCtr = s.freeCtr := rfl
@[simp] theorem State.addRegF_cwPend (s : State) (a hi lo d : Nat) : (s.addRegF a hi lo d).cwPend = s.cwPend := rfl
@[simp] theorem State.addRegF_shadow (s : State) (a hi lo d : Nat) : (s.addRegF a hi lo d).shadow = s.shadow := rfl
@[simp] theorem State.addRegF_mem (s : State) (a hi lo d : Nat) : (s.addRegF a hi lo d).mem = s.mem := rfl
@[simp] theorem State.addRegF_eccW (s : State) (a hi lo d : Nat) : (s.addRegF a hi lo d).eccW = s.eccW := rfl
@[simp] theorem State.addRegF_eccB (s : State) (a hi lo d : Nat) : (s.addRegF a hi lo d).eccB = s.eccB := rfl
@[simp] theorem State.addRegF_tiles (s : State) (a hi lo d : Nat) : (s.addRegF a hi lo d).tiles = s.tiles := rfl
@[simp] theorem State.addRegF_beats (s : State) (a hi lo d : Nat) : (s.addRegF a hi lo d).beats = s.beats := rfl
@[simp] theorem State.addRegF_sleds (s : State) (a hi lo d : Nat) : (s.addRegF a hi lo d).sleds = s.sleds := rfl
@[simp] theorem State.addRegF_fe (s : State) (a hi lo d : Nat) : (s.addRegF a hi lo d).fe = s.fe := rfl
@[simp] theorem State.addRegF_sec (s : State) (a hi lo d : Nat) : (s.addRegF a hi lo d).sec = s.sec := rfl
@[simp] theorem State.addRegF_link (s : State) (a hi lo d : Nat) : (s.addRegF a hi lo d).link = s.link := rfl
@[simp] theorem State.addRegF_time (s : State) (a hi lo d : Nat) : (s.addRegF a hi lo d).time = s.time := rfl
@[simp] theorem State.addRegF_power (s : State) (a hi lo d : Nat) : (s.addRegF a hi lo d).power = s.power := rfl
@[simp] theorem State.addRegF_mgt (s : State) (a hi lo d : Nat) : (s.addRegF a hi lo d).mgt = s.mgt := rfl
@[simp] theorem State.addRegF_host (s : State) (a hi lo d : Nat) : (s.addRegF a hi lo d).host = s.host := rfl
@[simp] theorem State.addRegF_hostData (s : State) (a hi lo d : Nat) : (s.addRegF a hi lo d).hostData = s.hostData := rfl
@[simp] theorem State.addRegF_msixTab (s : State) (a hi lo d : Nat) : (s.addRegF a hi lo d).msixTab = s.msixTab := rfl

@[simp] theorem State.setFlags_pending (s : State) (t : Nat) (f : Flags) : (s.setFlags t f).pending = s.pending := rfl
@[simp] theorem State.setFlags_freeCtr (s : State) (t : Nat) (f : Flags) : (s.setFlags t f).freeCtr = s.freeCtr := rfl
@[simp] theorem State.setFlags_cwPend (s : State) (t : Nat) (f : Flags) : (s.setFlags t f).cwPend = s.cwPend := rfl
@[simp] theorem State.setFlags_shadow (s : State) (t : Nat) (f : Flags) : (s.setFlags t f).shadow = s.shadow := rfl
@[simp] theorem State.setFlags_mem (s : State) (t : Nat) (f : Flags) : (s.setFlags t f).mem = s.mem := rfl
@[simp] theorem State.setFlags_eccW (s : State) (t : Nat) (f : Flags) : (s.setFlags t f).eccW = s.eccW := rfl
@[simp] theorem State.setFlags_eccB (s : State) (t : Nat) (f : Flags) : (s.setFlags t f).eccB = s.eccB := rfl
@[simp] theorem State.setFlags_tiles (s : State) (t : Nat) (f : Flags) : (s.setFlags t f).tiles = s.tiles := rfl
@[simp] theorem State.setFlags_beats (s : State) (t : Nat) (f : Flags) : (s.setFlags t f).beats = s.beats := rfl
@[simp] theorem State.setFlags_sleds (s : State) (t : Nat) (f : Flags) : (s.setFlags t f).sleds = s.sleds := rfl
@[simp] theorem State.setFlags_fe (s : State) (t : Nat) (f : Flags) : (s.setFlags t f).fe = s.fe := rfl
@[simp] theorem State.setFlags_sec (s : State) (t : Nat) (f : Flags) : (s.setFlags t f).sec = s.sec := rfl
@[simp] theorem State.setFlags_link (s : State) (t : Nat) (f : Flags) : (s.setFlags t f).link = s.link := rfl
@[simp] theorem State.setFlags_time (s : State) (t : Nat) (f : Flags) : (s.setFlags t f).time = s.time := rfl
@[simp] theorem State.setFlags_power (s : State) (t : Nat) (f : Flags) : (s.setFlags t f).power = s.power := rfl
@[simp] theorem State.setFlags_mgt (s : State) (t : Nat) (f : Flags) : (s.setFlags t f).mgt = s.mgt := rfl
@[simp] theorem State.setFlags_host (s : State) (t : Nat) (f : Flags) : (s.setFlags t f).host = s.host := rfl
@[simp] theorem State.setFlags_hostData (s : State) (t : Nat) (f : Flags) : (s.setFlags t f).hostData = s.hostData := rfl
@[simp] theorem State.setFlags_msixTab (s : State) (t : Nat) (f : Flags) : (s.setFlags t f).msixTab = s.msixTab := rfl

@[simp] theorem State.setTile_pending (s : State) (t : Nat) (x : Tile) : (s.setTile t x).pending = s.pending := rfl
@[simp] theorem State.setTile_freeCtr (s : State) (t : Nat) (x : Tile) : (s.setTile t x).freeCtr = s.freeCtr := rfl
@[simp] theorem State.setTile_regs (s : State) (t : Nat) (x : Tile) : (s.setTile t x).regs = s.regs := rfl
@[simp] theorem State.setTile_cwPend (s : State) (t : Nat) (x : Tile) : (s.setTile t x).cwPend = s.cwPend := rfl
@[simp] theorem State.setTile_shadow (s : State) (t : Nat) (x : Tile) : (s.setTile t x).shadow = s.shadow := rfl
@[simp] theorem State.setTile_mem (s : State) (t : Nat) (x : Tile) : (s.setTile t x).mem = s.mem := rfl
@[simp] theorem State.setTile_eccW (s : State) (t : Nat) (x : Tile) : (s.setTile t x).eccW = s.eccW := rfl
@[simp] theorem State.setTile_eccB (s : State) (t : Nat) (x : Tile) : (s.setTile t x).eccB = s.eccB := rfl
@[simp] theorem State.setTile_beats (s : State) (t : Nat) (x : Tile) : (s.setTile t x).beats = s.beats := rfl
@[simp] theorem State.setTile_sleds (s : State) (t : Nat) (x : Tile) : (s.setTile t x).sleds = s.sleds := rfl
@[simp] theorem State.setTile_fe (s : State) (t : Nat) (x : Tile) : (s.setTile t x).fe = s.fe := rfl
@[simp] theorem State.setTile_sec (s : State) (t : Nat) (x : Tile) : (s.setTile t x).sec = s.sec := rfl
@[simp] theorem State.setTile_link (s : State) (t : Nat) (x : Tile) : (s.setTile t x).link = s.link := rfl
@[simp] theorem State.setTile_time (s : State) (t : Nat) (x : Tile) : (s.setTile t x).time = s.time := rfl
@[simp] theorem State.setTile_power (s : State) (t : Nat) (x : Tile) : (s.setTile t x).power = s.power := rfl
@[simp] theorem State.setTile_mgt (s : State) (t : Nat) (x : Tile) : (s.setTile t x).mgt = s.mgt := rfl
@[simp] theorem State.setTile_host (s : State) (t : Nat) (x : Tile) : (s.setTile t x).host = s.host := rfl
@[simp] theorem State.setTile_hostData (s : State) (t : Nat) (x : Tile) : (s.setTile t x).hostData = s.hostData := rfl
@[simp] theorem State.setTile_msixTab (s : State) (t : Nat) (x : Tile) : (s.setTile t x).msixTab = s.msixTab := rfl

@[simp] theorem State.modTile_pending (s : State) (t : Nat) (f : Tile → Tile) : (s.modTile t f).pending = s.pending := rfl
@[simp] theorem State.modTile_freeCtr (s : State) (t : Nat) (f : Tile → Tile) : (s.modTile t f).freeCtr = s.freeCtr := rfl
@[simp] theorem State.modTile_regs (s : State) (t : Nat) (f : Tile → Tile) : (s.modTile t f).regs = s.regs := rfl
@[simp] theorem State.modTile_cwPend (s : State) (t : Nat) (f : Tile → Tile) : (s.modTile t f).cwPend = s.cwPend := rfl
@[simp] theorem State.modTile_shadow (s : State) (t : Nat) (f : Tile → Tile) : (s.modTile t f).shadow = s.shadow := rfl
@[simp] theorem State.modTile_mem (s : State) (t : Nat) (f : Tile → Tile) : (s.modTile t f).mem = s.mem := rfl
@[simp] theorem State.modTile_eccW (s : State) (t : Nat) (f : Tile → Tile) : (s.modTile t f).eccW = s.eccW := rfl
@[simp] theorem State.modTile_eccB (s : State) (t : Nat) (f : Tile → Tile) : (s.modTile t f).eccB = s.eccB := rfl
@[simp] theorem State.modTile_beats (s : State) (t : Nat) (f : Tile → Tile) : (s.modTile t f).beats = s.beats := rfl
@[simp] theorem State.modTile_sleds (s : State) (t : Nat) (f : Tile → Tile) : (s.modTile t f).sleds = s.sleds := rfl
@[simp] theorem State.modTile_fe (s : State) (t : Nat) (f : Tile → Tile) : (s.modTile t f).fe = s.fe := rfl
@[simp] theorem State.modTile_sec (s : State) (t : Nat) (f : Tile → Tile) : (s.modTile t f).sec = s.sec := rfl
@[simp] theorem State.modTile_link (s : State) (t : Nat) (f : Tile → Tile) : (s.modTile t f).link = s.link := rfl
@[simp] theorem State.modTile_time (s : State) (t : Nat) (f : Tile → Tile) : (s.modTile t f).time = s.time := rfl
@[simp] theorem State.modTile_power (s : State) (t : Nat) (f : Tile → Tile) : (s.modTile t f).power = s.power := rfl
@[simp] theorem State.modTile_mgt (s : State) (t : Nat) (f : Tile → Tile) : (s.modTile t f).mgt = s.mgt := rfl
@[simp] theorem State.modTile_host (s : State) (t : Nat) (f : Tile → Tile) : (s.modTile t f).host = s.host := rfl
@[simp] theorem State.modTile_hostData (s : State) (t : Nat) (f : Tile → Tile) : (s.modTile t f).hostData = s.hostData := rfl
@[simp] theorem State.modTile_msixTab (s : State) (t : Nat) (f : Tile → Tile) : (s.modTile t f).msixTab = s.msixTab := rfl

@[simp] theorem State.setHerder_pending (s : State) (t : Nat) (h : Herder) : (s.setHerder t h).pending = s.pending := rfl
@[simp] theorem State.setHerder_freeCtr (s : State) (t : Nat) (h : Herder) : (s.setHerder t h).freeCtr = s.freeCtr := rfl
@[simp] theorem State.setHerder_regs (s : State) (t : Nat) (h : Herder) : (s.setHerder t h).regs = s.regs := rfl
@[simp] theorem State.setHerder_cwPend (s : State) (t : Nat) (h : Herder) : (s.setHerder t h).cwPend = s.cwPend := rfl
@[simp] theorem State.setHerder_shadow (s : State) (t : Nat) (h : Herder) : (s.setHerder t h).shadow = s.shadow := rfl
@[simp] theorem State.setHerder_mem (s : State) (t : Nat) (h : Herder) : (s.setHerder t h).mem = s.mem := rfl
@[simp] theorem State.setHerder_eccW (s : State) (t : Nat) (h : Herder) : (s.setHerder t h).eccW = s.eccW := rfl
@[simp] theorem State.setHerder_eccB (s : State) (t : Nat) (h : Herder) : (s.setHerder t h).eccB = s.eccB := rfl
@[simp] theorem State.setHerder_beats (s : State) (t : Nat) (h : Herder) : (s.setHerder t h).beats = s.beats := rfl
@[simp] theorem State.setHerder_sleds (s : State) (t : Nat) (h : Herder) : (s.setHerder t h).sleds = s.sleds := rfl
@[simp] theorem State.setHerder_fe (s : State) (t : Nat) (h : Herder) : (s.setHerder t h).fe = s.fe := rfl
@[simp] theorem State.setHerder_sec (s : State) (t : Nat) (h : Herder) : (s.setHerder t h).sec = s.sec := rfl
@[simp] theorem State.setHerder_link (s : State) (t : Nat) (h : Herder) : (s.setHerder t h).link = s.link := rfl
@[simp] theorem State.setHerder_time (s : State) (t : Nat) (h : Herder) : (s.setHerder t h).time = s.time := rfl
@[simp] theorem State.setHerder_power (s : State) (t : Nat) (h : Herder) : (s.setHerder t h).power = s.power := rfl
@[simp] theorem State.setHerder_mgt (s : State) (t : Nat) (h : Herder) : (s.setHerder t h).mgt = s.mgt := rfl
@[simp] theorem State.setHerder_host (s : State) (t : Nat) (h : Herder) : (s.setHerder t h).host = s.host := rfl
@[simp] theorem State.setHerder_hostData (s : State) (t : Nat) (h : Herder) : (s.setHerder t h).hostData = s.hostData := rfl
@[simp] theorem State.setHerder_msixTab (s : State) (t : Nat) (h : Herder) : (s.setHerder t h).msixTab = s.msixTab := rfl

@[simp] theorem State.modHerder_pending (s : State) (t : Nat) (f : Herder → Herder) : (s.modHerder t f).pending = s.pending := rfl
@[simp] theorem State.modHerder_freeCtr (s : State) (t : Nat) (f : Herder → Herder) : (s.modHerder t f).freeCtr = s.freeCtr := rfl
@[simp] theorem State.modHerder_regs (s : State) (t : Nat) (f : Herder → Herder) : (s.modHerder t f).regs = s.regs := rfl
@[simp] theorem State.modHerder_cwPend (s : State) (t : Nat) (f : Herder → Herder) : (s.modHerder t f).cwPend = s.cwPend := rfl
@[simp] theorem State.modHerder_shadow (s : State) (t : Nat) (f : Herder → Herder) : (s.modHerder t f).shadow = s.shadow := rfl
@[simp] theorem State.modHerder_mem (s : State) (t : Nat) (f : Herder → Herder) : (s.modHerder t f).mem = s.mem := rfl
@[simp] theorem State.modHerder_eccW (s : State) (t : Nat) (f : Herder → Herder) : (s.modHerder t f).eccW = s.eccW := rfl
@[simp] theorem State.modHerder_eccB (s : State) (t : Nat) (f : Herder → Herder) : (s.modHerder t f).eccB = s.eccB := rfl
@[simp] theorem State.modHerder_beats (s : State) (t : Nat) (f : Herder → Herder) : (s.modHerder t f).beats = s.beats := rfl
@[simp] theorem State.modHerder_sleds (s : State) (t : Nat) (f : Herder → Herder) : (s.modHerder t f).sleds = s.sleds := rfl
@[simp] theorem State.modHerder_fe (s : State) (t : Nat) (f : Herder → Herder) : (s.modHerder t f).fe = s.fe := rfl
@[simp] theorem State.modHerder_sec (s : State) (t : Nat) (f : Herder → Herder) : (s.modHerder t f).sec = s.sec := rfl
@[simp] theorem State.modHerder_link (s : State) (t : Nat) (f : Herder → Herder) : (s.modHerder t f).link = s.link := rfl
@[simp] theorem State.modHerder_time (s : State) (t : Nat) (f : Herder → Herder) : (s.modHerder t f).time = s.time := rfl
@[simp] theorem State.modHerder_power (s : State) (t : Nat) (f : Herder → Herder) : (s.modHerder t f).power = s.power := rfl
@[simp] theorem State.modHerder_mgt (s : State) (t : Nat) (f : Herder → Herder) : (s.modHerder t f).mgt = s.mgt := rfl
@[simp] theorem State.modHerder_host (s : State) (t : Nat) (f : Herder → Herder) : (s.modHerder t f).host = s.host := rfl
@[simp] theorem State.modHerder_hostData (s : State) (t : Nat) (f : Herder → Herder) : (s.modHerder t f).hostData = s.hostData := rfl
@[simp] theorem State.modHerder_msixTab (s : State) (t : Nat) (f : Herder → Herder) : (s.modHerder t f).msixTab = s.msixTab := rfl

@[simp] theorem State.setCtx_pending (s : State) (t : Nat) (k : Bool) (c : Ctx) : (s.setCtx t k c).pending = s.pending := rfl
@[simp] theorem State.setCtx_freeCtr (s : State) (t : Nat) (k : Bool) (c : Ctx) : (s.setCtx t k c).freeCtr = s.freeCtr := rfl
@[simp] theorem State.setCtx_regs (s : State) (t : Nat) (k : Bool) (c : Ctx) : (s.setCtx t k c).regs = s.regs := rfl
@[simp] theorem State.setCtx_cwPend (s : State) (t : Nat) (k : Bool) (c : Ctx) : (s.setCtx t k c).cwPend = s.cwPend := rfl
@[simp] theorem State.setCtx_shadow (s : State) (t : Nat) (k : Bool) (c : Ctx) : (s.setCtx t k c).shadow = s.shadow := rfl
@[simp] theorem State.setCtx_mem (s : State) (t : Nat) (k : Bool) (c : Ctx) : (s.setCtx t k c).mem = s.mem := rfl
@[simp] theorem State.setCtx_eccW (s : State) (t : Nat) (k : Bool) (c : Ctx) : (s.setCtx t k c).eccW = s.eccW := rfl
@[simp] theorem State.setCtx_eccB (s : State) (t : Nat) (k : Bool) (c : Ctx) : (s.setCtx t k c).eccB = s.eccB := rfl
@[simp] theorem State.setCtx_beats (s : State) (t : Nat) (k : Bool) (c : Ctx) : (s.setCtx t k c).beats = s.beats := rfl
@[simp] theorem State.setCtx_sleds (s : State) (t : Nat) (k : Bool) (c : Ctx) : (s.setCtx t k c).sleds = s.sleds := rfl
@[simp] theorem State.setCtx_fe (s : State) (t : Nat) (k : Bool) (c : Ctx) : (s.setCtx t k c).fe = s.fe := rfl
@[simp] theorem State.setCtx_sec (s : State) (t : Nat) (k : Bool) (c : Ctx) : (s.setCtx t k c).sec = s.sec := rfl
@[simp] theorem State.setCtx_link (s : State) (t : Nat) (k : Bool) (c : Ctx) : (s.setCtx t k c).link = s.link := rfl
@[simp] theorem State.setCtx_time (s : State) (t : Nat) (k : Bool) (c : Ctx) : (s.setCtx t k c).time = s.time := rfl
@[simp] theorem State.setCtx_power (s : State) (t : Nat) (k : Bool) (c : Ctx) : (s.setCtx t k c).power = s.power := rfl
@[simp] theorem State.setCtx_mgt (s : State) (t : Nat) (k : Bool) (c : Ctx) : (s.setCtx t k c).mgt = s.mgt := rfl
@[simp] theorem State.setCtx_host (s : State) (t : Nat) (k : Bool) (c : Ctx) : (s.setCtx t k c).host = s.host := rfl
@[simp] theorem State.setCtx_hostData (s : State) (t : Nat) (k : Bool) (c : Ctx) : (s.setCtx t k c).hostData = s.hostData := rfl
@[simp] theorem State.setCtx_msixTab (s : State) (t : Nat) (k : Bool) (c : Ctx) : (s.setCtx t k c).msixTab = s.msixTab := rfl

@[simp] theorem State.modCtx_pending (s : State) (t : Nat) (k : Bool) (f : Ctx → Ctx) : (s.modCtx t k f).pending = s.pending := rfl
@[simp] theorem State.modCtx_freeCtr (s : State) (t : Nat) (k : Bool) (f : Ctx → Ctx) : (s.modCtx t k f).freeCtr = s.freeCtr := rfl
@[simp] theorem State.modCtx_regs (s : State) (t : Nat) (k : Bool) (f : Ctx → Ctx) : (s.modCtx t k f).regs = s.regs := rfl
@[simp] theorem State.modCtx_cwPend (s : State) (t : Nat) (k : Bool) (f : Ctx → Ctx) : (s.modCtx t k f).cwPend = s.cwPend := rfl
@[simp] theorem State.modCtx_shadow (s : State) (t : Nat) (k : Bool) (f : Ctx → Ctx) : (s.modCtx t k f).shadow = s.shadow := rfl
@[simp] theorem State.modCtx_mem (s : State) (t : Nat) (k : Bool) (f : Ctx → Ctx) : (s.modCtx t k f).mem = s.mem := rfl
@[simp] theorem State.modCtx_eccW (s : State) (t : Nat) (k : Bool) (f : Ctx → Ctx) : (s.modCtx t k f).eccW = s.eccW := rfl
@[simp] theorem State.modCtx_eccB (s : State) (t : Nat) (k : Bool) (f : Ctx → Ctx) : (s.modCtx t k f).eccB = s.eccB := rfl
@[simp] theorem State.modCtx_beats (s : State) (t : Nat) (k : Bool) (f : Ctx → Ctx) : (s.modCtx t k f).beats = s.beats := rfl
@[simp] theorem State.modCtx_sleds (s : State) (t : Nat) (k : Bool) (f : Ctx → Ctx) : (s.modCtx t k f).sleds = s.sleds := rfl
@[simp] theorem State.modCtx_fe (s : State) (t : Nat) (k : Bool) (f : Ctx → Ctx) : (s.modCtx t k f).fe = s.fe := rfl
@[simp] theorem State.modCtx_sec (s : State) (t : Nat) (k : Bool) (f : Ctx → Ctx) : (s.modCtx t k f).sec = s.sec := rfl
@[simp] theorem State.modCtx_link (s : State) (t : Nat) (k : Bool) (f : Ctx → Ctx) : (s.modCtx t k f).link = s.link := rfl
@[simp] theorem State.modCtx_time (s : State) (t : Nat) (k : Bool) (f : Ctx → Ctx) : (s.modCtx t k f).time = s.time := rfl
@[simp] theorem State.modCtx_power (s : State) (t : Nat) (k : Bool) (f : Ctx → Ctx) : (s.modCtx t k f).power = s.power := rfl
@[simp] theorem State.modCtx_mgt (s : State) (t : Nat) (k : Bool) (f : Ctx → Ctx) : (s.modCtx t k f).mgt = s.mgt := rfl
@[simp] theorem State.modCtx_host (s : State) (t : Nat) (k : Bool) (f : Ctx → Ctx) : (s.modCtx t k f).host = s.host := rfl
@[simp] theorem State.modCtx_hostData (s : State) (t : Nat) (k : Bool) (f : Ctx → Ctx) : (s.modCtx t k f).hostData = s.hostData := rfl
@[simp] theorem State.modCtx_msixTab (s : State) (t : Nat) (k : Bool) (f : Ctx → Ctx) : (s.modCtx t k f).msixTab = s.msixTab := rfl

@[simp] theorem State.modPack_pending (s : State) (t : Nat) (f : Pack → Pack) : (s.modPack t f).pending = s.pending := rfl
@[simp] theorem State.modPack_freeCtr (s : State) (t : Nat) (f : Pack → Pack) : (s.modPack t f).freeCtr = s.freeCtr := rfl
@[simp] theorem State.modPack_regs (s : State) (t : Nat) (f : Pack → Pack) : (s.modPack t f).regs = s.regs := rfl
@[simp] theorem State.modPack_cwPend (s : State) (t : Nat) (f : Pack → Pack) : (s.modPack t f).cwPend = s.cwPend := rfl
@[simp] theorem State.modPack_shadow (s : State) (t : Nat) (f : Pack → Pack) : (s.modPack t f).shadow = s.shadow := rfl
@[simp] theorem State.modPack_mem (s : State) (t : Nat) (f : Pack → Pack) : (s.modPack t f).mem = s.mem := rfl
@[simp] theorem State.modPack_eccW (s : State) (t : Nat) (f : Pack → Pack) : (s.modPack t f).eccW = s.eccW := rfl
@[simp] theorem State.modPack_eccB (s : State) (t : Nat) (f : Pack → Pack) : (s.modPack t f).eccB = s.eccB := rfl
@[simp] theorem State.modPack_beats (s : State) (t : Nat) (f : Pack → Pack) : (s.modPack t f).beats = s.beats := rfl
@[simp] theorem State.modPack_sleds (s : State) (t : Nat) (f : Pack → Pack) : (s.modPack t f).sleds = s.sleds := rfl
@[simp] theorem State.modPack_fe (s : State) (t : Nat) (f : Pack → Pack) : (s.modPack t f).fe = s.fe := rfl
@[simp] theorem State.modPack_sec (s : State) (t : Nat) (f : Pack → Pack) : (s.modPack t f).sec = s.sec := rfl
@[simp] theorem State.modPack_link (s : State) (t : Nat) (f : Pack → Pack) : (s.modPack t f).link = s.link := rfl
@[simp] theorem State.modPack_time (s : State) (t : Nat) (f : Pack → Pack) : (s.modPack t f).time = s.time := rfl
@[simp] theorem State.modPack_power (s : State) (t : Nat) (f : Pack → Pack) : (s.modPack t f).power = s.power := rfl
@[simp] theorem State.modPack_mgt (s : State) (t : Nat) (f : Pack → Pack) : (s.modPack t f).mgt = s.mgt := rfl
@[simp] theorem State.modPack_host (s : State) (t : Nat) (f : Pack → Pack) : (s.modPack t f).host = s.host := rfl
@[simp] theorem State.modPack_hostData (s : State) (t : Nat) (f : Pack → Pack) : (s.modPack t f).hostData = s.hostData := rfl
@[simp] theorem State.modPack_msixTab (s : State) (t : Nat) (f : Pack → Pack) : (s.modPack t f).msixTab = s.msixTab := rfl

@[simp] theorem State.modArr_pending (s : State) (t a : Nat) (f : Arr → Arr) : (s.modArr t a f).pending = s.pending := rfl
@[simp] theorem State.modArr_freeCtr (s : State) (t a : Nat) (f : Arr → Arr) : (s.modArr t a f).freeCtr = s.freeCtr := rfl
@[simp] theorem State.modArr_regs (s : State) (t a : Nat) (f : Arr → Arr) : (s.modArr t a f).regs = s.regs := rfl
@[simp] theorem State.modArr_cwPend (s : State) (t a : Nat) (f : Arr → Arr) : (s.modArr t a f).cwPend = s.cwPend := rfl
@[simp] theorem State.modArr_shadow (s : State) (t a : Nat) (f : Arr → Arr) : (s.modArr t a f).shadow = s.shadow := rfl
@[simp] theorem State.modArr_mem (s : State) (t a : Nat) (f : Arr → Arr) : (s.modArr t a f).mem = s.mem := rfl
@[simp] theorem State.modArr_eccW (s : State) (t a : Nat) (f : Arr → Arr) : (s.modArr t a f).eccW = s.eccW := rfl
@[simp] theorem State.modArr_eccB (s : State) (t a : Nat) (f : Arr → Arr) : (s.modArr t a f).eccB = s.eccB := rfl
@[simp] theorem State.modArr_beats (s : State) (t a : Nat) (f : Arr → Arr) : (s.modArr t a f).beats = s.beats := rfl
@[simp] theorem State.modArr_sleds (s : State) (t a : Nat) (f : Arr → Arr) : (s.modArr t a f).sleds = s.sleds := rfl
@[simp] theorem State.modArr_fe (s : State) (t a : Nat) (f : Arr → Arr) : (s.modArr t a f).fe = s.fe := rfl
@[simp] theorem State.modArr_sec (s : State) (t a : Nat) (f : Arr → Arr) : (s.modArr t a f).sec = s.sec := rfl
@[simp] theorem State.modArr_link (s : State) (t a : Nat) (f : Arr → Arr) : (s.modArr t a f).link = s.link := rfl
@[simp] theorem State.modArr_time (s : State) (t a : Nat) (f : Arr → Arr) : (s.modArr t a f).time = s.time := rfl
@[simp] theorem State.modArr_power (s : State) (t a : Nat) (f : Arr → Arr) : (s.modArr t a f).power = s.power := rfl
@[simp] theorem State.modArr_mgt (s : State) (t a : Nat) (f : Arr → Arr) : (s.modArr t a f).mgt = s.mgt := rfl
@[simp] theorem State.modArr_host (s : State) (t a : Nat) (f : Arr → Arr) : (s.modArr t a f).host = s.host := rfl
@[simp] theorem State.modArr_hostData (s : State) (t a : Nat) (f : Arr → Arr) : (s.modArr t a f).hostData = s.hostData := rfl
@[simp] theorem State.modArr_msixTab (s : State) (t a : Nat) (f : Arr → Arr) : (s.modArr t a f).msixTab = s.msixTab := rfl

@[simp] theorem State.modEntry_pending (s : State) (t : Nat) (k : Bool) (n : Nat) (f : Entry → Entry) : (s.modEntry t k n f).pending = s.pending := rfl
@[simp] theorem State.modEntry_freeCtr (s : State) (t : Nat) (k : Bool) (n : Nat) (f : Entry → Entry) : (s.modEntry t k n f).freeCtr = s.freeCtr := rfl
@[simp] theorem State.modEntry_regs (s : State) (t : Nat) (k : Bool) (n : Nat) (f : Entry → Entry) : (s.modEntry t k n f).regs = s.regs := rfl
@[simp] theorem State.modEntry_cwPend (s : State) (t : Nat) (k : Bool) (n : Nat) (f : Entry → Entry) : (s.modEntry t k n f).cwPend = s.cwPend := rfl
@[simp] theorem State.modEntry_shadow (s : State) (t : Nat) (k : Bool) (n : Nat) (f : Entry → Entry) : (s.modEntry t k n f).shadow = s.shadow := rfl
@[simp] theorem State.modEntry_mem (s : State) (t : Nat) (k : Bool) (n : Nat) (f : Entry → Entry) : (s.modEntry t k n f).mem = s.mem := rfl
@[simp] theorem State.modEntry_eccW (s : State) (t : Nat) (k : Bool) (n : Nat) (f : Entry → Entry) : (s.modEntry t k n f).eccW = s.eccW := rfl
@[simp] theorem State.modEntry_eccB (s : State) (t : Nat) (k : Bool) (n : Nat) (f : Entry → Entry) : (s.modEntry t k n f).eccB = s.eccB := rfl
@[simp] theorem State.modEntry_beats (s : State) (t : Nat) (k : Bool) (n : Nat) (f : Entry → Entry) : (s.modEntry t k n f).beats = s.beats := rfl
@[simp] theorem State.modEntry_sleds (s : State) (t : Nat) (k : Bool) (n : Nat) (f : Entry → Entry) : (s.modEntry t k n f).sleds = s.sleds := rfl
@[simp] theorem State.modEntry_fe (s : State) (t : Nat) (k : Bool) (n : Nat) (f : Entry → Entry) : (s.modEntry t k n f).fe = s.fe := rfl
@[simp] theorem State.modEntry_sec (s : State) (t : Nat) (k : Bool) (n : Nat) (f : Entry → Entry) : (s.modEntry t k n f).sec = s.sec := rfl
@[simp] theorem State.modEntry_link (s : State) (t : Nat) (k : Bool) (n : Nat) (f : Entry → Entry) : (s.modEntry t k n f).link = s.link := rfl
@[simp] theorem State.modEntry_time (s : State) (t : Nat) (k : Bool) (n : Nat) (f : Entry → Entry) : (s.modEntry t k n f).time = s.time := rfl
@[simp] theorem State.modEntry_power (s : State) (t : Nat) (k : Bool) (n : Nat) (f : Entry → Entry) : (s.modEntry t k n f).power = s.power := rfl
@[simp] theorem State.modEntry_mgt (s : State) (t : Nat) (k : Bool) (n : Nat) (f : Entry → Entry) : (s.modEntry t k n f).mgt = s.mgt := rfl
@[simp] theorem State.modEntry_host (s : State) (t : Nat) (k : Bool) (n : Nat) (f : Entry → Entry) : (s.modEntry t k n f).host = s.host := rfl
@[simp] theorem State.modEntry_hostData (s : State) (t : Nat) (k : Bool) (n : Nat) (f : Entry → Entry) : (s.modEntry t k n f).hostData = s.hostData := rfl
@[simp] theorem State.modEntry_msixTab (s : State) (t : Nat) (k : Bool) (n : Nat) (f : Entry → Entry) : (s.modEntry t k n f).msixTab = s.msixTab := rfl

@[simp] theorem State.dropEntry_pending (s : State) (t : Nat) (k : Bool) (n : Nat) : (s.dropEntry t k n).pending = s.pending := rfl
@[simp] theorem State.dropEntry_freeCtr (s : State) (t : Nat) (k : Bool) (n : Nat) : (s.dropEntry t k n).freeCtr = s.freeCtr := rfl
@[simp] theorem State.dropEntry_regs (s : State) (t : Nat) (k : Bool) (n : Nat) : (s.dropEntry t k n).regs = s.regs := rfl
@[simp] theorem State.dropEntry_cwPend (s : State) (t : Nat) (k : Bool) (n : Nat) : (s.dropEntry t k n).cwPend = s.cwPend := rfl
@[simp] theorem State.dropEntry_shadow (s : State) (t : Nat) (k : Bool) (n : Nat) : (s.dropEntry t k n).shadow = s.shadow := rfl
@[simp] theorem State.dropEntry_mem (s : State) (t : Nat) (k : Bool) (n : Nat) : (s.dropEntry t k n).mem = s.mem := rfl
@[simp] theorem State.dropEntry_eccW (s : State) (t : Nat) (k : Bool) (n : Nat) : (s.dropEntry t k n).eccW = s.eccW := rfl
@[simp] theorem State.dropEntry_eccB (s : State) (t : Nat) (k : Bool) (n : Nat) : (s.dropEntry t k n).eccB = s.eccB := rfl
@[simp] theorem State.dropEntry_beats (s : State) (t : Nat) (k : Bool) (n : Nat) : (s.dropEntry t k n).beats = s.beats := rfl
@[simp] theorem State.dropEntry_sleds (s : State) (t : Nat) (k : Bool) (n : Nat) : (s.dropEntry t k n).sleds = s.sleds := rfl
@[simp] theorem State.dropEntry_fe (s : State) (t : Nat) (k : Bool) (n : Nat) : (s.dropEntry t k n).fe = s.fe := rfl
@[simp] theorem State.dropEntry_sec (s : State) (t : Nat) (k : Bool) (n : Nat) : (s.dropEntry t k n).sec = s.sec := rfl
@[simp] theorem State.dropEntry_link (s : State) (t : Nat) (k : Bool) (n : Nat) : (s.dropEntry t k n).link = s.link := rfl
@[simp] theorem State.dropEntry_time (s : State) (t : Nat) (k : Bool) (n : Nat) : (s.dropEntry t k n).time = s.time := rfl
@[simp] theorem State.dropEntry_power (s : State) (t : Nat) (k : Bool) (n : Nat) : (s.dropEntry t k n).power = s.power := rfl
@[simp] theorem State.dropEntry_mgt (s : State) (t : Nat) (k : Bool) (n : Nat) : (s.dropEntry t k n).mgt = s.mgt := rfl
@[simp] theorem State.dropEntry_host (s : State) (t : Nat) (k : Bool) (n : Nat) : (s.dropEntry t k n).host = s.host := rfl
@[simp] theorem State.dropEntry_hostData (s : State) (t : Nat) (k : Bool) (n : Nat) : (s.dropEntry t k n).hostData = s.hostData := rfl
@[simp] theorem State.dropEntry_msixTab (s : State) (t : Nat) (k : Bool) (n : Nat) : (s.dropEntry t k n).msixTab = s.msixTab := rfl

@[simp] theorem State.setRing_pending (s : State) (g : Nat) (r : Ring) : (s.setRing g r).pending = s.pending := rfl
@[simp] theorem State.setRing_freeCtr (s : State) (g : Nat) (r : Ring) : (s.setRing g r).freeCtr = s.freeCtr := rfl
@[simp] theorem State.setRing_regs (s : State) (g : Nat) (r : Ring) : (s.setRing g r).regs = s.regs := rfl
@[simp] theorem State.setRing_cwPend (s : State) (g : Nat) (r : Ring) : (s.setRing g r).cwPend = s.cwPend := rfl
@[simp] theorem State.setRing_shadow (s : State) (g : Nat) (r : Ring) : (s.setRing g r).shadow = s.shadow := rfl
@[simp] theorem State.setRing_mem (s : State) (g : Nat) (r : Ring) : (s.setRing g r).mem = s.mem := rfl
@[simp] theorem State.setRing_eccW (s : State) (g : Nat) (r : Ring) : (s.setRing g r).eccW = s.eccW := rfl
@[simp] theorem State.setRing_eccB (s : State) (g : Nat) (r : Ring) : (s.setRing g r).eccB = s.eccB := rfl
@[simp] theorem State.setRing_tiles (s : State) (g : Nat) (r : Ring) : (s.setRing g r).tiles = s.tiles := rfl
@[simp] theorem State.setRing_beats (s : State) (g : Nat) (r : Ring) : (s.setRing g r).beats = s.beats := rfl
@[simp] theorem State.setRing_sleds (s : State) (g : Nat) (r : Ring) : (s.setRing g r).sleds = s.sleds := rfl
@[simp] theorem State.setRing_sec (s : State) (g : Nat) (r : Ring) : (s.setRing g r).sec = s.sec := rfl
@[simp] theorem State.setRing_link (s : State) (g : Nat) (r : Ring) : (s.setRing g r).link = s.link := rfl
@[simp] theorem State.setRing_time (s : State) (g : Nat) (r : Ring) : (s.setRing g r).time = s.time := rfl
@[simp] theorem State.setRing_power (s : State) (g : Nat) (r : Ring) : (s.setRing g r).power = s.power := rfl
@[simp] theorem State.setRing_mgt (s : State) (g : Nat) (r : Ring) : (s.setRing g r).mgt = s.mgt := rfl
@[simp] theorem State.setRing_host (s : State) (g : Nat) (r : Ring) : (s.setRing g r).host = s.host := rfl
@[simp] theorem State.setRing_hostData (s : State) (g : Nat) (r : Ring) : (s.setRing g r).hostData = s.hostData := rfl
@[simp] theorem State.setRing_msixTab (s : State) (g : Nat) (r : Ring) : (s.setRing g r).msixTab = s.msixTab := rfl

@[simp] theorem State.modRing_pending (s : State) (g : Nat) (f : Ring → Ring) : (s.modRing g f).pending = s.pending := rfl
@[simp] theorem State.modRing_freeCtr (s : State) (g : Nat) (f : Ring → Ring) : (s.modRing g f).freeCtr = s.freeCtr := rfl
@[simp] theorem State.modRing_regs (s : State) (g : Nat) (f : Ring → Ring) : (s.modRing g f).regs = s.regs := rfl
@[simp] theorem State.modRing_cwPend (s : State) (g : Nat) (f : Ring → Ring) : (s.modRing g f).cwPend = s.cwPend := rfl
@[simp] theorem State.modRing_shadow (s : State) (g : Nat) (f : Ring → Ring) : (s.modRing g f).shadow = s.shadow := rfl
@[simp] theorem State.modRing_mem (s : State) (g : Nat) (f : Ring → Ring) : (s.modRing g f).mem = s.mem := rfl
@[simp] theorem State.modRing_eccW (s : State) (g : Nat) (f : Ring → Ring) : (s.modRing g f).eccW = s.eccW := rfl
@[simp] theorem State.modRing_eccB (s : State) (g : Nat) (f : Ring → Ring) : (s.modRing g f).eccB = s.eccB := rfl
@[simp] theorem State.modRing_tiles (s : State) (g : Nat) (f : Ring → Ring) : (s.modRing g f).tiles = s.tiles := rfl
@[simp] theorem State.modRing_beats (s : State) (g : Nat) (f : Ring → Ring) : (s.modRing g f).beats = s.beats := rfl
@[simp] theorem State.modRing_sleds (s : State) (g : Nat) (f : Ring → Ring) : (s.modRing g f).sleds = s.sleds := rfl
@[simp] theorem State.modRing_sec (s : State) (g : Nat) (f : Ring → Ring) : (s.modRing g f).sec = s.sec := rfl
@[simp] theorem State.modRing_link (s : State) (g : Nat) (f : Ring → Ring) : (s.modRing g f).link = s.link := rfl
@[simp] theorem State.modRing_time (s : State) (g : Nat) (f : Ring → Ring) : (s.modRing g f).time = s.time := rfl
@[simp] theorem State.modRing_power (s : State) (g : Nat) (f : Ring → Ring) : (s.modRing g f).power = s.power := rfl
@[simp] theorem State.modRing_mgt (s : State) (g : Nat) (f : Ring → Ring) : (s.modRing g f).mgt = s.mgt := rfl
@[simp] theorem State.modRing_host (s : State) (g : Nat) (f : Ring → Ring) : (s.modRing g f).host = s.host := rfl
@[simp] theorem State.modRing_hostData (s : State) (g : Nat) (f : Ring → Ring) : (s.modRing g f).hostData = s.hostData := rfl
@[simp] theorem State.modRing_msixTab (s : State) (g : Nat) (f : Ring → Ring) : (s.modRing g f).msixTab = s.msixTab := rfl

@[simp] theorem State.setPart_pending (s : State) (p : Nat) (x : Part) : (s.setPart p x).pending = s.pending := rfl
@[simp] theorem State.setPart_freeCtr (s : State) (p : Nat) (x : Part) : (s.setPart p x).freeCtr = s.freeCtr := rfl
@[simp] theorem State.setPart_regs (s : State) (p : Nat) (x : Part) : (s.setPart p x).regs = s.regs := rfl
@[simp] theorem State.setPart_cwPend (s : State) (p : Nat) (x : Part) : (s.setPart p x).cwPend = s.cwPend := rfl
@[simp] theorem State.setPart_shadow (s : State) (p : Nat) (x : Part) : (s.setPart p x).shadow = s.shadow := rfl
@[simp] theorem State.setPart_mem (s : State) (p : Nat) (x : Part) : (s.setPart p x).mem = s.mem := rfl
@[simp] theorem State.setPart_eccW (s : State) (p : Nat) (x : Part) : (s.setPart p x).eccW = s.eccW := rfl
@[simp] theorem State.setPart_eccB (s : State) (p : Nat) (x : Part) : (s.setPart p x).eccB = s.eccB := rfl
@[simp] theorem State.setPart_tiles (s : State) (p : Nat) (x : Part) : (s.setPart p x).tiles = s.tiles := rfl
@[simp] theorem State.setPart_beats (s : State) (p : Nat) (x : Part) : (s.setPart p x).beats = s.beats := rfl
@[simp] theorem State.setPart_sleds (s : State) (p : Nat) (x : Part) : (s.setPart p x).sleds = s.sleds := rfl
@[simp] theorem State.setPart_fe (s : State) (p : Nat) (x : Part) : (s.setPart p x).fe = s.fe := rfl
@[simp] theorem State.setPart_link (s : State) (p : Nat) (x : Part) : (s.setPart p x).link = s.link := rfl
@[simp] theorem State.setPart_time (s : State) (p : Nat) (x : Part) : (s.setPart p x).time = s.time := rfl
@[simp] theorem State.setPart_power (s : State) (p : Nat) (x : Part) : (s.setPart p x).power = s.power := rfl
@[simp] theorem State.setPart_mgt (s : State) (p : Nat) (x : Part) : (s.setPart p x).mgt = s.mgt := rfl
@[simp] theorem State.setPart_host (s : State) (p : Nat) (x : Part) : (s.setPart p x).host = s.host := rfl
@[simp] theorem State.setPart_hostData (s : State) (p : Nat) (x : Part) : (s.setPart p x).hostData = s.hostData := rfl
@[simp] theorem State.setPart_msixTab (s : State) (p : Nat) (x : Part) : (s.setPart p x).msixTab = s.msixTab := rfl

@[simp] theorem State.modPart_pending (s : State) (p : Nat) (f : Part → Part) : (s.modPart p f).pending = s.pending := rfl
@[simp] theorem State.modPart_freeCtr (s : State) (p : Nat) (f : Part → Part) : (s.modPart p f).freeCtr = s.freeCtr := rfl
@[simp] theorem State.modPart_regs (s : State) (p : Nat) (f : Part → Part) : (s.modPart p f).regs = s.regs := rfl
@[simp] theorem State.modPart_cwPend (s : State) (p : Nat) (f : Part → Part) : (s.modPart p f).cwPend = s.cwPend := rfl
@[simp] theorem State.modPart_shadow (s : State) (p : Nat) (f : Part → Part) : (s.modPart p f).shadow = s.shadow := rfl
@[simp] theorem State.modPart_mem (s : State) (p : Nat) (f : Part → Part) : (s.modPart p f).mem = s.mem := rfl
@[simp] theorem State.modPart_eccW (s : State) (p : Nat) (f : Part → Part) : (s.modPart p f).eccW = s.eccW := rfl
@[simp] theorem State.modPart_eccB (s : State) (p : Nat) (f : Part → Part) : (s.modPart p f).eccB = s.eccB := rfl
@[simp] theorem State.modPart_tiles (s : State) (p : Nat) (f : Part → Part) : (s.modPart p f).tiles = s.tiles := rfl
@[simp] theorem State.modPart_beats (s : State) (p : Nat) (f : Part → Part) : (s.modPart p f).beats = s.beats := rfl
@[simp] theorem State.modPart_sleds (s : State) (p : Nat) (f : Part → Part) : (s.modPart p f).sleds = s.sleds := rfl
@[simp] theorem State.modPart_fe (s : State) (p : Nat) (f : Part → Part) : (s.modPart p f).fe = s.fe := rfl
@[simp] theorem State.modPart_link (s : State) (p : Nat) (f : Part → Part) : (s.modPart p f).link = s.link := rfl
@[simp] theorem State.modPart_time (s : State) (p : Nat) (f : Part → Part) : (s.modPart p f).time = s.time := rfl
@[simp] theorem State.modPart_power (s : State) (p : Nat) (f : Part → Part) : (s.modPart p f).power = s.power := rfl
@[simp] theorem State.modPart_mgt (s : State) (p : Nat) (f : Part → Part) : (s.modPart p f).mgt = s.mgt := rfl
@[simp] theorem State.modPart_host (s : State) (p : Nat) (f : Part → Part) : (s.modPart p f).host = s.host := rfl
@[simp] theorem State.modPart_hostData (s : State) (p : Nat) (f : Part → Part) : (s.modPart p f).hostData = s.hostData := rfl
@[simp] theorem State.modPart_msixTab (s : State) (p : Nat) (f : Part → Part) : (s.modPart p f).msixTab = s.msixTab := rfl

@[simp] theorem State.setLink_pending (s : State) (k : Nat) (l : Link) : (s.setLink k l).pending = s.pending := rfl
@[simp] theorem State.setLink_freeCtr (s : State) (k : Nat) (l : Link) : (s.setLink k l).freeCtr = s.freeCtr := rfl
@[simp] theorem State.setLink_regs (s : State) (k : Nat) (l : Link) : (s.setLink k l).regs = s.regs := rfl
@[simp] theorem State.setLink_cwPend (s : State) (k : Nat) (l : Link) : (s.setLink k l).cwPend = s.cwPend := rfl
@[simp] theorem State.setLink_shadow (s : State) (k : Nat) (l : Link) : (s.setLink k l).shadow = s.shadow := rfl
@[simp] theorem State.setLink_mem (s : State) (k : Nat) (l : Link) : (s.setLink k l).mem = s.mem := rfl
@[simp] theorem State.setLink_eccW (s : State) (k : Nat) (l : Link) : (s.setLink k l).eccW = s.eccW := rfl
@[simp] theorem State.setLink_eccB (s : State) (k : Nat) (l : Link) : (s.setLink k l).eccB = s.eccB := rfl
@[simp] theorem State.setLink_tiles (s : State) (k : Nat) (l : Link) : (s.setLink k l).tiles = s.tiles := rfl
@[simp] theorem State.setLink_beats (s : State) (k : Nat) (l : Link) : (s.setLink k l).beats = s.beats := rfl
@[simp] theorem State.setLink_sleds (s : State) (k : Nat) (l : Link) : (s.setLink k l).sleds = s.sleds := rfl
@[simp] theorem State.setLink_fe (s : State) (k : Nat) (l : Link) : (s.setLink k l).fe = s.fe := rfl
@[simp] theorem State.setLink_sec (s : State) (k : Nat) (l : Link) : (s.setLink k l).sec = s.sec := rfl
@[simp] theorem State.setLink_time (s : State) (k : Nat) (l : Link) : (s.setLink k l).time = s.time := rfl
@[simp] theorem State.setLink_power (s : State) (k : Nat) (l : Link) : (s.setLink k l).power = s.power := rfl
@[simp] theorem State.setLink_mgt (s : State) (k : Nat) (l : Link) : (s.setLink k l).mgt = s.mgt := rfl
@[simp] theorem State.setLink_host (s : State) (k : Nat) (l : Link) : (s.setLink k l).host = s.host := rfl
@[simp] theorem State.setLink_hostData (s : State) (k : Nat) (l : Link) : (s.setLink k l).hostData = s.hostData := rfl
@[simp] theorem State.setLink_msixTab (s : State) (k : Nat) (l : Link) : (s.setLink k l).msixTab = s.msixTab := rfl

@[simp] theorem State.modLink_pending (s : State) (k : Nat) (f : Link → Link) : (s.modLink k f).pending = s.pending := rfl
@[simp] theorem State.modLink_freeCtr (s : State) (k : Nat) (f : Link → Link) : (s.modLink k f).freeCtr = s.freeCtr := rfl
@[simp] theorem State.modLink_regs (s : State) (k : Nat) (f : Link → Link) : (s.modLink k f).regs = s.regs := rfl
@[simp] theorem State.modLink_cwPend (s : State) (k : Nat) (f : Link → Link) : (s.modLink k f).cwPend = s.cwPend := rfl
@[simp] theorem State.modLink_shadow (s : State) (k : Nat) (f : Link → Link) : (s.modLink k f).shadow = s.shadow := rfl
@[simp] theorem State.modLink_mem (s : State) (k : Nat) (f : Link → Link) : (s.modLink k f).mem = s.mem := rfl
@[simp] theorem State.modLink_eccW (s : State) (k : Nat) (f : Link → Link) : (s.modLink k f).eccW = s.eccW := rfl
@[simp] theorem State.modLink_eccB (s : State) (k : Nat) (f : Link → Link) : (s.modLink k f).eccB = s.eccB := rfl
@[simp] theorem State.modLink_tiles (s : State) (k : Nat) (f : Link → Link) : (s.modLink k f).tiles = s.tiles := rfl
@[simp] theorem State.modLink_beats (s : State) (k : Nat) (f : Link → Link) : (s.modLink k f).beats = s.beats := rfl
@[simp] theorem State.modLink_sleds (s : State) (k : Nat) (f : Link → Link) : (s.modLink k f).sleds = s.sleds := rfl
@[simp] theorem State.modLink_fe (s : State) (k : Nat) (f : Link → Link) : (s.modLink k f).fe = s.fe := rfl
@[simp] theorem State.modLink_sec (s : State) (k : Nat) (f : Link → Link) : (s.modLink k f).sec = s.sec := rfl
@[simp] theorem State.modLink_time (s : State) (k : Nat) (f : Link → Link) : (s.modLink k f).time = s.time := rfl
@[simp] theorem State.modLink_power (s : State) (k : Nat) (f : Link → Link) : (s.modLink k f).power = s.power := rfl
@[simp] theorem State.modLink_mgt (s : State) (k : Nat) (f : Link → Link) : (s.modLink k f).mgt = s.mgt := rfl
@[simp] theorem State.modLink_host (s : State) (k : Nat) (f : Link → Link) : (s.modLink k f).host = s.host := rfl
@[simp] theorem State.modLink_hostData (s : State) (k : Nat) (f : Link → Link) : (s.modLink k f).hostData = s.hostData := rfl
@[simp] theorem State.modLink_msixTab (s : State) (k : Nat) (f : Link → Link) : (s.modLink k f).msixTab = s.msixTab := rfl

@[simp] theorem State.tell_pending (s : State) (m : HostMsg) : (s.tell m).pending = s.pending := rfl
@[simp] theorem State.tell_freeCtr (s : State) (m : HostMsg) : (s.tell m).freeCtr = s.freeCtr := rfl
@[simp] theorem State.tell_regs (s : State) (m : HostMsg) : (s.tell m).regs = s.regs := rfl
@[simp] theorem State.tell_cwPend (s : State) (m : HostMsg) : (s.tell m).cwPend = s.cwPend := rfl
@[simp] theorem State.tell_shadow (s : State) (m : HostMsg) : (s.tell m).shadow = s.shadow := rfl
@[simp] theorem State.tell_mem (s : State) (m : HostMsg) : (s.tell m).mem = s.mem := rfl
@[simp] theorem State.tell_eccW (s : State) (m : HostMsg) : (s.tell m).eccW = s.eccW := rfl
@[simp] theorem State.tell_eccB (s : State) (m : HostMsg) : (s.tell m).eccB = s.eccB := rfl
@[simp] theorem State.tell_tiles (s : State) (m : HostMsg) : (s.tell m).tiles = s.tiles := rfl
@[simp] theorem State.tell_beats (s : State) (m : HostMsg) : (s.tell m).beats = s.beats := rfl
@[simp] theorem State.tell_sleds (s : State) (m : HostMsg) : (s.tell m).sleds = s.sleds := rfl
@[simp] theorem State.tell_fe (s : State) (m : HostMsg) : (s.tell m).fe = s.fe := rfl
@[simp] theorem State.tell_sec (s : State) (m : HostMsg) : (s.tell m).sec = s.sec := rfl
@[simp] theorem State.tell_link (s : State) (m : HostMsg) : (s.tell m).link = s.link := rfl
@[simp] theorem State.tell_time (s : State) (m : HostMsg) : (s.tell m).time = s.time := rfl
@[simp] theorem State.tell_power (s : State) (m : HostMsg) : (s.tell m).power = s.power := rfl
@[simp] theorem State.tell_mgt (s : State) (m : HostMsg) : (s.tell m).mgt = s.mgt := rfl
@[simp] theorem State.tell_hostData (s : State) (m : HostMsg) : (s.tell m).hostData = s.hostData := rfl
@[simp] theorem State.tell_msixTab (s : State) (m : HostMsg) : (s.tell m).msixTab = s.msixTab := rfl

@[simp] theorem State.msix_pending (s : State) (v : Nat) : (s.msix v).pending = s.pending := rfl
@[simp] theorem State.msix_freeCtr (s : State) (v : Nat) : (s.msix v).freeCtr = s.freeCtr := rfl
@[simp] theorem State.msix_regs (s : State) (v : Nat) : (s.msix v).regs = s.regs := rfl
@[simp] theorem State.msix_cwPend (s : State) (v : Nat) : (s.msix v).cwPend = s.cwPend := rfl
@[simp] theorem State.msix_shadow (s : State) (v : Nat) : (s.msix v).shadow = s.shadow := rfl
@[simp] theorem State.msix_mem (s : State) (v : Nat) : (s.msix v).mem = s.mem := rfl
@[simp] theorem State.msix_eccW (s : State) (v : Nat) : (s.msix v).eccW = s.eccW := rfl
@[simp] theorem State.msix_eccB (s : State) (v : Nat) : (s.msix v).eccB = s.eccB := rfl
@[simp] theorem State.msix_tiles (s : State) (v : Nat) : (s.msix v).tiles = s.tiles := rfl
@[simp] theorem State.msix_beats (s : State) (v : Nat) : (s.msix v).beats = s.beats := rfl
@[simp] theorem State.msix_sleds (s : State) (v : Nat) : (s.msix v).sleds = s.sleds := rfl
@[simp] theorem State.msix_fe (s : State) (v : Nat) : (s.msix v).fe = s.fe := rfl
@[simp] theorem State.msix_sec (s : State) (v : Nat) : (s.msix v).sec = s.sec := rfl
@[simp] theorem State.msix_link (s : State) (v : Nat) : (s.msix v).link = s.link := rfl
@[simp] theorem State.msix_time (s : State) (v : Nat) : (s.msix v).time = s.time := rfl
@[simp] theorem State.msix_power (s : State) (v : Nat) : (s.msix v).power = s.power := rfl
@[simp] theorem State.msix_mgt (s : State) (v : Nat) : (s.msix v).mgt = s.mgt := rfl
@[simp] theorem State.msix_hostData (s : State) (v : Nat) : (s.msix v).hostData = s.hostData := rfl
@[simp] theorem State.msix_msixTab (s : State) (v : Nat) : (s.msix v).msixTab = s.msixTab := rfl

@[simp] theorem State.advance_pending (s : State) (t : Nat) (k : Bool) : (s.advance t k).pending = s.pending := rfl
@[simp] theorem State.advance_freeCtr (s : State) (t : Nat) (k : Bool) : (s.advance t k).freeCtr = s.freeCtr := rfl
@[simp] theorem State.advance_regs (s : State) (t : Nat) (k : Bool) : (s.advance t k).regs = s.regs := rfl
@[simp] theorem State.advance_cwPend (s : State) (t : Nat) (k : Bool) : (s.advance t k).cwPend = s.cwPend := rfl
@[simp] theorem State.advance_shadow (s : State) (t : Nat) (k : Bool) : (s.advance t k).shadow = s.shadow := rfl
@[simp] theorem State.advance_mem (s : State) (t : Nat) (k : Bool) : (s.advance t k).mem = s.mem := rfl
@[simp] theorem State.advance_eccW (s : State) (t : Nat) (k : Bool) : (s.advance t k).eccW = s.eccW := rfl
@[simp] theorem State.advance_eccB (s : State) (t : Nat) (k : Bool) : (s.advance t k).eccB = s.eccB := rfl
@[simp] theorem State.advance_beats (s : State) (t : Nat) (k : Bool) : (s.advance t k).beats = s.beats := rfl
@[simp] theorem State.advance_sleds (s : State) (t : Nat) (k : Bool) : (s.advance t k).sleds = s.sleds := rfl
@[simp] theorem State.advance_fe (s : State) (t : Nat) (k : Bool) : (s.advance t k).fe = s.fe := rfl
@[simp] theorem State.advance_sec (s : State) (t : Nat) (k : Bool) : (s.advance t k).sec = s.sec := rfl
@[simp] theorem State.advance_link (s : State) (t : Nat) (k : Bool) : (s.advance t k).link = s.link := rfl
@[simp] theorem State.advance_time (s : State) (t : Nat) (k : Bool) : (s.advance t k).time = s.time := rfl
@[simp] theorem State.advance_power (s : State) (t : Nat) (k : Bool) : (s.advance t k).power = s.power := rfl
@[simp] theorem State.advance_mgt (s : State) (t : Nat) (k : Bool) : (s.advance t k).mgt = s.mgt := rfl
@[simp] theorem State.advance_host (s : State) (t : Nat) (k : Bool) : (s.advance t k).host = s.host := rfl
@[simp] theorem State.advance_hostData (s : State) (t : Nat) (k : Bool) : (s.advance t k).hostData = s.hostData := rfl
@[simp] theorem State.advance_msixTab (s : State) (t : Nat) (k : Bool) : (s.advance t k).msixTab = s.msixTab := rfl

@[simp] theorem State.nextPc_pending (s : State) (t : Nat) (k : Bool) : (s.nextPc t k).pending = s.pending := rfl
@[simp] theorem State.nextPc_freeCtr (s : State) (t : Nat) (k : Bool) : (s.nextPc t k).freeCtr = s.freeCtr := rfl
@[simp] theorem State.nextPc_regs (s : State) (t : Nat) (k : Bool) : (s.nextPc t k).regs = s.regs := rfl
@[simp] theorem State.nextPc_cwPend (s : State) (t : Nat) (k : Bool) : (s.nextPc t k).cwPend = s.cwPend := rfl
@[simp] theorem State.nextPc_shadow (s : State) (t : Nat) (k : Bool) : (s.nextPc t k).shadow = s.shadow := rfl
@[simp] theorem State.nextPc_mem (s : State) (t : Nat) (k : Bool) : (s.nextPc t k).mem = s.mem := rfl
@[simp] theorem State.nextPc_eccW (s : State) (t : Nat) (k : Bool) : (s.nextPc t k).eccW = s.eccW := rfl
@[simp] theorem State.nextPc_eccB (s : State) (t : Nat) (k : Bool) : (s.nextPc t k).eccB = s.eccB := rfl
@[simp] theorem State.nextPc_beats (s : State) (t : Nat) (k : Bool) : (s.nextPc t k).beats = s.beats := rfl
@[simp] theorem State.nextPc_sleds (s : State) (t : Nat) (k : Bool) : (s.nextPc t k).sleds = s.sleds := rfl
@[simp] theorem State.nextPc_fe (s : State) (t : Nat) (k : Bool) : (s.nextPc t k).fe = s.fe := rfl
@[simp] theorem State.nextPc_sec (s : State) (t : Nat) (k : Bool) : (s.nextPc t k).sec = s.sec := rfl
@[simp] theorem State.nextPc_link (s : State) (t : Nat) (k : Bool) : (s.nextPc t k).link = s.link := rfl
@[simp] theorem State.nextPc_time (s : State) (t : Nat) (k : Bool) : (s.nextPc t k).time = s.time := rfl
@[simp] theorem State.nextPc_power (s : State) (t : Nat) (k : Bool) : (s.nextPc t k).power = s.power := rfl
@[simp] theorem State.nextPc_mgt (s : State) (t : Nat) (k : Bool) : (s.nextPc t k).mgt = s.mgt := rfl
@[simp] theorem State.nextPc_host (s : State) (t : Nat) (k : Bool) : (s.nextPc t k).host = s.host := rfl
@[simp] theorem State.nextPc_hostData (s : State) (t : Nat) (k : Bool) : (s.nextPc t k).hostData = s.hostData := rfl
@[simp] theorem State.nextPc_msixTab (s : State) (t : Nat) (k : Bool) : (s.nextPc t k).msixTab = s.msixTab := rfl

@[simp] theorem State.disarm_pending (s : State) : (s.disarm).pending = s.pending := rfl
@[simp] theorem State.disarm_freeCtr (s : State) : (s.disarm).freeCtr = s.freeCtr := rfl
@[simp] theorem State.disarm_regs (s : State) : (s.disarm).regs = s.regs := rfl
@[simp] theorem State.disarm_cwPend (s : State) : (s.disarm).cwPend = s.cwPend := rfl
@[simp] theorem State.disarm_shadow (s : State) : (s.disarm).shadow = s.shadow := rfl
@[simp] theorem State.disarm_mem (s : State) : (s.disarm).mem = s.mem := rfl
@[simp] theorem State.disarm_eccW (s : State) : (s.disarm).eccW = s.eccW := rfl
@[simp] theorem State.disarm_eccB (s : State) : (s.disarm).eccB = s.eccB := rfl
@[simp] theorem State.disarm_tiles (s : State) : (s.disarm).tiles = s.tiles := rfl
@[simp] theorem State.disarm_beats (s : State) : (s.disarm).beats = s.beats := rfl
@[simp] theorem State.disarm_sleds (s : State) : (s.disarm).sleds = s.sleds := rfl
@[simp] theorem State.disarm_fe (s : State) : (s.disarm).fe = s.fe := rfl
@[simp] theorem State.disarm_link (s : State) : (s.disarm).link = s.link := rfl
@[simp] theorem State.disarm_time (s : State) : (s.disarm).time = s.time := rfl
@[simp] theorem State.disarm_power (s : State) : (s.disarm).power = s.power := rfl
@[simp] theorem State.disarm_mgt (s : State) : (s.disarm).mgt = s.mgt := rfl
@[simp] theorem State.disarm_host (s : State) : (s.disarm).host = s.host := rfl
@[simp] theorem State.disarm_hostData (s : State) : (s.disarm).hostData = s.hostData := rfl
@[simp] theorem State.disarm_msixTab (s : State) : (s.disarm).msixTab = s.msixTab := rfl

@[simp] theorem State.tick_pending (s : State) : (s.tick).pending = s.pending := rfl
@[simp] theorem State.tick_freeCtr (s : State) : (s.tick).freeCtr = s.freeCtr := rfl
@[simp] theorem State.tick_regs (s : State) : (s.tick).regs = s.regs := rfl
@[simp] theorem State.tick_cwPend (s : State) : (s.tick).cwPend = s.cwPend := rfl
@[simp] theorem State.tick_shadow (s : State) : (s.tick).shadow = s.shadow := rfl
@[simp] theorem State.tick_mem (s : State) : (s.tick).mem = s.mem := rfl
@[simp] theorem State.tick_eccW (s : State) : (s.tick).eccW = s.eccW := rfl
@[simp] theorem State.tick_eccB (s : State) : (s.tick).eccB = s.eccB := rfl
@[simp] theorem State.tick_tiles (s : State) : (s.tick).tiles = s.tiles := rfl
@[simp] theorem State.tick_beats (s : State) : (s.tick).beats = s.beats := rfl
@[simp] theorem State.tick_sleds (s : State) : (s.tick).sleds = s.sleds := rfl
@[simp] theorem State.tick_fe (s : State) : (s.tick).fe = s.fe := rfl
@[simp] theorem State.tick_sec (s : State) : (s.tick).sec = s.sec := rfl
@[simp] theorem State.tick_link (s : State) : (s.tick).link = s.link := rfl
@[simp] theorem State.tick_power (s : State) : (s.tick).power = s.power := rfl
@[simp] theorem State.tick_host (s : State) : (s.tick).host = s.host := rfl
@[simp] theorem State.tick_hostData (s : State) : (s.tick).hostData = s.hostData := rfl
@[simp] theorem State.tick_msixTab (s : State) : (s.tick).msixTab = s.msixTab := rfl

@[simp] theorem State.free_pending (s : State) : (s.free).2.pending = s.pending := rfl
@[simp] theorem State.free_regs (s : State) : (s.free).2.regs = s.regs := rfl
@[simp] theorem State.free_cwPend (s : State) : (s.free).2.cwPend = s.cwPend := rfl
@[simp] theorem State.free_shadow (s : State) : (s.free).2.shadow = s.shadow := rfl
@[simp] theorem State.free_mem (s : State) : (s.free).2.mem = s.mem := rfl
@[simp] theorem State.free_eccW (s : State) : (s.free).2.eccW = s.eccW := rfl
@[simp] theorem State.free_eccB (s : State) : (s.free).2.eccB = s.eccB := rfl
@[simp] theorem State.free_tiles (s : State) : (s.free).2.tiles = s.tiles := rfl
@[simp] theorem State.free_beats (s : State) : (s.free).2.beats = s.beats := rfl
@[simp] theorem State.free_sleds (s : State) : (s.free).2.sleds = s.sleds := rfl
@[simp] theorem State.free_fe (s : State) : (s.free).2.fe = s.fe := rfl
@[simp] theorem State.free_sec (s : State) : (s.free).2.sec = s.sec := rfl
@[simp] theorem State.free_link (s : State) : (s.free).2.link = s.link := rfl
@[simp] theorem State.free_time (s : State) : (s.free).2.time = s.time := rfl
@[simp] theorem State.free_power (s : State) : (s.free).2.power = s.power := rfl
@[simp] theorem State.free_mgt (s : State) : (s.free).2.mgt = s.mgt := rfl
@[simp] theorem State.free_host (s : State) : (s.free).2.host = s.host := rfl
@[simp] theorem State.free_hostData (s : State) : (s.free).2.hostData = s.hostData := rfl
@[simp] theorem State.free_msixTab (s : State) : (s.free).2.msixTab = s.msixTab := rfl

/-! Registers -/

@[simp] theorem State.reg_setReg_same (s : State) (a : Nat) (v : Word) : (s.setReg a v).reg a = v := by
  simp [State.reg, State.setReg]

theorem State.reg_setReg_ne (s : State) {a b : Nat} (v : Word) (h : b ≠ a) : (s.setReg a v).reg b = s.reg b := by
  simp [State.reg, State.setReg, SMap.get_set_ne _ _ _ h]

@[simp] theorem State.reg_setTile (s : State) (t : Nat) (x : Tile) (a : Nat) : (s.setTile t x).reg a = s.reg a := rfl
@[simp] theorem State.reg_modTile (s : State) (t : Nat) (f : Tile → Tile) (a : Nat) :
    (s.modTile t f).reg a = s.reg a := rfl
@[simp] theorem State.reg_modHerder (s : State) (t : Nat) (f : Herder → Herder) (a : Nat) :
    (s.modHerder t f).reg a = s.reg a := rfl
@[simp] theorem State.reg_setCtx (s : State) (t : Nat) (k : Bool) (c : Ctx) (a : Nat) :
    (s.setCtx t k c).reg a = s.reg a := rfl
@[simp] theorem State.reg_modCtx (s : State) (t : Nat) (k : Bool) (f : Ctx → Ctx) (a : Nat) :
    (s.modCtx t k f).reg a = s.reg a := rfl
@[simp] theorem State.reg_advance (s : State) (t : Nat) (k : Bool) (a : Nat) : (s.advance t k).reg a = s.reg a := rfl
@[simp] theorem State.reg_nextPc (s : State) (t : Nat) (k : Bool) (a : Nat) : (s.nextPc t k).reg a = s.reg a := rfl

/-! Tiles and contexts -/

@[simp] theorem State.tile_setTile_same (s : State) (t : Nat) (x : Tile) : (s.setTile t x).tile t = x := by
  simp [State.tile, State.setTile]

theorem State.tile_setTile_ne (s : State) {t u : Nat} (x : Tile) (h : u ≠ t) : (s.setTile t x).tile u = s.tile u := by
  simp [State.tile, State.setTile, SMap.get_set_ne _ _ _ h]

@[simp] theorem State.tile_modTile_same (s : State) (t : Nat) (f : Tile → Tile) :
    (s.modTile t f).tile t = f (s.tile t) := by simp [State.modTile]

theorem State.tile_modTile_ne (s : State) {t u : Nat} (f : Tile → Tile) (h : u ≠ t) :
    (s.modTile t f).tile u = s.tile u := s.tile_setTile_ne _ h

@[simp] theorem State.tile_setReg (s : State) (a : Nat) (v : Word) (t : Nat) : (s.setReg a v).tile t = s.tile t := rfl
@[simp] theorem State.tile_setFlags (s : State) (u : Nat) (f : Flags) (t : Nat) :
    (s.setFlags u f).tile t = s.tile t := rfl
@[simp] theorem State.herder_setReg (s : State) (a : Nat) (v : Word) (t : Nat) :
    (s.setReg a v).herder t = s.herder t := rfl
@[simp] theorem State.herder_setFlags (s : State) (u : Nat) (f : Flags) (t : Nat) :
    (s.setFlags u f).herder t = s.herder t := rfl
@[simp] theorem State.ctx_setFlags (s : State) (u : Nat) (f : Flags) (t : Nat) (k : Bool) :
    (s.setFlags u f).ctx t k = s.ctx t k := rfl

@[simp] theorem State.herder_modTile_same (s : State) (t : Nat) (f : Tile → Tile) :
    (s.modTile t f).herder t = (f (s.tile t)).herder := by simp [State.herder]

@[simp] theorem State.tile_modHerder_same (s : State) (t : Nat) (f : Herder → Herder) :
    (s.modHerder t f).tile t = { s.tile t with herder := f (s.herder t) } := by
  simp [State.modHerder, State.setHerder]

theorem State.tile_modHerder_ne (s : State) {t u : Nat} (f : Herder → Herder) (h : u ≠ t) :
    (s.modHerder t f).tile u = s.tile u := s.tile_setTile_ne _ h

@[simp] theorem State.herder_modHerder_same (s : State) (t : Nat) (f : Herder → Herder) :
    (s.modHerder t f).herder t = f (s.herder t) := by simp [State.herder]

theorem State.herder_modHerder_ne (s : State) {t u : Nat} (f : Herder → Herder) (h : u ≠ t) :
    (s.modHerder t f).herder u = s.herder u := by simp [State.herder, s.tile_modHerder_ne f h]

@[simp] theorem Herder.ctx_setCtx_same (h : Herder) (k : Bool) (c : Ctx) : (h.setCtx k c).ctx k = c := by
  cases k <;> rfl

@[simp] theorem Herder.ctx_setCtx_not (h : Herder) (k : Bool) (c : Ctx) : (h.setCtx k c).ctx (!k) = h.ctx (!k) := by
  cases k <;> rfl

@[simp] theorem Herder.kctx_setCtx (h : Herder) (k : Bool) (c : Ctx) : (h.setCtx k c).kctx = h.kctx := by
  cases k <;> rfl

@[simp] theorem Herder.preempted_setCtx (h : Herder) (k : Bool) (c : Ctx) :
    (h.setCtx k c).preempted = h.preempted := by cases k <;> rfl

@[simp] theorem Herder.board_setCtx (h : Herder) (k : Bool) (c : Ctx) : (h.setCtx k c).board = h.board := by
  cases k <;> rfl

@[simp] theorem Herder.park_setCtx (h : Herder) (k : Bool) (c : Ctx) : (h.setCtx k c).park = h.park := by
  cases k <;> rfl

@[simp] theorem Herder.hq_setCtx (h : Herder) (k : Bool) (c : Ctx) : (h.setCtx k c).hq = h.hq := by
  cases k <;> rfl

@[simp] theorem Herder.out_setCtx (h : Herder) (k : Bool) (c : Ctx) : (h.setCtx k c).out = h.out := by
  cases k <;> rfl

@[simp] theorem Herder.launches_setCtx (h : Herder) (k : Bool) (c : Ctx) : (h.setCtx k c).launches = h.launches := by
  cases k <;> rfl

@[simp] theorem Herder.setCtx_setCtx (h : Herder) (k : Bool) (c d : Ctx) :
    (h.setCtx k c).setCtx k d = h.setCtx k d := by cases k <;> rfl

@[simp] theorem State.ctx_setCtx_same (s : State) (t : Nat) (k : Bool) (c : Ctx) : (s.setCtx t k c).ctx t k = c := by
  simp [State.ctx, State.setCtx]

@[simp] theorem State.ctx_modCtx_same (s : State) (t : Nat) (k : Bool) (f : Ctx → Ctx) :
    (s.modCtx t k f).ctx t k = f (s.ctx t k) := by simp [State.modCtx]

@[simp] theorem State.herder_setCtx_same (s : State) (t : Nat) (k : Bool) (c : Ctx) :
    (s.setCtx t k c).herder t = (s.herder t).setCtx k c := by simp [State.setCtx]

@[simp] theorem State.herder_modCtx_same (s : State) (t : Nat) (k : Bool) (f : Ctx → Ctx) :
    (s.modCtx t k f).herder t = (s.herder t).setCtx k (f (s.ctx t k)) := by simp [State.modCtx]

theorem State.tile_setCtx_ne (s : State) {t u : Nat} (k : Bool) (c : Ctx) (h : u ≠ t) :
    (s.setCtx t k c).tile u = s.tile u := s.tile_modHerder_ne _ h

/-! Two changes of one tile are one -/

@[simp] theorem State.setTile_setTile (s : State) (t : Nat) (x y : Tile) :
    (s.setTile t x).setTile t y = s.setTile t y := by simp [State.setTile]

theorem State.modTile_modTile (s : State) (t : Nat) (f g : Tile → Tile) :
    (s.modTile t f).modTile t g = s.modTile t (fun x => g (f x)) := by simp [State.modTile]

theorem State.modHerder_modHerder (s : State) (t : Nat) (f g : Herder → Herder) :
    (s.modHerder t f).modHerder t g = s.modHerder t (fun h => g (f h)) := by
  simp [State.modHerder, State.setHerder, State.modTile_modTile]

theorem State.setCtx_setCtx (s : State) (t : Nat) (k : Bool) (c d : Ctx) :
    (s.setCtx t k c).setCtx t k d = s.setCtx t k d := by
  simp [State.setCtx, State.modHerder_modHerder]

theorem State.modCtx_setCtx (s : State) (t : Nat) (k : Bool) (c : Ctx) (f : Ctx → Ctx) :
    (s.setCtx t k c).modCtx t k f = s.setCtx t k (f c) := by
  simp [State.modCtx, State.setCtx_setCtx]

/-! Rings, partitions, links, arrays -/

@[simp] theorem State.ring_setRing_same (s : State) (g : Nat) (r : Ring) : (s.setRing g r).ring g = r := by
  simp [State.ring, State.setRing]

theorem State.ring_setRing_ne (s : State) {g j : Nat} (r : Ring) (h : j ≠ g) : (s.setRing g r).ring j = s.ring j := by
  simp [State.ring, State.setRing, SMap.get_set_ne _ _ _ h]

@[simp] theorem State.ring_modRing_same (s : State) (g : Nat) (f : Ring → Ring) :
    (s.modRing g f).ring g = f (s.ring g) := by simp [State.modRing]

@[simp] theorem State.part_setPart_same (s : State) (p : Nat) (x : Part) : (s.setPart p x).part p = x := by
  simp [State.part, State.setPart]

theorem State.part_setPart_ne (s : State) {p q : Nat} (x : Part) (h : q ≠ p) : (s.setPart p x).part q = s.part q := by
  simp [State.part, State.setPart, SMap.get_set_ne _ _ _ h]

@[simp] theorem State.part_modPart_same (s : State) (p : Nat) (f : Part → Part) :
    (s.modPart p f).part p = f (s.part p) := by simp [State.modPart]

@[simp] theorem State.linkOf_setLink_same (s : State) (k : Nat) (l : Link) : (s.setLink k l).linkOf k = l := by
  simp [State.linkOf, State.setLink]

theorem State.linkOf_setLink_ne (s : State) {k j : Nat} (l : Link) (h : j ≠ k) :
    (s.setLink k l).linkOf j = s.linkOf j := by simp [State.linkOf, State.setLink, SMap.get_set_ne _ _ _ h]

@[simp] theorem State.linkOf_modLink_same (s : State) (k : Nat) (f : Link → Link) :
    (s.modLink k f).linkOf k = f (s.linkOf k) := by simp [State.modLink]

@[simp] theorem State.arr_modArr_same (s : State) (t a : Nat) (f : Arr → Arr) :
    (s.modArr t a f).arr t a = f (s.arr t a) := by simp [State.arr, State.modArr, State.modPack]

@[simp] theorem State.pack_modPack_same (s : State) (t : Nat) (f : Pack → Pack) :
    ((s.modPack t f).tile t).pack = f (s.tile t).pack := by simp [State.modPack]

/-! Register files: s0 reads zero and p0 reads true; a write reads back and changes nothing else -/

@[simp] theorem Ctx.sget_zero (c : Ctx) : c.sget 0 = 0 := rfl
@[simp] theorem Ctx.sset_zero (c : Ctx) (v : Word) : c.sset 0 v = c := rfl
@[simp] theorem Ctx.pget_zero (c : Ctx) : c.pget 0 = true := rfl
@[simp] theorem Ctx.pset_zero (c : Ctx) (v : Bool) : c.pset 0 v = c := rfl

theorem Ctx.sget_sset_same (c : Ctx) {i : Nat} (v : Word) (h : i ≠ 0) : (c.sset i v).sget i = v := by
  simp [Ctx.sget, Ctx.sset, h]

theorem Ctx.sget_sset_ne (c : Ctx) {i j : Nat} (v : Word) (h : j ≠ i) : (c.sset i v).sget j = c.sget j := by
  by_cases hi : i = 0 <;> by_cases hj : j = 0 <;> simp [Ctx.sget, Ctx.sset, hi, hj, SMap.get_set_ne _ _ _ h]

theorem Ctx.pget_pset_same (c : Ctx) {i : Nat} (v : Bool) (h : i ≠ 0) : (c.pset i v).pget i = v := by
  simp [Ctx.pget, Ctx.pset, h]

@[simp] theorem Ctx.aget_aset_same (c : Ctx) (i : Nat) (v : BitVec 48) : (c.aset i v).aget i = v := by
  simp [Ctx.aget, Ctx.aset]

@[simp] theorem Ctx.tget_tset_same (c : Ctx) (i : Nat) (v : BitVec 256) : (c.tset i v).tget i = v := by
  simp [Ctx.tget, Ctx.tset]

end Sys2Proof.Machine
end

