-- ==== Sys2Proof/Laws/Ecc.lean ====
section
/-! SUPPORT. The codes of memory, what storing check bits leaves alone, and what a read of a clean range answers. -/
namespace Sys2Proof.Machine

/-! The Hsiao code of SRAM words (10 R374) -/

/-- The columns in use meet the rule whatever the free table holds. -/
theorem hsiaoColumns_ok : hsiaoOk hsiaoColumns = true := by
  unfold hsiaoColumns
  simp only
  split
  · assumption
  · decide +kernel

/-- Every column of the check matrix has odd weight. -/
theorem hsiaoColumn_odd {i : Nat} (h : i < 72) : ones8 (hsiaoColumn i) % 2 = 1 := by
  unfold hsiaoColumn
  split
  · rename_i hi
    have ok := hsiaoColumns_ok
    simp only [hsiaoOk, Bool.and_eq_true, beq_iff_eq, List.all_eq_true] at ok
    have hl : i < hsiaoColumns.length := by omega
    have := (ok.1.2 _ (List.getElem_mem hl)).1
    simpa [List.getD, List.getElem?_eq_getElem hl] using this
  · have all : ∀ j < 8, ones8 (BitVec.ofNat 8 (1 <<< j)) % 2 = 1 := by decide
    exact all _ (by omega)

/-- An intact word is clean. -/
@[simp] theorem syndromeClass_zero : syndromeClass 0 = .clean := rfl

/-- A single bit in error, of the data or of the check bits, is corrected. -/
theorem syndromeClass_single {i : Nat} (h : i < 72) : syndromeClass (hsiaoColumn i) = .corrected := by
  have hz : hsiaoColumn i ≠ 0 := by
    intro e
    have := hsiaoColumn_odd h
    rw [e] at this
    revert this
    decide
  have hm : (List.range 72).any (fun j => hsiaoColumn j == hsiaoColumn i) = true := by
    simp only [List.any_eq_true, List.mem_range, beq_iff_eq]
    exact ⟨i, h, rfl⟩
  simp only [syndromeClass, hz, hm, if_false, if_true]

/-- Complemented check bits read as poisoned: 0xFF is no column, since its weight is even. -/
theorem syndromeClass_poison : syndromeClass 0xFF = .poisoned := by
  have hm : (List.range 72).any (fun j => hsiaoColumn j == 0xFF) = false := by
    simp only [List.any_eq_false, List.mem_range, beq_iff_eq]
    intro i h e
    have := hsiaoColumn_odd h
    rw [e] at this
    revert this
    decide
  simp only [syndromeClass, hm]
  decide

/-! Storing the check bits of a unit -/

@[simp] theorem State.setCheckDiff_pending (s : State) (u : EccUnit) (d : BitVec 64) :
    (s.setCheckDiff u d).pending = s.pending := by unfold State.setCheckDiff; split <;> rfl
@[simp] theorem State.setCheckDiff_mem (s : State) (u : EccUnit) (d : BitVec 64) :
    (s.setCheckDiff u d).mem = s.mem := by unfold State.setCheckDiff; split <;> rfl
@[simp] theorem State.setCheckDiff_regs (s : State) (u : EccUnit) (d : BitVec 64) :
    (s.setCheckDiff u d).regs = s.regs := by unfold State.setCheckDiff; split <;> rfl
@[simp] theorem State.setCheckDiff_tiles (s : State) (u : EccUnit) (d : BitVec 64) :
    (s.setCheckDiff u d).tiles = s.tiles := by unfold State.setCheckDiff; split <;> rfl
@[simp] theorem State.setCheckDiff_fe (s : State) (u : EccUnit) (d : BitVec 64) :
    (s.setCheckDiff u d).fe = s.fe := by unfold State.setCheckDiff; split <;> rfl
@[simp] theorem State.setCheckDiff_sec (s : State) (u : EccUnit) (d : BitVec 64) :
    (s.setCheckDiff u d).sec = s.sec := by unfold State.setCheckDiff; split <;> rfl
@[simp] theorem State.setCheckDiff_link (s : State) (u : EccUnit) (d : BitVec 64) :
    (s.setCheckDiff u d).link = s.link := by unfold State.setCheckDiff; split <;> rfl
@[simp] theorem State.setCheckDiff_power (s : State) (u : EccUnit) (d : BitVec 64) :
    (s.setCheckDiff u d).power = s.power := by unfold State.setCheckDiff; split <;> rfl
@[simp] theorem State.setCheckDiff_mgt (s : State) (u : EccUnit) (d : BitVec 64) :
    (s.setCheckDiff u d).mgt = s.mgt := by unfold State.setCheckDiff; split <;> rfl

/-- What is stored for a unit is read back. -/
theorem State.checkDiff_setCheckDiff (s : State) (u : EccUnit) (d : BitVec 64) :
    (s.setCheckDiff u d).checkDiff u = if u.hbm then d else (d.setWidth 8).setWidth 64 := by
  obtain ⟨hbm, a⟩ := u
  cases hbm <;> simp only [State.setCheckDiff, State.checkDiff, if_true, Bool.false_eq_true, if_false] <;> split <;>
    rename_i h <;> simp [h]

/-! Reading a clean range -/

/-- A unit without error and without an injection reads clean and changes nothing. -/
theorem State.eccRead1_clean (s : State) (u : EccUnit) (fe : Bool) (hd : s.checkDiff u = 0) (hi : s.injEcc u = none) :
    s.eccRead1 u fe = (.clean, s) := by
  have hp : (0 : BitVec 64) ≠ u.poison := by unfold EccUnit.poison; split <;> decide
  have hc : s.eccClass u = .clean := by
    simp only [State.eccClass, hd, hi, EccUnit.class, hp, if_false]
    cases u.hbm <;> rfl
  simp [State.eccRead1, hc, hi, State.withInj, State.eccAct]

/-- A clean range delivers its stored bytes, and reading it changes nothing. -/
theorem State.load_of_clean {s : State} {a n : Nat} (h : s.clean a n = true) (fe : Bool) :
    s.load a n fe = (some (s.rawRead a n), s) := by
  simp only [State.clean, Bool.and_eq_true, List.all_eq_true, beq_iff_eq, Bool.not_eq_true'] at h
  have hi : ∀ u, s.injEcc u = none := by simp [State.injEcc, h.2]
  have step : ∀ l : List EccUnit, (∀ u ∈ l, s.checkDiff u = 0) →
      l.foldl (fun (r : Bool × State) u =>
        let (c, s) := r.2.eccRead1 u fe
        (r.1 && c.ok, s)) (true, s) = (true, s) := by
    intro l
    induction l with
    | nil => intro _; rfl
    | cons u l ih =>
      intro hl
      have hu := State.eccRead1_clean s u fe (hl u List.mem_cons_self) (hi u)
      simp only [List.foldl_cons, hu, EccRead.ok, Bool.and_self]
      exact ih (fun v hv => hl v (List.mem_cons_of_mem _ hv))
  simp only [State.load, State.eccRead, step _ h.1, if_true]

/-! Canonical form -/

/-- A merge of bytes into a unit keeps memory canonical, encrypted or not. -/
theorem State.mergeUnit_wf {s : State} (w : s.mem.wf = true) (u : EccUnit) (a : Nat) (bs : List Byte) :
    (s.mergeUnit u a bs).mem.wf = true := by
  unfold State.mergeUnit
  simp only
  split
  · split
    · exact Memory.wf_writeN _ _ _ w
    · exact Memory.wf_writeN _ _ _ w
  · exact Memory.wf_writeN _ _ _ w

/-- Zeroing a range keeps memory canonical. -/
theorem State.zeroRange_wf {s : State} (w : s.mem.wf = true) (lo hi : Nat) : (s.zeroRange lo hi).mem.wf = true :=
  Memory.wf_zero _ _ _ w

end Sys2Proof.Machine
end

