-- ==== Sys2Proof/Laws/Herder.lean ====
section
/-! SUPPORT. What issuing an instruction does, and what a retired instruction leaves. -/
namespace Sys2Proof.Machine

/-- With no lockstep injection for the tile, the comparison changes nothing. -/
theorem State.compared_of_not_inj {s : State} {t : Nat} (h : s.injLockstep t = false) (pc : Nat) (u : State) :
    s.compared t pc u = u := by
  simp [State.compared, h]

/-- A word that issues does what its row's body says, but that a precise exception gives way to a report that is due. -/
theorem herd_of_issues {s : State} {t : Nat} {w : BitVec 64} {opc form : Nat}
    (body : State → Nat → Bool → Ctx → BitVec 64 → IRes) (h : s.issues t w opc form = true) :
    herd opc form body t w s
      = .next (if (body s t (s.herder t).kctx (s.act t) w).precise && s.clash t (s.herder t).kctx then s
        else s.issued t (s.herder t).kctx (s.act t).pc (body s t (s.herder t).kctx (s.act t) w)) := by
  simp only [State.issues, Bool.and_eq_true, Bool.not_eq_true', beq_iff_eq, decide_eq_true_eq, bne_iff_ne,
    ne_eq] at h
  obtain ⟨⟨⟨⟨⟨⟨⟨⟨⟨⟨h1, h2⟩, h3⟩, h4⟩, h5⟩, h6⟩, h7⟩, h8⟩, h9⟩, h10⟩, h11⟩ := h
  have h4' : (!(s.herder t).kctx && (s.herder t).preempted) = false := by
    revert h4; cases (s.herder t).kctx <;> cases (s.herder t).preempted <;> simp
  unfold State.act State.ctx at *
  simp only [herd, issue, h1, h2, h3, h4', h5]
  simp only [h6, h7, h8, h9, h10, State.compared_of_not_inj h11, beq_iff_eq, if_false, decide_true, Bool.and_self,
    Bool.not_true, Bool.false_eq_true]
  generalize body s t (s.herder t).kctx ((s.herder t).ctx (s.herder t).kctx) w = r
  cases r <;> simp [IRes.retires, IRes.precise]

/-- The same for a body that retires. -/
theorem herd_retire {s x : State} {t : Nat} {w : BitVec 64} {opc form : Nat}
    (body : State → Nat → Bool → Ctx → BitVec 64 → IRes) (h : s.issues t w opc form = true)
    (b : body s t (s.herder t).kctx (s.act t) w = .retire x) :
    herd opc form body t w s = .next (x.nextPc t (s.herder t).kctx) := by
  rw [herd_of_issues body h, b]; simp [IRes.precise, State.issued]

/-- A word whose predicate is false is skipped. -/
theorem herd_of_skips {s : State} {t : Nat} {w : BitVec 64} {opc form : Nat}
    (body : State → Nat → Bool → Ctx → BitVec 64 → IRes) (h : s.skips t w opc form = true) :
    herd opc form body t w s = .next (s.nextPc t (s.herder t).kctx) := by
  simp only [State.skips, Bool.and_eq_true, Bool.not_eq_true', beq_iff_eq, decide_eq_true_eq] at h
  obtain ⟨⟨⟨⟨⟨⟨⟨⟨h1, h2⟩, h3⟩, h4⟩, h5⟩, h6⟩, h8⟩, h9⟩, h11⟩ := h
  have h4' : (!(s.herder t).kctx && (s.herder t).preempted) = false := by
    revert h4; cases (s.herder t).kctx <;> cases (s.herder t).preempted <;> simp
  unfold State.act State.ctx at *
  simp only [herd, issue, h1, h2, h3, h4', h5]
  simp [h6, h8, h9, State.compared_of_not_inj h11, State.issued, IRes.retires]

@[simp] theorem State.herder_advance (s : State) (t : Nat) (k : Bool) :
    (s.advance t k).herder t
      = if k then { s.herder t with advK := s.now } else { s.herder t with advU := s.now } := by
  simp [State.advance]

@[simp] theorem State.ctx_advance (s : State) (t : Nat) (k j : Bool) : (s.advance t k).ctx t j = s.ctx t j := by
  simp only [State.ctx, State.herder_advance]
  cases k <;> cases j <;> rfl

/-- Retiring with unchanged registers. -/
theorem State.after_act (s : State) (t : Nat) : s.after t (s.act t) = s.moves t := by
  simp only [State.after, State.moves, State.nextPc, State.modCtx_setCtx, State.act]
  rfl

/-- What the active context holds after it retired. -/
theorem State.ctx_after (s : State) (t : Nat) (c : Ctx) :
    (s.after t c).ctx t (s.herder t).kctx = { c with pc := c.pc + 8, wait := .none } := by
  simp [State.after, State.nextPc]

/-- Retiring changes the active context of one tile and nothing else. -/
theorem State.onlyAct_after (s : State) (t : Nat) (c : Ctx) : onlyAct t s (s.after t c) := by
  refine ⟨⟨rfl, ?_, ?_⟩, ?_⟩
  · intro j h
    simp only [State.after, State.nextPc, State.advance, State.modCtx]
    rw [State.tile_modHerder_ne _ _ h, State.tile_setCtx_ne _ _ _ h, State.tile_setCtx_ne _ _ _ h]
  · simp [State.after, State.nextPc, State.advance, State.modCtx, State.setCtx]
  · cases hk : (s.herder t).kctx <;>
      simp [State.after, State.nextPc, State.modCtx, State.setCtx, hk, State.ctx, Herder.ctx, Herder.setCtx]

end Sys2Proof.Machine
end

