-- ==== Sys2Proof/WellFormed.lean ====
section
/-! DEFINITION. Well-formed commands: what a command names exists on this part, and what comes with it has the size
the spec gives it. A command that is not well formed stands for no event of the part. -/
namespace Sys2Proof
open Sys2Proof.Machine (Writer HeldPkt)

/-- Tile IDs run from 0 to 1,151 (01 R19). -/
def tileOk (t : Nat) : Bool := decide (t < 1152)

/-- A writer of registers: its tile or partition exists (16 R607). -/
def writerOk : Writer → Bool
  | .herder t _ => tileOk t
  | .vf p => decide (p < 16)
  | .lockWr p _ => decide (p < 16)
  | .pf | .chain | .mailbox => true

/-- A register address: aligned, and inside the register space (10 R368, R370). -/
def regAddrOk (a : Nat) : Bool := decide (a % 8 = 0 ∧ 0xF00000000000 ≤ a ∧ a < 0x1000000000000)

/-- A held packet names tiles that exist. -/
def pktOk : HeldPkt → Bool
  | .handle t => tileOk t
  | .write t _ _ => tileOk t
  | .read t _ _ => tileOk t
  | .other => true

/-- Readings of the sensors of 17 R652, by index. -/
def readingsOk (l : List (Nat × Int)) : Bool := l.all (fun x => decide (x.1 < 0x40))

/-- The host's base address registers (18 R683, R684). -/
def barOk (b : Nat) : Bool := b == 0 || b == 2 || b == 4

/-- A management frame has at most 74 bytes after its comma (17 R657). -/
def frameOk (bs : List (BitVec 8)) : Bool := decide (bs.length ≤ 74)

/-- Eight bits, one for each lane of a link (12 R448). -/
def lanesOk (m : Nat) : Bool := decide (m < 256)

/-- The four streams of a received codeword of 544 symbols, or of none (12 R447). -/
def stripesOk (a b c d : List (BitVec 10)) : Bool :=
  let n := a.length
  (n == 0 || n == 136) && b.length == n && c.length == n && d.length == n

/-- The command names things that exist. -/
def Instr.wf (i : Instr) : Bool :=
  match i with
  | .add t _ => tileOk t
  | .sub t _ => tileOk t
  | .and t _ => tileOk t
  | .or t _ => tileOk t
  | .xor t _ => tileOk t
  | .shl t _ => tileOk t
  | .shr t _ => tileOk t
  | .sra t _ => tileOk t
  | .mul t _ => tileOk t
  | .mulh t _ => tileOk t
  | .min t _ => tileOk t
  | .max t _ => tileOk t
  | .addi t _ => tileOk t
  | .li t _ => tileOk t
  | .lih t _ => tileOk t
  | .andi t _ => tileOk t
  | .ori t _ => tileOk t
  | .cmp t _ => tileOk t
  | .plog t _ => tileOk t
  | .mova t _ => tileOk t
  | .movs t _ => tileOk t
  | .adda t _ => tileOk t
  | .tset t _ => tileOk t
  | .tget t _ => tileOk t
  | .tld t _ => tileOk t
  | .tst t _ => tileOk t
  | .padd t _ => tileOk t
  | .psub t _ => tileOk t
  | .pmul t _ => tileOk t
  | .pcvt t _ => tileOk t
  | .qclr t _ => tileOk t
  | .qadd t _ => tileOk t
  | .qmadd t _ => tileOk t
  | .qmsub t _ => tileOk t
  | .qrd t _ => tileOk t
  | .ld t _ => tileOk t
  | .lds t _ => tileOk t
  | .st t _ => tileOk t
  | .br t _ => tileOk t
  | .jal t _ => tileOk t
  | .jr t _ => tileOk t
  | .exit t _ => tileOk t
  | .nop t _ => tileOk t
  | .mma t _ => tileOk t
  | .ldw t _ => tileOk t
  | .streamFeed t _ => tileOk t
  | .streamCopy t _ => tileOk t
  | .streamDesc t _ => tileOk t
  | .drn t _ => tileOk t
  | .sfu t _ => tileOk t
  | .red t _ => tileOk t
  | .topk t _ => tileOk t
  | .smp t _ => tileOk t
  | .hput t _ => tileOk t
  | .hget t _ => tileOk t
  | .hgetNb t _ => tileOk t
  | .wait t _ => tileOk t
  | .waitAll t _ => tileOk t
  | .waitCls t _ => tileOk t
  | .fence t _ => tileOk t
  | .dep t _ => tileOk t
  | .atCount t _ => tileOk t
  | .uget t _ => tileOk t
  | .uput t _ => tileOk t
  | .ucancel t _ => tileOk t
  | .rqsc t _ => tileOk t
  | .rres t _ => tileOk t
  | .issueResume t => tileOk t
  | .passLoadStart t a => tileOk t && decide (a < 4)
  | .passStreamStart t a => tileOk t && decide (a < 4)
  | .fillPassStart t a => tileOk t && decide (a < 4)
  | .vectorEntry t a => tileOk t && decide (a < 4)
  | .columnDrainVector t a => tileOk t && decide (a < 4)
  | .passReport t a => tileOk t && decide (a < 4)
  | .rerunStart t a => tileOk t && decide (a < 4)
  | .gangModeApply t => tileOk t
  | .configWriteApply t => tileOk t
  | .redHandover t => tileOk t
  | .chainStageArm t => tileOk t
  | .chainBeatArrive t => tileOk t
  | .chainReturnBeat t => tileOk t
  | .topkListBeat t => tileOk t
  | .drnHandover t => tileOk t
  | .drainGroup t => tileOk t
  | .drnFinish t => tileOk t
  | .drnComplete t => tileOk t
  | .digestCfgApply t => tileOk t
  | .sfuHandover t => tileOk t
  | .sfuComplete t => tileOk t
  | .streamQueueAccept t q => tileOk t && decide (q < 8)
  | .streamIssueStart t q => tileOk t && decide (q < 8)
  | .descBurstFetch t q => tileOk t && decide (q < 8)
  | .descTakeUp t q => tileOk t && decide (q < 8)
  | .requestIssue t => tileOk t
  | .localElementRead t q => tileOk t && decide (q < 8)
  | .readDataReturn t q _ => tileOk t && decide (q < 8)
  | .writeAck t q _ => tileOk t && decide (q < 8)
  | .bwWindowBoundary t => tileOk t
  | .markSatisfied t q => tileOk t && decide (q < 8)
  | .streamComplete t q => tileOk t && decide (q < 8)
  | .rtvResume who t _ _ => writerOk who && tileOk t
  | .rtvKill who t _ _ => writerOk who && tileOk t
  | .rtvFaultClear who t _ _ => writerOk who && tileOk t
  | .streamDeadlineMiss t q => tileOk t && decide (q < 8)
  | .quiesceComplete t => tileOk t
  | .sledBeatArrive t => tileOk t
  | .ldwAcceptReport t q => tileOk t && decide (q < 8)
  | .handleSend t => tileOk t
  | .handleArrive t => tileOk t
  | .handleResend t => tileOk t
  | .hgetReturn t => tileOk t
  | .waitResume t => tileOk t
  | .depSatisfied t => tileOk t
  | .atRelease t => tileOk t
  | .kernelPreempt t => tileOk t
  | .kernelContextStart t => tileOk t
  | .faultCompletion t => tileOk t
  | .exceptionSignal t => tileOk t
  | .xltInvalidate who p _ _ => writerOk who && decide (p < 16)
  | .xltInvalidateDone p => decide (p < 16)
  | .cryptEnable who p _ _ => writerOk who && decide (p < 16)
  | .ringDoorbell who g _ _ => writerOk who && decide (g < 1024)
  | .packetFetch g => decide (g < 1024)
  | .packetValidate g => decide (g < 1024)
  | .taskDispatch g => decide (g < 1024)
  | .tileTaskStart t => tileOk t
  | .taskEnd g n => decide (g < 1024) && decide (n < 2 ^ 32)
  | .packetRetire g => decide (g < 1024)
  | .partStop g => decide (g < 1024)
  | .partRelease g => decide (g < 1024)
  | .partReset g => decide (g < 1024)
  | .cancel g => decide (g < 1024)
  | .lockWr g => decide (g < 1024)
  | .progPatch g => decide (g < 1024)
  | .progRemove g => decide (g < 1024)
  | .timeStep g => decide (g < 1024)
  | .timeSlew g => decide (g < 1024)
  | .sit g => decide (g < 1024)
  | .sitTileArrive t => tileOk t
  | .sitPassAbandon t a => tileOk t && decide (a < 4)
  | .sitTileReport t => tileOk t
  | .sitComplete => true
  | .sliceExpiry g => decide (g < 1024)
  | .taskDeadlineMiss g n => decide (g < 1024) && decide (n < 2 ^ 32)
  | .stallCheck => true
  | .drainComplete g n => decide (g < 1024) && decide (n < 2 ^ 32)
  | .drainKill g n => decide (g < 1024) && decide (n < 2 ^ 32)
  | .feRingCfgWrite who g _ _ => writerOk who && decide (g < 1024)
  | .flitTransmit k => decide (k < 36)
  | .flitReceive k a b c d stamp => decide (k < 36) && stripesOk a b c d && decide (stamp < 2 ^ 80)
  | .replayTimer k => decide (k < 36)
  | .lcfReceive k a b c d => decide (k < 36) && stripesOk a b c d
  | .narrowReq k => decide (k < 36)
  | .narrowAck k => decide (k < 36)
  | .narrowDone k => decide (k < 36)
  | .downNotice k => decide (k < 36)
  | .idUpdate k => decide (k < 36)
  | .signalDetect k => decide (k < 36)
  | .equalizeDone k _ => decide (k < 36)
  | .alignDone k _ lanes planes _ => decide (k < 36) && lanesOk lanes && lanesOk planes
  | .caps k => decide (k < 36)
  | .measureDone k _ => decide (k < 36)
  | .trainBoundExpiry k => decide (k < 36)
  | .signalLoss k => decide (k < 36)
  | .linkRetrainTimer k => decide (k < 36)
  | .linkEnable who k _ _ => writerOk who && decide (k < 36)
  | .retrain who k _ _ => writerOk who && decide (k < 36)
  | .rejoin who k _ _ => writerOk who && decide (k < 36)
  | .rd k => decide (k < 36)
  | .wr k vc => decide (k < 36) && (vc == 0 || vc == 2 || vc == 3)
  | .aadd k => decide (k < 36)
  | .hiricQadd k => decide (k < 36)
  | .hiricList k => decide (k < 36)
  | .hiricHput k => decide (k < 36)
  | .doorbell k => decide (k < 36)
  | .rdr k => decide (k < 36)
  | .wra k => decide (k < 36)
  | .aadr k => decide (k < 36)
  | .qaa k => decide (k < 36)
  | .hpa k => decide (k < 36)
  | .enumStart who _ _ => writerOk who
  | .enumToken k => decide (k < 36)
  | .enumReturn k => decide (k < 36)
  | .enumBusy k => decide (k < 36)
  | .enumFail k => decide (k < 36)
  | .mboxSend who _ _ => writerOk who
  | .syncSend => true
  | .sync k => decide (k < 36)
  | .delayReq k => decide (k < 36)
  | .delayResp k => decide (k < 36)
  | .exchangeTimeout => true
  | .holdoverEntry => true
  | .ptmDialogue _ => true
  | .timNowRead who _ => writerOk who
  | .doveEntry t => tileOk t
  | .ashHandshake t => tileOk t
  | .ashEntry t => tileOk t
  | .handshakeAbort t => tileOk t
  | .slateEntry t => tileOk t
  | .heldPacketArrive t pkt => tileOk t && pktOk pkt
  | .atEarlyWake t => tileOk t
  | .stateExitComplete t => tileOk t
  | .wakeFail t => tileOk t
  | .jetEnter who _ _ => writerOk who
  | .jetExit who _ _ => writerOk who
  | .governorTick _ _ _ => true
  | .registerWrite who addr _ _ => writerOk who && regAddrOk addr
  | .cwWrite who addr _ _ => writerOk who && regAddrOk addr
  | .cwTwinWrite who addr _ _ => writerOk who && regAddrOk addr
  | .partitionDrainDone p => decide (p < 16)
  | .partitionDrainTimeout p => decide (p < 16)
  | .partitionResetDone p => decide (p < 16)
  | .rustTimeout p => decide (p < 16)
  | .crimsonAutoReset => true
  | .crimsonReset who _ _ => writerOk who
  | .applyW who _ _ => writerOk who
  | .applyE who _ _ => writerOk who
  | .injectArm who _ _ => writerOk who
  | .flr p => decide (p < 16)
  | .secMapCommit who _ _ => writerOk who
  | .mapZeroDone => true
  | .qntSclCommit who t _ _ => writerOk who && tileOk t
  | .raise who _ _ => writerOk who
  | .extend who p _ _ => writerOk who && decide (p < 16)
  | .pmrExtendDone p => decide (p < 16)
  | .getVersion fn => decide (fn < 17)
  | .getCapabilities fn => decide (fn < 17)
  | .negotiateAlgorithms fn _ _ => decide (fn < 17)
  | .getDigests fn => decide (fn < 17)
  | .getCertificate fn slot off len => decide (fn < 17) && decide (slot < 8) && decide (off < 2 ^ 16) && decide (len < 2 ^ 16)
  | .challenge fn slot nonce => decide (fn < 17) && decide (slot < 8) && decide (nonce < 2 ^ 256)
  | .getMeasurements fn idx nonce _ => decide (fn < 17) && decide (idx < 256) && decide (nonce < 2 ^ 256)
  | .inputPowerApply => true
  | .inputPowerLoss _ => true
  | .perstN => true
  | .powerPhaseDone => true
  | .bootPhaseDone => true
  | .measurePhaseDone readings => readingsOk readings
  | .linksPhaseDone => true
  | .timePhaseDone => true
  | .phaseBoundExpiry => true
  | .proceed who _ _ => writerOk who
  | .resetWrite who _ _ => writerOk who
  | .mgtPartRel who _ _ => writerOk who
  | .posFrame bytes => frameOk bytes
  | .ident bytes => frameOk bytes
  | .chainRead bytes => frameOk bytes
  | .chainWrite bytes => frameOk bytes
  | .alert => true
  | .alertRepeat => true
  | .chainReset bytes => frameOk bytes
  | .chainFrameForward bytes _ => frameOk bytes
  | .telemetrySnapshot readings => readingsOk readings
  | .tempSample readings => readingsOk readings
  | .railOutOfBand r => decide (r < 7)
  | .fwOpen who _ _ => writerOk who
  | .fwWrite who _ _ => writerOk who
  | .fwVerify who _ _ => writerOk who
  | .fwCopy who _ _ => writerOk who
  | .fwClose who _ _ => writerOk who
  | .fwOpDone => true
  | .hostBarAccess fn bar _ _ bytes n => decide (fn < 17) && barOk bar && decide (bytes.length ≤ 512) && decide (n ≤ 4096)
  | .channelSetExitComplete cs => decide (cs < 16)
  | .jetExitComplete => true

end Sys2Proof
end

