-- ==== Sys2Proof/Tests/Slice0.lean ====
section
/-! SUPPORT. Small states, and for every statement with hypotheses a theorem that meets them; a few tests. -/
open Sys2Proof Sys2Proof.Machine
namespace Sys2Proof.Tests
set_option Elab.async false

/-! Small states -/

/-- A word from its fields: (lowest bit, value). -/
def wd (l : List (Nat × Nat)) : BitVec 64 := BitVec.ofNat 64 (l.foldl (fun x f => x + f.2 <<< f.1) 0)
def wR (opc d a b : Nat) : BitVec 64 := wd [(0, opc), (12, d), (17, a), (22, b)]
def wI (opc d a imm : Nat) : BitVec 64 := wd [(0, opc), (12, d), (17, a), (32, imm)]

/-- A t-register: BASE, FMT, RANK, counts less one, strides (07 R226). -/
def wTd (base fmt rank c0 c1 c2 str1 str2 : Nat) : BitVec 256 :=
  BitVec.ofNat 256 (base + fmt <<< 64 + rank <<< 68 + c0 <<< 72 + c1 <<< 88 + c2 <<< 104 + str1 <<< 136 + str2 <<< 168)

def wReady : MgtUnit := { phase := .ready, mcf := true }
/-- The module in READY with one tile, number 0, in Ivory. -/
def wTile (x : Tile) : State :=
  { State.reset with mgt := wReady, tiles := [(0, { x with pwr := { st := .ivory } })] }
/-- Its user context runs one word. -/
def wCtx (w : BitVec 64) : Ctx :=
  { st := .run, prog := [w, 0x4C, 0x4C, 0x4C], s := [(1, 100), (2, 7), (3, BitVec.ofInt 64 (-9)), (4, 0x4000000012345678), (7, 3)],
    a := [(1, BitVec.ofNat 48 (tileBase 0)), (2, BitVec.ofNat 48 (tileBase 0 + 0x100)), (3, 0xF00F00000000), (4, 0x1000),
          (5, 0x600000000000), (6, 0xF00000080000)],
    p := [(1, true)],
    t := [(1, wTd (tileBase 0) 4 1 3 1 0 128 0), (2, wTd (tileBase 0 + quireOff) 8 0 0 0 0 0 0),
          (3, wTd (tileBase 0 + actOff) 0 0 3 0 0 0 0), (4, wTd (tileBase 0 + actOff + 0x100) 0 0 3 0 0 0 0),
          (5, wTd (tileBase 0 + actOff + 0x200) 0 0 0 0 0 0 0), (6, wTd (tileBase 0 + quireOff) 8 0 3 0 0 0 0),
          (7, wTd (tileBase 0 + 0x1000) 0 0 0 0 0 0 0), (8, wTd (tileBase 1 + quireOff) 8 0 3 0 0 0 0),
          (9, wTd (tileBase 0 + actOff) 0 0 511 0 0 0 0), (10, wTd (tileBase 0 + 0x1004) 1 0 0 0 0 0 0)] }
def wRun (w : BitVec 64) : State := wTile { herder := { user := wCtx w } }
/-- Its kernel context runs one word, above a preempted user context. -/
def wKern (w : BitVec 64) (b : List Entry) : State :=
  wTile { herder := { user := wCtx 0x4C, kern := { wCtx w with level := .k }, kctx := true, preempted := true, board := b } }

/-- Words of tensor instructions. -/
def wMma : BitVec 64 := wd [(0, 0x80), (12, 5), (17, 1), (21, 2), (32, 4), (36, 1)]
def wLdw : BitVec 64 := wd [(0, 0x81), (12, 5), (17, 1), (21, 1)]
def wFeed : BitVec 64 := wd [(0, 0x82), (12, 5), (17, 3)]
def wCopy : BitVec 64 := wd [(0, 0x82), (12, 5), (17, 3), (21, 4), (35, 1)]
def wDesc : BitVec 64 := wd [(0, 0x82), (12, 5), (17, 5), (35, 2)]
def wDrn : BitVec 64 := wd [(0, 0x83), (12, 5), (17, 6), (21, 4), (25, 1)]
def wDrnIcr : BitVec 64 := wd [(0, 0x83), (12, 5), (17, 2), (21, 4), (25, 1), (29, 1)]
def wSfu : BitVec 64 := wd [(0, 0x84), (12, 5), (17, 3), (21, 4), (33, 1)]
def wRed : BitVec 64 := wd [(0, 0x85), (12, 5), (17, 6), (21, 8), (25, 1)]
def wTopk : BitVec 64 := wd [(0, 0x86), (12, 5), (17, 3), (21, 7), (33, 1)]
def wSmp : BitVec 64 := wd [(0, 0x87), (12, 5), (17, 3), (21, 7), (29, 1), (33, 1)]

/-- A user context with a `mma` outstanding, ticket 3. -/
def wBusy (w : BitVec 64) : State :=
  wTile { herder := { user := { wCtx w with serial := 4, ticket := 3 }, board := [{ serial := 3, ticket := 3, cls := .pack }] } }
/-- A user context with one handle in queue 2. -/
def wHq (w : BitVec 64) : State := wTile { herder := { user := wCtx w, hq := [(2, [0x55, 0x66])] } }
def wDraws (w : BitVec 64) : State :=
  wTile { herder := { user := wCtx 0x4C, kern := { wCtx w with level := .k }, kctx := true, preempted := true
                      park := [{ serial := 1, ticket := 1 }] }
          retr := { strms := [{ serial := 1, kind := .copy }] } }

/-! The pack -/

def wTw : BitVec 256 := wTd (tileBase 0) 4 1 3 1 0 128 0
/-- A pass of m + 1 vectors of two columns of four S8 weights. -/
def wPass (m : Nat) : Pass := { word := wMma, tw := wTw, tq := wTd (tileBase 0 + quireOff) 8 0 m 0 0 0 0 }
def wBlock : Block := ⟨tileBase 0, .S8, 2, 4, 0, [[1, 0, 0, 0], [0, 0, 0, 0xFF]]⟩
def wReuse (m : Nat) : Pass := { wPass m with word := wMma ||| wd [(42, 1)] }
def wFill : Pass := { wPass 0 with word := wMma ||| wd [(43, 1)] }
/-- Array 0 of tile 0, with n vectors in feeder 0. -/
def wArr (r : Arr) (n : Nat) : State :=
  { wTile { herder := { user := wCtx 0x4C, board := [{ cls := .pack, phase := .begun, ticket := 1, word := wMma }] }
            pack := { arrs := [(0, r)], feed := [(0, List.replicate n [some 2, some 3, some 4, some 5])] } } with
    mem := [(tileBase 0, 1), (tileBase 0 + 131, 0xFF)] }
def wLoaded (p : Pass) : Pass := { p with block := some wBlock, loaded := true }

def wRedE (role ret : Nat) : Entry :=
  { cls := .chn, ticket := 1, word := wd [(0, 0x85), (25, role), (27, ret)],
    t1 := wTd (tileBase 0 + quireOff) 8 0 16 0 0 0 0, t2 := wTd (tileBase 1 + quireOff) 8 0 16 0 0 0 0 }
def wRedS (e : Entry) (gs : List Stage) (bs : List Beat) : State :=
  { wTile { herder := { user := wCtx 0x4C, board := [e] }, chain := { stages := gs } } with beats := bs }
def wStage (role : Nat) (ret : Bool) : Stage := { State.reset.stageOf (wRedE role (if ret then 1 else 0)) with armed := true }
def wBeat (i : Nat) : Beat := { src := 2, dst := 0, addr := tileBase 0 + quireOff + 64 * i, fmt := 8, bytes := List.replicate (if i = 0 then 64 else 4) 1 }
def wBack (i : Nat) : Beat := { wBeat i with src := 1, ret := true, addr := tileBase 1 + quireOff + 64 * i }

/-- A `drn` of two rows of two S32 elements; the control block lies at 0x1000, its records at 0x2000 of the window. -/
def wDrnE : Entry :=
  { cls := .drn, ticket := 1, word := wd [(0, 0x83)], t1 := wTd (tileBase 0 + quireOff) 8 1 1 1 0 8 0,
    t2 := wTd (tileBase 0 + actOff) 0 1 1 1 0 64 0, a1 := BitVec.ofNat 48 (tileBase 0 + 0x1000) }
/-- A control block with T = 1 and the given further fields. -/
def wDcb (more : Nat) : Nat := 0x40000000 <<< 32 + 0xBFFFFFFF <<< 64 + 0xFFFFFFFF <<< 128 + 0x2000 <<< 224 + more
def wRec : Nat := 1 + 0xFFFFFFFE <<< 32 + 1 <<< 96 + 62 <<< 102
def wDrnMem (more : Nat) : Memory :=
  Memory.writeN (Memory.writeN (Memory.writeN [] (tileBase 0 + 0x1000) (toBytesLE 64 (wDcb more))) (tileBase 0 + 0x2000)
    (toBytesLE 16 wRec ++ toBytesLE 16 wRec)) (tileBase 0 + quireOff) [1, 0, 0, 0, 2]
def wDrnS (e : Entry) (ds : List DrnRun) (more : Nat) : State :=
  { wTile { herder := { user := wCtx 0x4C, board := [e] }, drn := ds } with mem := wDrnMem more }
def wDrnD (n : Nat) (more : Nat) : DrnRun :=
  { dcb := wDcb more, recs := [wRec, wRec], next := n, stats := [{}, {}] }
def wDigOn (s : State) : State := s.setReg (tilePage 0 oDigCfg) 0x100001
def wSfuE (w : BitVec 64) : Entry :=
  { cls := .sfu, ticket := 1, word := w, t1 := wTd (tileBase 0 + actOff) 0 0 3 0 0 0 0,
    t2 := wTd (tileBase 0 + actOff + 0x100) 0 0 3 0 0 0 0, a1 := BitVec.ofNat 48 (tileBase 0 + 0x1000), a2 := BitVec.ofNat 48 (tileBase 0 + 0x1020) }
def wTopkE : Entry := { wSfuE (wd [(0, 0x86), (33, 1)]) with t2 := wTd (tileBase 0 + actOff + 0x200) 0 0 0 0 0 0 0 }
def wSmpE (w : Nat) : Entry := { wSfuE (wd [(0, 0x87), (33, w)]) with t2 := wTd (tileBase 0 + actOff + 0x200) 0 0 0 0 0 0 0 }
def wSfuS (e : Entry) (rs : List SfuRun) : State :=
  { wTile { herder := { user := wCtx 0x4C, board := [e] }, sfu := rs } with
    mem := Memory.writeN [] (tileBase 0 + 0x1000) (toBytesLE 16 (0x40000000 <<< 32 + 0x40000000 <<< 64) ++ toBytesLE 16 0 ++
      toBytesLE 32 ((2^64 - 1) <<< 64)) }

/-- A `stream` entry of a form: 0 feed, 1 copy, 2 descriptors; its operands are t3 and t4 of `wCtx`. -/
def wStrE (form : Nat) : Entry :=
  { cls := .rtv, ticket := 1, word := wd [(0, 0x82), (35, form)], t1 := (wCtx 0).t.get 0 3, t2 := (wCtx 0).t.get 0 4 }
/-- An `ldw` entry: 0 alone, 1 HEAD, 2 MEMBER, 3 TAIL; it loads 4 P8 elements from 0x1000 of set 0, and its SN names tile 1. -/
def wLdwE (role : Nat) : Entry :=
  { cls := .rtv, ticket := 1, word := wd [(0, 0x81), (30, role)], t1 := wTd 0x1000 0 0 3 0 0 0 0, t2 := (wCtx 0).t.get 0 3, x1 := 1 }
def wRtv (e : Entry) (xs : List Strm) : State :=
  wTile { herder := { user := wCtx 0x4C, board := [e] }, retr := { strms := xs } }
def wOn (e : Entry) : Entry := { e with phase := .begun }
/-- A copy from set 0 that has started, at its first element. -/
def wWork (kind : WKind) (src : Nat) : Work :=
  { id := 0, kind := kind, cnt := [4, 2, 1, 1, 1, 1], src := src, sstr := [4, 0, 0, 0, 0], dst := 0x2000, dstr := [4, 0, 0, 0, 0] }
def wStrm (kind : SKind) : Strm := { kind := kind, started := true, listEnd := true }
def wList (next : Nat) : Strm := { wStrm .desc with listEnd := false, next := next }
def wDesc6 (f : List (Nat × Nat)) : BitVec 512 :=
  let lo := f.foldl (fun x f => x + f.2 <<< f.1) 0
  BitVec.ofNat 512 (lo + (0xFFFFFFFF - lo % 2 ^ 32) <<< 32)
def wBurst (d : BitVec 512) : Strm := { wList 0x400 with bursts := [(0x400, [.data d])] }
def wCopyD : BitVec 512 := wDesc6 [(0, 1), (15, 1), (64, 0x1000), (128, 0x2000), (192, 3)]
def wFeedD : BitVec 512 := wDesc6 [(0, 2), (17, 1), (64, 0x1000), (192, 3)]

def wRt : Entry := { wStrE 1 with word := wd [(0, 0x82), (35, 1), (42, 1)] }
def wSled (e : Entry) (xs : List Strm) (b : SledBeat) : State := { wRtv e xs with sleds := [b] }
/-- The user context of tile 0 waits; a handle stands in queue 2. -/
def wWait (w : Wait) : State := wTile { herder := { user := { wCtx 0x4C with wait := w }, hq := [(2, [0x55, 0x66])] } }
def wOut (o : OutHandle) (n : Nat) : State :=
  { wTile { herder := { user := wCtx 0x4C, out := [o], hq := [(3, List.replicate n 9)] } } with }
def wH : OutHandle := { q := 3, handle := 77 }
/-- A faulted entry of the user context. -/
def wFlt : Entry := { serial := 3, ticket := 3, pc := 16, phase := .done, fault := some (.memEcc, 0x1000), bits := 2 }
def wKrun : Ctx := { wCtx 0x4C with level := .k }
/-- Ring 0 enabled, with its rings in channel set 0, and the given packets; partition 0 has been released. -/
def wFe (cfg : Nat) (r : Ring) (x : Tile) : State :=
  let s := wTile x
  { s with
    regs := [(ringReg 0 oRingBase, 0x10004), (ringReg 0 oRingBaseC, 0xFFFFFFFEFFFB), (ringReg 0 oRingCbase, 0x20000), (ringReg 0 oRingCfg, BitVec.ofNat 64 cfg)]
    sec := { s.sec with parts := [(0, { released := true })] }, fe := { s.fe with rings := [(0, r)] }, power := { s.power with ch := [(0, .active)] } }
def wTask : Ctx := { wCtx 0x4C with task := some {} }
def wC32 (v : Nat) : Word := BitVec.ofNat 64 (v + (0xFFFFFFFF - v) <<< 32)
def wNop : Pkt := { words := [wC32 3, 0, 0, 0, 0, 0, 0, 0] }
/-- A task of tile 0 whose four words lie at 0x4000. -/
def wTsk : Pkt := { words := [wC32 1, 0x4000 + 3 <<< 48, wC32 0, 42, 0, 0, 0, 0] }
def wP (k : Pkt) : State := wFe 1 { pkts := [k], tail := 1, tailC := 0xFFFFFFFE } {}
def wVal : Pkt := { wTsk with st := .valid, prog := [(0x4000, 32)] }
def wNow (s : State) (n : Nat) : State := { s with time := { s.time with ctr := n * 2 ^ 48 } }
def wTurn (s : State) (n : Nat) : State := wNow { s with fe := { s.fe with turns := [⟨0, 0x2B800, some 0, 0, 63⟩] } } n
def wR2 (s : State) : State :=
  let s := s.setRing 1 { pkts := [wVal], tail := 1, tailC := 0xFFFFFFFE }
  ((s.setReg (ringReg 1 oRingBase) 0x30004).setReg (ringReg 1 oRingBaseC) 0xFFFFFFFCFFFB).setReg (ringReg 1 oRingCfg) 1
def wRunT (k : Pkt) (x : Herder) : State := wFe 1 { pkts := [k], tail := 1, tailC := 0xFFFFFFFE } { herder := x }
/-- A validated command, alone on ring 0, a kernel ring with SYS. -/
def wCmd (op : Nat) (w1 w2 w3 : Word) : Pkt := { words := [wC32 (2 + op <<< 8), w1, w2, w3, 0, 0, 0, 0], st := .valid }
def wK (k : Pkt) : State := wFe 0xD { pkts := [k], tail := 1, tailC := 0xFFFFFFFE } {}
/-- Ring 1 of partition 0 runs a task. -/
def wWith (s : State) (k : Pkt) : State := (s.setRing 1 { pkts := [k], tail := 1, tailC := 0xFFFFFFFE }).setReg (ringReg 1 oRingCfg) 1
def wHeld (s : State) : State := { s with sec := { s.sec with parts := [(0, { released := true, st := .held })] } }
def wProg (s : State) (l : List ProgVer) : State := { s with fe := { s.fe with progs := [(0, l)] } }
def wStop (s : State) : State := { s with fe := { s.fe with stopped := [0] } }
def wLw (a v c : Word) : Pkt := wCmd 8 a v c
def wSit (x : SitState) : State := let s := wK { wCmd 0x20 0 0 0 with st := .busy }; { s with fe := { s.fe with sit := { x with on := true } } }
def wOk : State := wTile {}
def wJet : State := { wOk with power := { jet := true } }
/-- Every group of SEC_LOCK is locked. -/
def wLocked : State := { wOk.setReg rSecLock 0xFF with sec := { lockC := 0 } }
def regAt (a : Nat) : Reg := (findReg a).getD { fields := [] }
/-- A stream of queue 2 has faulted at 0x400000001000 and is reported in RTV_FAULT; one of queue 3 has faulted after it. -/
def wFaulted (two : Bool) : State :=
  let x : Strm := { wStrm .copy with qid := 2, fault := some { desc := 0, va := 0x400000001000, write := false, reported := true } }
  let y : Strm := { wStrm .copy with serial := 1, qid := 3, fault := some { desc := 0, va := 0x400000002000, write := true } }
  (wRtv (wOn (wStrE 1)) (if two then [x, y] else [x])).setReg (tilePage 0 oRtvFault) 0xA
def wScl (good : Bool) : State :=
  let l := (List.range 8).flatMap (fun n => [(tilePage 0 (oScl 0 n), (5 : Word)), (tilePage 0 (oScl 0 n) + 8, if good then ~~~ 5 else 5)])
  { wOk with shadow := l }
def wArrBusy (s : State) : State := { s with tiles := [(0, { pack := { arrs := [(0, { queue := [wPass 0] })] }, pwr := { st := .ivory } })] }
def wPart (x : Part) : State := { wOk with sec := { parts := [(0, x)] } }
def wBusyPart : State := wTile { herder := { user := wTask } }
def wBell (n : Nat) : Word := wC32 n
/-- Ring 0 may be enabled. -/
def wRingOff : State := wFe 0 { baseWritten := true, cbaseWritten := true } {}
/-- Link 0 as given. -/
def wLk (l : Link) : State := { wOk with link := { links := [(0, l)], en := { devid := 5 } } }
def wCaps (serial : Nat) : List Byte := let c := State.capsRecord wOk 0; c.take 8 ++ toBytesLE 8 serial ++ c.drop 16
/-- A flit with a header, one body and a valid check. -/
def wFlit (hdr : Nat) (body : List Byte) : List Byte := flitBytes hdr body 0 false
def wRd : Txn := { type := .rd, dst := 5, src := 6, srcTile := 3, addr := 0x1000, len := 8 }
def wKept (n : Nat) : KeptFlit := { seq := n, slots := wRd.slots, txns := [wRd] }
def wActive (l : Link) : State := wLk { l with st := .active }
/-- Links 0 and 1 are ACTIVE, module 6 is reached over link 1, and a transaction for module 5, this one, has come over link 0. -/
def wIn (x : Txn) : State :=
  { wOk.setReg (routeAddr 6) (wC32 0x1000001) with
    link := { links := [(0, { st := .active, routed := true, rx := [{ txn := x }] }), (1, { st := .active, routed := true })]
              en := { devid := 5 } }, power := { ch := [(0, .active)] } }
/-- The state and the transaction once taken from the receive buffer. -/
def wTaken (s : State) : State := match (s.linkOf 0).rx with | r :: _ => ((s.takeRx 0 r.txn.vc (fun _ => true)).map (·.2)).getD s | [] => s
def wReq (f : Txn → Txn) : Txn := f { wRd with vc := .req }
def wWr : Txn := { wRd with type := .wr, data := [1, 2, 3, 4, 5, 6, 7, 8] }
def wSled2 : Txn := { wWr with vc := .sled, addr := tileBase 0 + 0x1A0000 }
def wRet : Txn := { wWr with vc := .chain, addr := tileBase 0 + quireOff }
def wQadd : Txn := { wRet with type := .qadd, fmt := 8, len := 64, data := List.replicate 64 1, addr := tileBase 0 + quireOff }
def wHput : Txn := { wWr with type := .hput, addr := 3 * 2048 }
def wBellT : Txn := { wWr with type := .doorbell, vc := .msg, addr := 0 }
def wStaged (x : Txn) : State :=
  let s := wIn x
  { s with tiles := (wRedS { wRedE 3 0 with phase := .begun } [wStage 3 false] []).tiles }
def wHq32 : State := { wIn wHput with tiles := [(0, { herder := { hq := [(3, List.replicate 32 0)] }, pwr := { st := .ivory } })] }
def wAdm : State := (wIn wBellT).setReg (partPage 0 oAdmit) 0x3FFE00010001
/-- A response to a request of tile 0, or of the mailbox, with tag 4. -/
def wRsp (t : TType) (tile st : Nat) : Txn := { type := t, vc := .rsp, dst := 5, src := 6, srcTile := tile, tag := 4, status := st, len := 8, data := if t = .rdr then [1, 2, 3, 4, 5, 6, 7, 8] else [] }
def wAns (x : Txn) (w : Purpose) (tl : Tile) : State :=
  let s := wIn x
  { s with tiles := [(0, { tl with pwr := { st := .ivory } })], link := { s.link with outst := [⟨x.srcTile, 4, w, 1⟩] } }
def wOutH : Tile := { herder := { out := [{ q := 3, handle := 77, target := 0x40060000, sent := true, tag := 4 }] } }
def wRq : RdReq := { work := 0, first := 0, n := 8, va := 0x1000, bytes := 8, dev := some 6, tag := 4 }
def wWq : WrReq := { work := 0, va := 0x1000, segs := [(0x1000, [1, 2])], dev := some 6, tag := 4, arrived := true }
def wStT (x : Strm) : Tile := { herder := { user := wCtx 0x4C, board := [wOn (wStrE 1)] }, retr := { strms := [x] } }
def wPurp (x : Txn) (w : Purpose) : Outst := ⟨x.srcTile, 4, w, 1⟩
def wAnsS (x : Txn) (w : Purpose) (tl : Tile) : State := wTaken (wAns x w tl)
def wTok (kind cause : Nat) : Txn := { type := .enum, vc := .msg, src := 6, len := 8, data := toBytesLE 8 (enumWord 9 kind cause 1) }
def wEnum (x : Txn) (e : EnumSt) : State := let s := wIn x; { s with link := { s.link with en := e } }
def wEnumT (x : Txn) (e : EnumSt) : State := wTaken (wEnum x e)
/-- A TIME message of the upstream module, which is locked. -/
def wTimeX (kind t4 : Nat) : Txn := { type := .time, vc := .msg, src := 6, len := 16, data := toBytesLE 16 (kind + 4 + 2 <<< 3 + 9 <<< 16 + t4 <<< 64) }
/-- Time comes over link 0. -/
def wTm (s : State) (x : Option Exchange) : State := { s.setReg rTimCfg 2 with time := { ex := x, locked := true } }
def wRxT (x : Txn) : RxTxn := { txn := x }
def wPwr (p : TilePwr) (x : Tile) : State := { wOk with tiles := [(0, { x with pwr := p })], sec := { parts := [(0, { released := true })] } }
/-- The partition tolerates the latency of Ash, in ns. -/
def wTol (s : State) (n : Nat) : State := (s.setReg (partPage 0 oLtr) (BitVec.ofNat 64 n)).setReg (partPage 0 oLtr + 8) (BitVec.ofNat 64 (0xFFFFFFFF - n))
def wFree (p : TilePwr) (x : Tile) : State := { wPwr p x with sec := {} }
def wJetP (v : Word) (s : State) : State := { s with cwPend := [(rPwrJet, v)] }
def wInj (s : State) : State := s.setReg rRelCfg 3
/-- A retirement of a column of the west die is pending, and the partitions it moves are HELD. -/
def wSpare (st : PartSt) : State :=
  let s := wOk.setReg (rRelSpare false) (24 + 20 <<< 8 + 1 <<< 14)
  { s with sec := { s.sec with parts := (List.range 16).map (fun p => (p, { st := st })) } }
def wMapSh (v : Word) : State := { wOk with shadow := [(rSecMap 0, v)], mem := [(tileBase 2, 5)] }
def wMbox (h0 : Word) : State := (wIn wRd).setReg rMboxH0 h0
def wMgt (m : MgtUnit → MgtUnit) : State := { wOk with mgt := m wReady }
def wPh (p : BootPhase) : State := wMgt (fun m => { m with phase := p, mcf := false })
def be48 (n : Nat) : List Byte := (toBytesLE 48 n).reverse
/-- The public key 1 of P-384, and its SHA-384. -/
def wKeyB : List Byte := be48 p384G.1 ++ be48 p384G.2
def wRoot : List Byte := be48 0xa19d4db171b582eb8052b0cfe555e17894aa22d1c8a9770950697dd8f796d2fa4bf0a56ad80006b7ea08e1191f814b65
/-- A firmware object of a type, version 1, signed with the key 1 and the nonce 1 (16 R626); h is the hash of its body
and v the second half of its signature. -/
def wObj (t : Nat) (body : List Byte) (h v : Nat) : List Byte :=
  toBytesLE 8 (0x4B444657 + t <<< 32) ++ toBytesLE 8 (1 + 5 <<< 16 + 9 <<< 48) ++ toBytesLE 4 body.length ++
    List.replicate 0x2C 0 ++ be48 h ++ wKeyB ++ be48 (p384G.1 % p384N) ++ be48 v ++ List.replicate 0xD0 0 ++ body
def wHash0 : Nat := 0x38b060a751ac96384cd9327eb1b1e36a21fdb71114be07434c0cc7bf63f6e1da274edebfe76f65fbd51ad2f14898b95b
def wMcf : List Byte :=
  wObj 1 [] wHash0 0x45d26c7aab4b2d75443308ab6a5da984318f10f983b6da611b2ad688150f7e885f216b2777aa6952165c94517a044cb4
def wHcf : List Byte :=
  wObj 2 [] wHash0 0x12a446cdd776a59c2b21f1cea337e78bfab127e61bdcee36f705d7db4ec3f7187c9508424fc0b5eb222a7aa73370c12
/-- A TABLE without pairs, and one with the pair (1, 1). -/
def wTab0 : List Byte :=
  wObj 3 [] wHash0 0xb42f8d1a4dba310ab562cba16d5c4c7c3344288f0727b1ada79e7620c76c90a7d50a023c0570d52ad1300890c8dceacc
def wTab1 : List Byte :=
  wObj 3 [1, 0, 1, 0] 0xe55911eddead72cdc431613262d727380da0fa46f80dd933d3ac5141f862e4368dccdff0d704324f184666e4c45f4e9f
    0xfef9c658be73272c27299abfc56963173f59e3db72d9f2f50a3dcf67ac9af81b83501f0dbce7f5c7a2a6e138848de81d
/-- The module in BOOT with the given flash slots. -/
def wBoots (l : SMap (List Byte)) : State :=
  let s := wPh .boot
  { s with sec := { rootHash := wRoot }, mgt := { s.mgt with flash := l } }
def wGood : List (Nat × Int) := sensors.map (fun i => (i, if i = 0 then 54000 else if i = 1 then 100 else if i = 2 then 0 else if i < 0x10 then railNominal (i - 8) else 100))
def wTime (m : MgtUnit → MgtUnit) : State := wMgt (fun x => m { x with phase := .time })
def wFw (op ty off : Nat) : Word := wd [(0, op), (6, ty), (32, off)]
def wOwn : State := wMgt (fun m => { m with owner := 1, flash := [(3, [1, 2, 3]), (2, [4])] })
def wHalf : State := wMgt (fun m => { m with owner := 1, flash := [(3, List.replicate 4096 7), (2, [4])] })
def wBusyFw (o : FwOp) (t : Nat) : State := wMgt (fun m => { m with owner := 1, fwBusy := some (o, t) })
def wSpdm (x : Spdm) : State := { wMgt (fun m => { m with running := [(1, FwObj.ofBytes 1 [])] }) with sec := { spdm := [(1, x)] } }
/-- Partition 0 with a task running on ring 0. -/
def wSeq (x : Part) (s : State) : State := { s with sec := { s.sec with parts := [(0, x)] } }
def wRunning : State := wRunT { wVal with st := .running } { user := wTask }
def wFr (dst cmd : Nat) (p : List Byte) : Frame := { dst := dst, src := 6, cmd := cmd, tag := 9, payload := p }
def wMc (m : MgtUnit → MgtUnit) : State := wMgt (fun x => m { x with pos := 5, posValid := true })
def wRdF (a n : Nat) : Frame := wFr 5 3 (toBytesLE 8 a ++ [BitVec.ofNat 8 n])
def wWrF (a v : Nat) : Frame := wFr 5 4 (toBytesLE 8 a ++ toBytesLE 8 v)
def wHost : State := { wOk with power := { ch := [(0, .active)] } }
/-! Instructions on a plain context -/

def wUser (w : BitVec 64) : Ctx :=
  { st := .run, prog := [w], s := [(1, 100), (2, 7), (3, BitVec.ofInt 64 (-9)), (4, 0x4000000012345678)],
    a := [(1, BitVec.ofNat 48 (tileBase 0)), (2, BitVec.ofNat 48 (tileBase 0 + 0x100))], p := [(1, true)] }
def wTl (x : Tile) : State := wTile x
def wCtxT (c : Ctx) (k : Ctx := { level := .k }) (kc pre : Bool := false) : Tile :=
  { herder := { user := c, kern := k, kctx := kc, preempted := pre } }
def wSt (w : BitVec 64) : State := wTile (wCtxT (wUser w))
def wStQ (w : BitVec 64) : State :=
  wTile (wCtxT { wUser w with s := [(1, 0x40000000), (4, 0xFFFFFFFF80000000)], q := 12345 })
def wStM (w : BitVec 64) : State :=
  { wTile (wCtxT { wUser w with a := [(1, BitVec.ofNat 48 (tileBase 0)), (3, 0xF00F00000000), (4, 0x1000)] }) with
    mem := [(tileBase 0 + 0x44, 0x80), (tileBase 0 + 0x48, 0xFF)] }
def wStB (w : BitVec 64) : State :=
  wTile (wCtxT { wUser w with prog := [w, 1, 1, 1], s := [(2, 0x8010), (3, 12), (4, 32)] })
def wStK (w : BitVec 64) : State :=
  wTile { herder := { user := wUser 7, kern := { wUser w with level := .k }, kctx := true, preempted := true
                      park := [{ ticket := 3 }], board := [{ kctx := false, ticket := 2 }] } }

/-! The premises of the register statements as Booleans -/

def takesB (s : State) (w : Writer) (a : Nat) (c : Acc) (v : Word) : Bool :=
  decide (s.jetHides w a = false ∧ s.sitHides w a = false ∧ s.permits w a true = true ∧ s.checkLocks a = s
    ∧ s.lockedFor w a = 0 ∧ c ≠ .other)
    && match findReg a with
      | none => true
      | some r => decide (r.refuses (c.place v) c.mask ((s.regNow a &&& ~~~ c.mask) ||| c.place v) = false ∧
          s.regNow a &&& ~~~ c.place v &&& c.mask &&& r.maskOfTy .wl = 0)

theorem takes_iff (s : State) (w : Writer) (a : Nat) (c : Acc) (v : Word) : s.takes w a c v ↔ takesB s w a c v = true := by
  unfold State.takes State.lets takesB
  cases h : findReg a <;> simp [and_assoc]

theorem lets_iff (s : State) (w : Writer) (a : Nat) :
    s.lets w a ↔ (!s.jetHides w a && !s.sitHides w a && s.permits w a true) = true := by
  simp [State.lets, and_assoc]

/-! The firmware objects are valid -/

theorem wMcf_ok : validObj 0 wRoot 1 wMcf = true := by decide +kernel
theorem wHcf_ok : validObj 0 wRoot 2 wHcf = true := by decide +kernel
theorem wTab0_ok : validObj 0 wRoot 3 wTab0 = true := by decide +kernel
theorem wTab1_ok : validObj 0 wRoot 3 wTab1 = true := by decide +kernel
theorem boot_slot (s : State) (t : Nat) (h : s.slotOk t s.mgt.pref = true) : s.bootSlot t = some s.mgt.pref := by
  simp [State.bootSlot, h]

theorem quiet_wSeq (t : Nat) : let x := (wSeq { seqOn := true } wOk).tile t
    x.lostWrites = [] ∧ x.retr.onWay = [] ∧ x.drn = [] ∧ x.held = [] ∧ x.retr.sled = [] := by
  simp only [State.tile, wSeq, wOk, wTile, SMap.get]
  split <;> exact ⟨rfl, rfl, rfl, rfl, rfl⟩

theorem quiet_wSeqR (t : Nat) : let x := (wSeq { seqOn := true, resetting := true } wOk).tile t
    x.lostWrites = [] ∧ x.retr.onWay = [] ∧ x.drn = [] ∧ x.held = [] ∧ x.retr.sled = [] := by
  simp only [State.tile, wSeq, wOk, wTile, SMap.get]
  split <;> exact ⟨rfl, rfl, rfl, rfl, rfl⟩

/-! Witnesses -/

theorem witness_IntegerInstructionResults :
    (let s := wSt (wR 1 5 1 2);
     let w := (wR 1 5 1 2);
     s.issues 0 w 1 0 = true) ∧
    (let s := wSt (wR 2 5 1 3);
     let w := (wR 2 5 1 3);
     s.issues 0 w 2 0 = true) ∧
    (let s := wSt (wR 3 5 1 2);
     let w := (wR 3 5 1 2);
     s.issues 0 w 3 0 = true) ∧
    (let s := wSt (wR 4 5 1 2);
     let w := (wR 4 5 1 2);
     s.issues 0 w 4 0 = true) ∧
    (let s := wSt (wR 5 5 1 2);
     let w := (wR 5 5 1 2);
     s.issues 0 w 5 0 = true) ∧
    (let s := wSt (wR 6 5 1 2);
     let w := (wR 6 5 1 2);
     s.issues 0 w 6 0 = true) ∧
    (let s := wSt (wR 7 5 3 2);
     let w := (wR 7 5 3 2);
     s.issues 0 w 7 0 = true) ∧
    (let s := wSt (wR 8 5 3 2);
     let w := (wR 8 5 3 2);
     s.issues 0 w 8 0 = true) ∧
    (let s := wSt (wR 9 5 3 2);
     let w := (wR 9 5 3 2);
     s.issues 0 w 9 0 = true) ∧
    (let s := wSt (wR 10 5 3 2);
     let w := (wR 10 5 3 2);
     s.issues 0 w 10 0 = true) ∧
    (let s := wSt (wR 11 5 3 2);
     let w := (wR 11 5 3 2);
     s.issues 0 w 11 0 = true) ∧
    (let s := wSt (wR 12 0 3 2);
     let w := (wR 12 0 3 2);
     s.issues 0 w 12 0 = true) ∧
    (let s := wSt (wI 16 5 3 0xFFFFFFFE);
     let w := (wI 16 5 3 0xFFFFFFFE);
     s.issues 0 w 16 0 = true) ∧
    (let s := wSt (wI 17 5 0 0xFFFFFFFE);
     let w := (wI 17 5 0 0xFFFFFFFE);
     s.issues 0 w 17 0 = true) ∧
    (let s := wSt (wI 18 5 3 0xFFFFFFFE);
     let w := (wI 18 5 3 0xFFFFFFFE);
     s.issues 0 w 18 0 = true) ∧
    (let s := wSt (wI 0x13 5 3 0xFFFFFFFE);
     let w := (wI 0x13 5 3 0xFFFFFFFE);
     s.issues 0 w 19 0 = true) ∧
    (let s := wSt (wI 0x14 5 3 0xFFFFFFFE);
     let w := (wI 0x14 5 3 0xFFFFFFFE);
     s.issues 0 w 20 0 = true) ∧
    (let s := wSt (wR 0x4C 0 0 0);
     let w := (wR 0x4C 0 0 0);
     s.issues 0 w 76 0 = true) := by
  exact ⟨by decide +kernel,
    by decide +kernel,
    by decide +kernel,
    by decide +kernel,
    by decide +kernel,
    by decide +kernel,
    by decide +kernel,
    by decide +kernel,
    by decide +kernel,
    by decide +kernel,
    by decide +kernel,
    by decide +kernel,
    by decide +kernel,
    by decide +kernel,
    by decide +kernel,
    by decide +kernel,
    by decide +kernel,
    by decide +kernel⟩

theorem witness_PredicateAddressTensorResults :
    (let s := wSt (wd [(0,0x18),(12,2),(15,1),(20,1),(25,0)]);
     let w := (wd [(0,0x18),(12,2),(15,1),(20,1),(25,0)]);
     s.issues 0 w 24 0 = true) ∧
    (let s := wSt (wd [(0,0x19),(12,2),(15,1),(20,3),(25,0)]);
     let w := (wd [(0,0x19),(12,2),(15,1),(20,3),(25,0)]);
     s.issues 0 w 25 0 = true) ∧
    (let s := wSt (wR 0x1C 3 4 0);
     let w := (wR 0x1C 3 4 0);
     s.issues 0 w 28 0 = true) ∧
    (let s := wSt (wR 0x1D 3 1 0);
     let w := (wR 0x1D 3 1 0);
     s.issues 0 w 29 0 = true) ∧
    (let s := wSt (wI 0x1E 3 1 0xFFFFFFF0);
     let w := (wI 0x1E 3 1 0xFFFFFFF0);
     s.issues 0 w 30 0 = true) ∧
    (let s := wSt (wR 0x21 3 3 1);
     let w := (wR 0x21 3 3 1);
     s.issues 0 w 33 0 = true) ∧
    (let s := wSt (wd [(0,0x22),(12,3),(17,1),(32,0x40)]);
     let w := (wd [(0,0x22),(12,3),(17,1),(32,0x40)]);
     let c := s.act 0;
     let imm := BitVec.extractLsb' 32 32 w;
     let e := (c.aget (fld w 20 17) + BitVec.signExtend 48 imm).toNat;
     s.issues 0 w 34 0 = true ∧ e % 32 = 0 ∧ inWindow 0 e 32 = true ∧ s.clean e 32 = true) ∧
    (let s := wSt (wd [(0,0x23),(12,3),(17,1),(32,0x40)]);
     let w := (wd [(0,0x23),(12,3),(17,1),(32,0x40)]);
     let c := s.act 0;
     let imm := BitVec.extractLsb' 32 32 w;
     let e := (c.aget (fld w 20 17) + BitVec.signExtend 48 imm).toNat;
     s.issues 0 w 35 0 = true ∧ e % 32 = 0 ∧ inWindow 0 e 32 = true) := by
  exact ⟨by decide +kernel,
    by decide +kernel,
    by decide +kernel,
    by decide +kernel,
    by decide +kernel,
    by decide +kernel,
    by decide +kernel,
    by decide +kernel⟩

theorem witness_ScalarPositResults :
    (let s := wSt (wR 48 5 4 1);
     let w := (wR 48 5 4 1);
     s.issues 0 w 48 0 = true) ∧
    (let s := wSt (wR 49 5 4 1);
     let w := (wR 49 5 4 1);
     s.issues 0 w 49 0 = true) ∧
    (let s := wSt (wR 50 5 4 1);
     let w := (wR 50 5 4 1);
     s.issues 0 w 50 0 = true) ∧
    (let s := wSt (wR 0x34 0 0 0);
     let w := (wR 0x34 0 0 0);
     s.issues 0 w 52 0 = true) ∧
    (let s := wSt (wR 0x35 0 4 0);
     let w := (wR 0x35 0 4 0);
     s.issues 0 w 53 0 = true) ∧
    (let s := wSt (wR 0x36 0 4 4);
     let w := (wR 0x36 0 4 4);
     s.issues 0 w 54 0 = true) ∧
    (let s := wSt (wR 0x37 0 4 1);
     let w := (wR 0x37 0 4 1);
     s.issues 0 w 55 0 = true) ∧
    (let s := wSt (wR 0x38 5 0 0);
     let w := (wR 0x38 5 0 0);
     s.issues 0 w 56 0 = true) ∧
    (let s := wSt (wI 0x33 5 4 0x01);
     let w := (wI 0x33 5 4 0x01);
     s.issues 0 w 51 0 = true ∧ ∃ a, a ∈ Fmt.ofCode (fld w 35 32) ∧ ∃ b, b ∈ Fmt.ofCode (fld w 39 36) ∧
       a.isQuire = false ∧ b.isQuire = false ∧ (a.isIeee = false ∨ b.isPosit = true ∨ a = b)) ∧
    (let s := wSt (wI 0x33 5 4 0x11);
     let w := (wI 0x33 5 4 0x11);
     s.issues 0 w 51 0 = true ∧ ∃ a, a ∈ Fmt.ofCode (fld w 35 32) ∧ ∃ b, b ∈ Fmt.ofCode (fld w 39 36) ∧
       a.isQuire = false ∧ b.isQuire = false ∧ (a.isIeee = false ∨ b.isPosit = true ∨ a = b) ∧ a = b) := by
  exact ⟨by decide +kernel,
    by decide +kernel,
    by decide +kernel,
    by decide +kernel,
    by decide +kernel,
    by decide +kernel,
    by decide +kernel,
    by decide +kernel,
    by decide +kernel,
    by decide +kernel⟩

theorem witness_ScalarLoadsAndStores :
    (let s := wStM (wd [(0,64),(12,1),(17,1),(21,0),(32,65)]);
     let w := (wd [(0,64),(12,1),(17,1),(21,0),(32,65)]);
     let c := s.act 0;
     let n := 2 ^ fld w 22 21;
     let a := (c.aget (fld w 20 17) + BitVec.signExtend 48 (BitVec.extractLsb' 32 32 w)).toNat;
     let x := aliasOf 0 a;
     s.issues 0 w 64 0 = true ∧ s.scalarCheck 0 c.level a n false = none ∧ s.targetSleeps 0 x = false ∧
       regionOf x ≠ Region.reg ∧ s.clean x n = true) ∧
    (let s := wStM (wd [(0,64),(12,1),(17,3),(21,3),(32,16)]);
     let w := (wd [(0,64),(12,1),(17,3),(21,3),(32,16)]);
     let c := s.act 0;
     let n := 2 ^ fld w 22 21;
     let a := (c.aget (fld w 20 17) + BitVec.signExtend 48 (BitVec.extractLsb' 32 32 w)).toNat;
     let x := aliasOf 0 a;
     s.issues 0 w 64 0 = true ∧ s.scalarCheck 0 c.level a n false = none ∧ s.targetSleeps 0 x = false ∧
       regionOf x = Region.reg) ∧
    (let s := wStM (wd [(0,65),(12,1),(17,1),(21,0),(32,65)]);
     let w := (wd [(0,65),(12,1),(17,1),(21,0),(32,65)]);
     let c := s.act 0;
     let n := 2 ^ fld w 22 21;
     let a := (c.aget (fld w 20 17) + BitVec.signExtend 48 (BitVec.extractLsb' 32 32 w)).toNat;
     let x := aliasOf 0 a;
     s.issues 0 w 65 0 = true ∧ s.scalarCheck 0 c.level a n false = none ∧ s.targetSleeps 0 x = false ∧
       regionOf x ≠ Region.reg ∧ s.clean x n = true) ∧
    (let s := wStM (wd [(0,65),(12,1),(17,3),(21,3),(32,16)]);
     let w := (wd [(0,65),(12,1),(17,3),(21,3),(32,16)]);
     let c := s.act 0;
     let n := 2 ^ fld w 22 21;
     let a := (c.aget (fld w 20 17) + BitVec.signExtend 48 (BitVec.extractLsb' 32 32 w)).toNat;
     let x := aliasOf 0 a;
     s.issues 0 w 65 0 = true ∧ s.scalarCheck 0 c.level a n false = none ∧ s.targetSleeps 0 x = false ∧
       regionOf x = Region.reg) ∧
    (let s := wStM (wd [(0,66),(12,1),(17,1),(21,0),(32,65)]);
     let w := (wd [(0,66),(12,1),(17,1),(21,0),(32,65)]);
     let c := s.act 0;
     let n := 2 ^ fld w 22 21;
     let a := (c.aget (fld w 20 17) + BitVec.signExtend 48 (BitVec.extractLsb' 32 32 w)).toNat;
     let x := aliasOf 0 a;
     s.issues 0 w 66 0 = true ∧ s.scalarCheck 0 c.level a n true = none ∧ s.targetSleeps 0 x = false ∧
       regionOf x ≠ Region.reg) ∧
    (let s := wStM (wd [(0,66),(12,1),(17,3),(21,3),(32,16)]);
     let w := (wd [(0,66),(12,1),(17,3),(21,3),(32,16)]);
     let k := (s.herder 0).kctx;
     let c := s.act 0;
     let n := 2 ^ fld w 22 21;
     let a := (c.aget (fld w 20 17) + BitVec.signExtend 48 (BitVec.extractLsb' 32 32 w)).toNat;
     let x := aliasOf 0 a;
     s.issues 0 w 66 0 = true ∧ s.scalarCheck 0 c.level a n true = none ∧ s.targetSleeps 0 x = false ∧
       regionOf x = Region.reg ∧
     let u := s.regWrite (Writer.herder 0 c.level) (accOf x n).fst (accOf x n).snd (BitVec.ofNat 64 (BitVec.toNat
         (c.sget (fD w)) % 2 ^ (8 * n)));
     (u.ctx 0 k).st ≠ CtxSt.idle) := by
  exact ⟨by decide +kernel,
    by decide +kernel,
    by decide +kernel,
    by decide +kernel,
    by decide +kernel,
    by decide +kernel⟩

theorem witness_StoreChangesItsBytes :
    (let s := wStM 1;
     s.mem.wf = true) ∧
    (let s := wStM 1;
     let a := (tileBase 0 + 0x43);
     let bs : List Byte := [1, 2, 0, 4];
     s.mem.wf = true ∧ ∀ (u : EccUnit), u ∈ eccUnits a bs.length → (a ≤ u.addr ∧ u.addr + u.size ≤ a + bs.length ∨
       (s.eccClass u).ok = true) ∧ (0 < u.addr ∨ u.addr + u.size ≤ 0)) ∧
    (let s := { wStM 1 with eccW := [((tileBase 0 + 0x40) / 8, 0xFF), ((tileBase 0 + 0x48) / 8, 0xFF)] };
     let a := (tileBase 0 + 0x43);
     let bs : List Byte := List.replicate 13 3;
     s.mem.wf = true ∧ (∀ (u : EccUnit), u ∈ eccUnits a bs.length →
       (a ≤ u.addr ∧ u.addr + u.size ≤ a + bs.length ∨ s.eccClass u = .poisoned ∧ s.injEcc u = none)) ∧
       (∃ (u : EccUnit), u ∈ eccUnits a bs.length ∧ a ≤ u.addr ∧ u.addr + u.size ≤ a + bs.length) ∧
       ∃ (u : EccUnit), u ∈ eccUnits a bs.length ∧ ¬(a ≤ u.addr ∧ u.addr + u.size ≤ a + bs.length) ∧
         s.eccClass u = .poisoned) ∧
    (let s := wStM 1;
     let a := (tileBase 0 + 0x43);
     let bs : List Byte := [1, 2, 0, 4];
     s.mem.wf = true ∧ s.plain a bs.length = true) := by
  exact ⟨by decide +kernel,
    by decide +kernel,
    by decide +kernel,
    by decide +kernel⟩

theorem witness_BranchesAndExit :
    (let s := wStB (wd [(0,0x48),(32,3)]);
     let w := (wd [(0,0x48),(32,3)]);
     let c := s.act 0;
     let tgt := fld w 43 32 * 8;
     s.issues 0 w 72 0 = true ∧ tgt % 8 = 0 ∧ tgt < 8 * c.prog.length) ∧
    (let s := wStB (wd [(0,0x48),(32,4)]);
     let w := (wd [(0,0x48),(32,4)]);
     let c := s.act 0;
     let tgt := fld w 43 32 * 8;
     s.issues 0 w 72 0 = true ∧ ¬(fun p => p % 8 = 0 ∧ p < 8 * c.prog.length) tgt) ∧
    (let s := wStB (wd [(0,0x49),(12,5),(32,2)]);
     let w := (wd [(0,0x49),(12,5),(32,2)]);
     let c := s.act 0;
     let tgt := fld w 43 32 * 8;
     s.issues 0 w 73 0 = true ∧ tgt % 8 = 0 ∧ tgt < 8 * c.prog.length) ∧
    (let s := wStB (wd [(0,0x49),(12,5),(32,4)]);
     let w := (wd [(0,0x49),(12,5),(32,4)]);
     let c := s.act 0;
     let tgt := fld w 43 32 * 8;
     s.issues 0 w 73 0 = true ∧ ¬(fun p => p % 8 = 0 ∧ p < 8 * c.prog.length) tgt) ∧
    (let s := wStB (wR 0x4A 0 2 0);
     let w := (wR 0x4A 0 2 0);
     let c := s.act 0;
     let ind := (BitVec.extractLsb' 0 15 (c.sget (fA w))).toNat;
     s.issues 0 w 74 0 = true ∧ ind % 8 = 0 ∧ ind < 8 * c.prog.length) ∧
    (let s := wStB (wR 0x4A 0 3 0);
     let w := (wR 0x4A 0 3 0);
     let c := s.act 0;
     let ind := (BitVec.extractLsb' 0 15 (c.sget (fA w))).toNat;
     s.issues 0 w 74 0 = true ∧ ¬(fun p => p % 8 = 0 ∧ p < 8 * c.prog.length) ind) ∧
    (let s := wStB (wR 0x4B 0 0 0);
     let w := (wR 0x4B 0 0 0);
     let k := (s.herder 0).kctx;
     s.issues 0 w 75 0 = true ∧ (∀ (e : Entry), e ∈ (s.herder 0).board ++ (s.herder 0).park → e.kctx ≠ k) ∧
       ∀ (o : OutHandle), o ∈ (s.herder 0).out → o.kctx ≠ k) ∧
    (let s := wTl { wCtxT (wUser (wR 0x4B 0 0 0)) with herder := { user := wUser (wR 0x4B 0 0 0), out := [{}] } };
     let w := (wR 0x4B 0 0 0);
     let k := (s.herder 0).kctx;
     s.issues 0 w 75 0 = true ∧ ((∃ e, e ∈ (s.herder 0).board ++ (s.herder 0).park ∧
       e.kctx = k) ∨ ∃ o, o ∈ (s.herder 0).out ∧ o.kctx = k)) := by
  exact ⟨by decide +kernel,
    by decide +kernel,
    by decide +kernel,
    by decide +kernel,
    by decide +kernel,
    by decide +kernel,
    by decide +kernel,
    by decide +kernel⟩

theorem witness_TensorInstructionsIssue :
    (let s := wRun (wMma);
     let k := (s.herder 0).kctx;
     let c := s.act 0;
     s.issues 0 wMma 128 0 = true ∧ s.mustStall 0 k c wMma = false ∧ s.mmaChecks 0 c wMma = none ∧
       ∃ u, exec (Instr.mma 0 wMma) s = Host.Outcome.next u) ∧
    (let s := wRun (wLdw);
     let k := (s.herder 0).kctx;
     let c := s.act 0;
     s.issues 0 wLdw 129 0 = true ∧ s.mustStall 0 k c wLdw = false ∧ s.ldwChecks 0 k c wLdw = none) ∧
    (let s := wRun (wFeed);
     let k := (s.herder 0).kctx;
     let c := s.act 0;
     s.issues 0 wFeed 130 0 = true ∧ s.mustStall 0 k c wFeed = false ∧ s.feedChecks 0 k c wFeed = none ∧
       ¬(bit wFeed 42 = true ∧ (c.sget (fld wFeed 34 30)).toNat ≤ s.now)) ∧
    (let s := wRun (wCopy);
     let k := (s.herder 0).kctx;
     let c := s.act 0;
     s.issues 0 wCopy 130 1 = true ∧ s.mustStall 0 k c wCopy = false ∧ s.copyChecks 0 k c wCopy = none ∧
       ¬(bit wCopy 42 = true ∧ (c.sget (fld wCopy 34 30)).toNat ≤ s.now)) ∧
    (let s := wRun (wDesc);
     let k := (s.herder 0).kctx;
     let c := s.act 0;
     s.issues 0 wDesc 130 2 = true ∧ s.mustStall 0 k c wDesc = false ∧ s.descChecks 0 c wDesc = none ∧
       ¬(bit wDesc 42 = true ∧ (c.sget (fld wDesc 34 30)).toNat ≤ s.now)) ∧
    (let s := wRun (wDrn);
     let k := (s.herder 0).kctx;
     let c := s.act 0;
     s.issues 0 wDrn 131 0 = true ∧ s.mustStall 0 k c wDrn = false ∧ s.drnChecks 0 c wDrn = none) ∧
    (let s := wRun (wSfu);
     let k := (s.herder 0).kctx;
     let c := s.act 0;
     s.issues 0 wSfu 132 0 = true ∧ s.mustStall 0 k c wSfu = false ∧ s.sfuChecks 0 c wSfu = none) ∧
    (let s := wRun (wRed);
     let k := (s.herder 0).kctx;
     let c := s.act 0;
     s.issues 0 wRed 133 0 = true ∧ s.mustStall 0 k c wRed = false ∧ s.redChecks 0 c wRed = none) ∧
    (let s := wRun (wTopk);
     let k := (s.herder 0).kctx;
     let c := s.act 0;
     s.issues 0 wTopk 134 0 = true ∧ s.mustStall 0 k c wTopk = false ∧ s.topkChecks 0 c wTopk = none) ∧
    (let s := wRun (wSmp);
     let k := (s.herder 0).kctx;
     let c := s.act 0;
     s.issues 0 wSmp 135 0 = true ∧ s.mustStall 0 k c wSmp = false ∧ s.smpChecks 0 c wSmp = none) := by
  exact ⟨⟨by decide +kernel, by decide +kernel, by decide +kernel, ⟨_, rfl⟩⟩,
    by decide +kernel,
    by decide +kernel,
    by decide +kernel,
    by decide +kernel,
    by decide +kernel,
    by decide +kernel,
    by decide +kernel,
    by decide +kernel,
    by decide +kernel⟩

/-- The deadline is in s2, 7, and has passed at 7. -/
def wLate (w : BitVec 64) : State := wNow (wRun (w ||| wd [(30, 2), (42, 1)])) 7
def wHolds : State :=
  wTile { herder := { user := { wCtx wMma with serial := 4, ticket := 3, deps := [⟨3, 1, [2]⟩] },
                      board := [{ serial := 2, ticket := 2, cls := .rtv }] } }
def wMmaIcr : BitVec 64 := wMma ||| wd [(46, 1)]

theorem witness_TensorInstructionsIssue_late :
    (let s := wLate wFeed; let w := wFeed ||| wd [(30, 2), (42, 1)]; let k := (s.herder 0).kctx; let c := s.act 0
     s.issues 0 w 0x82 0 = true ∧ s.mustStall 0 k c w = false ∧ s.feedChecks 0 k c w = none ∧
       bit w 42 = true ∧ (c.sget (fld w 34 30)).toNat ≤ s.now ∧ s.entry 0 k c.serial = none) ∧
    (let s := wLate wCopy; let w := wCopy ||| wd [(30, 2), (42, 1)]; let k := (s.herder 0).kctx; let c := s.act 0
     s.issues 0 w 0x82 1 = true ∧ s.mustStall 0 k c w = false ∧ s.copyChecks 0 k c w = none ∧
       bit w 42 = true ∧ (c.sget (fld w 34 30)).toNat ≤ s.now ∧ s.entry 0 k c.serial = none) ∧
    (let s := wLate wDesc; let w := wDesc ||| wd [(30, 2), (42, 1)]; let k := (s.herder 0).kctx; let c := s.act 0
     s.issues 0 w 0x82 2 = true ∧ s.mustStall 0 k c w = false ∧ s.descChecks 0 c w = none ∧
       bit w 42 = true ∧ (c.sget (fld w 34 30)).toNat ≤ s.now ∧ s.entry 0 k c.serial = none) := by
  exact ⟨by decide +kernel, by decide +kernel, by decide +kernel⟩

theorem witness_TensorInstructionsIssue_held :
    (let s := wHolds; let k := (s.herder 0).kctx; let c := s.act 0
     s.issues 0 wMma 0x80 0 = true ∧ s.mustStall 0 k c wMma = false ∧ s.mmaChecks 0 c wMma = none ∧
       (s.tile 0).holds (s.mmaPass 0 k c wMma) = true) ∧
    (let s := wRun wMma; let k := (s.herder 0).kctx; let c := s.act 0
     (s.tile 0).holds (s.mmaPass 0 k c wMma) = false) ∧
    (let s := wRun wMmaIcr; let k := (s.herder 0).kctx; let c := s.act 0; let p := s.mmaPass 0 k c wMmaIcr
     s.issues 0 wMmaIcr 0x80 0 = true ∧ s.mustStall 0 k c wMmaIcr = false ∧ s.mmaChecks 0 c wMmaIcr = none ∧
       mmaIcr wMmaIcr = true ∧ mmaKeys p.gang wMmaIcr p.m (blockN p.twd) ≠ []) ∧
    (let s := wRun wDrnIcr; let k := (s.herder 0).kctx; let c := s.act 0
     s.issues 0 wDrnIcr 0x83 0 = true ∧ s.mustStall 0 k c wDrnIcr = false ∧ s.drnChecks 0 c wDrnIcr = none ∧
       bit wDrnIcr 29 = true) := by
  exact ⟨by decide +kernel, by decide +kernel, by decide +kernel, by decide +kernel⟩

theorem witness_SynchronisationInstructions :
    (let s := wRun (wd [(0,0x90),(12,0),(17,2),(20,1),(25,1)]);
     let w := (wd [(0,0x90),(12,0),(17,2),(20,1),(25,1)]);
     let c := s.act 0;
     let h := s.herder 0;
     let d := fld w 16 12;
     s.issues 0 w 144 0 = true ∧ s.badTarget (s.tilePart 0) (c.sget d) = false ∧ h.out.length < 16) ∧
    (let s := wRun (wd [(0,0x90),(12,3),(17,2),(20,1)]);
     let w := (wd [(0,0x90),(12,3),(17,2),(20,1)]);
     let c := s.act 0;
     let d := fld w 16 12;
     s.issues 0 w 144 0 = true ∧ s.badTarget (s.tilePart 0) (c.sget d) = true) ∧
    (let s := wHq (wd [(0,0x91),(12,5),(17,2)]);
     let w := (wd [(0,0x91),(12,5),(17,2)]);
     let h := s.herder 0;
     let q := fld w 19 17;
     s.issues 0 w 145 0 = true ∧ ∃ x xs, SMap.get [] h.hq q = x :: xs) ∧
    (let s := wHq (wd [(0,0x91),(12,5),(17,3)]);
     let w := (wd [(0,0x91),(12,5),(17,3)]);
     let h := s.herder 0;
     let q := fld w 19 17;
     s.issues 0 w 145 0 = true ∧ SMap.get [] h.hq q = []) ∧
    (let s := wHq (wd [(0,0x91),(12,5),(17,2),(20,2),(23,1)]);
     let w := (wd [(0,0x91),(12,5),(17,2),(20,2),(23,1)]);
     let h := s.herder 0;
     let q := fld w 19 17;
     s.issues 0 w 145 1 = true ∧ ∃ x xs, SMap.get [] h.hq q = x :: xs) ∧
    (let s := wHq (wd [(0,0x91),(12,5),(17,3),(20,2),(23,1)]);
     let w := (wd [(0,0x91),(12,5),(17,3),(20,2),(23,1)]);
     let h := s.herder 0;
     let q := fld w 19 17;
     s.issues 0 w 145 1 = true ∧ SMap.get [] h.hq q = []) ∧
    (let s := wBusy (wd [(0,0x92),(12,0),(17,6)]);
     let w := (wd [(0,0x92),(12,0),(17,6)]);
     let k := (s.herder 0).kctx;
     let c := s.act 0;
     let h := s.herder 0;
     let d := fld w 16 12;
     let v := BitVec.toNat (c.sget d);
     s.issues 0 w 146 0 = true ∧ v ≤ 4294967232 ∧ (v ≤ c.ticket ∨ c.wrapped = true) ∧
       ∀ (e : Entry), e ∈ h.board ++ h.park ∧ e.kctx = k ∧ e.serial < c.serial → e.ticket ≠ v) ∧
    (let s := wBusy (wd [(0,0x92),(12,7),(17,6)]);
     let w := (wd [(0,0x92),(12,7),(17,6)]);
     let k := (s.herder 0).kctx;
     let c := s.act 0;
     let h := s.herder 0;
     let d := fld w 16 12;
     let v := BitVec.toNat (c.sget d);
     s.issues 0 w 146 0 = true ∧ v ≤ 4294967232 ∧ (v ≤ c.ticket ∨ c.wrapped = true) ∧ ∃ e, (e ∈ h.board ++ h.park ∧
       e.kctx = k ∧ e.serial < c.serial) ∧ e.ticket = v) ∧
    (let s := wBusy (wd [(0,0x92),(12,3),(17,6)]);
     let w := (wd [(0,0x92),(12,3),(17,6)]);
     let c := s.act 0;
     let d := fld w 16 12;
     let v := BitVec.toNat (c.sget d);
     s.issues 0 w 146 0 = true ∧ (4294967232 < v ∨ c.ticket < v ∧ c.wrapped = false)) ∧
    (let s := wRun (wd [(0,0x92),(22,1)]);
     let w := (wd [(0,0x92),(22,1)]);
     let k := (s.herder 0).kctx;
     let c := s.act 0;
     let h := s.herder 0;
     s.issues 0 w 146 1 = true ∧ ∀ (e : Entry), ¬(e ∈ h.board ++ h.park ∧ e.kctx = k ∧ e.serial < c.serial)) ∧
    (let s := wBusy (wd [(0,0x92),(22,1)]);
     let w := (wd [(0,0x92),(22,1)]);
     let k := (s.herder 0).kctx;
     let c := s.act 0;
     let h := s.herder 0;
     s.issues 0 w 146 1 = true ∧ ∃ e, (fun e => e ∈ h.board ++ h.park ∧ e.kctx = k ∧ e.serial < c.serial) e) ∧
    (let s := wBusy (wd [(0,0x92),(22,2),(24,2)]);
     let w := (wd [(0,0x92),(22,2),(24,2)]);
     let k := (s.herder 0).kctx;
     let c := s.act 0;
     let h := s.herder 0;
     s.issues 0 w 146 2 = true ∧ ∀ (e : Entry), e ∈ h.board ++ h.park ∧ e.kctx = k ∧
       e.serial < c.serial → (fld w 28 24).testBit e.cls.bit = false) ∧
    (let s := wBusy (wd [(0,0x92),(22,2),(24,1)]);
     let w := (wd [(0,0x92),(22,2),(24,1)]);
     let k := (s.herder 0).kctx;
     let c := s.act 0;
     let h := s.herder 0;
     s.issues 0 w 146 2 = true ∧ ∃ e, (e ∈ h.board ++ h.park ∧ e.kctx = k ∧ e.serial < c.serial) ∧
       (fld w 28 24).testBit e.cls.bit = true) ∧
    (let s := wBusy (wd [(0,0x93),(12,1)]);
     let w := (wd [(0,0x93),(12,1)]);
     let k := (s.herder 0).kctx;
     let c := s.act 0;
     let h := s.herder 0;
     s.issues 0 w 147 0 = true ∧ (fld w 14 12 = 1 ∨ ((∀ (e : Entry), ¬(e ∈ h.board ++ h.park ∧ e.kctx = k ∧
       e.serial < c.serial)) ∧ fld w 14 12 < 4))) ∧
    (let s := wBusy (wd [(0,0x93),(12,2)]);
     let w := (wd [(0,0x93),(12,2)]);
     let k := (s.herder 0).kctx;
     let c := s.act 0;
     let h := s.herder 0;
     s.issues 0 w 147 0 = true ∧ fld w 14 12 ≠ 1 ∧ ∃ e, (fun e => e ∈ h.board ++ h.park ∧ e.kctx = k ∧
       e.serial < c.serial) e) ∧
    (let s := wBusy (wd [(0,0x94),(12,2),(17,1)]);
     let w := (wd [(0,0x94),(12,2),(17,1)]);
     let k := (s.herder 0).kctx;
     let c := s.act 0;
     let h := s.herder 0;
     s.issues 0 w 148 0 = true ∧ ∀ (e : Entry), e ∈ h.board ++ h.park ∧ e.kctx = k ∧
       e.serial < c.serial → (fld w 16 12).testBit e.cls.bit = false) ∧
    (let s := wRun (wd [(0,0x95),(12,0),(17,2)]);
     let w := (wd [(0,0x95),(12,0),(17,2)]);
     let c := s.act 0;
     let d := fld w 16 12;
     let v := BitVec.toNat (c.sget d);
     s.issues 0 w 149 0 = true ∧ v ≤ s.now) ∧
    (let s := wRun (wd [(0,0x95),(12,1),(17,2)]);
     let w := (wd [(0,0x95),(12,1),(17,2)]);
     let c := s.act 0;
     let d := fld w 16 12;
     let v := BitVec.toNat (c.sget d);
     s.issues 0 w 149 0 = true ∧ s.now < v) := by
  exact ⟨by decide +kernel,
    by decide +kernel,
    ⟨by decide +kernel, ⟨_, _, rfl⟩⟩,
    by decide +kernel,
    ⟨by decide +kernel, ⟨_, _, rfl⟩⟩,
    by decide +kernel,
    by simp only [and_imp, not_and, and_assoc]; decide +kernel,
    by simp only [and_imp, not_and, and_assoc]; decide +kernel,
    by decide +kernel,
    by simp only [and_imp, not_and, and_assoc]; decide +kernel,
    by decide +kernel,
    by simp only [and_imp, not_and, and_assoc]; decide +kernel,
    by simp only [and_imp, not_and, and_assoc]; decide +kernel,
    by simp only [and_imp, not_and, and_assoc]; decide +kernel,
    by decide +kernel,
    by simp only [and_imp, not_and, and_assoc]; decide +kernel,
    by decide +kernel,
    by decide +kernel⟩

/-- A remote write of the first entry of tile 0's user context is unacknowledged. -/
def wOwed (w : BitVec 64) : State :=
  let s := wTile { herder := { user := { wCtx w with serial := 4, ticket := 3 } } }
  { s with link := { s.link with outst := [⟨0, 4, .chainBeat 0 false 2, 1⟩] } }
def wDeps (n : Nat) : State :=
  let w := wd [(0, 0x94), (12, 1), (17, 1)]
  wTile { herder := { user := { wCtx w with serial := 4, ticket := 3, deps := List.replicate n ⟨2, 1, [1]⟩ },
                      board := [{ serial := 3, ticket := 3, cls := .pack }] } }

theorem witness_SynchronisationInstructions_more :
    (let w := wd [(0, 0x90), (12, 0), (17, 2), (20, 1)]
     let s := wTile { herder := { user := wCtx w, out := List.replicate 16 {} } }
     s.issues 0 w 0x90 0 = true ∧ s.badTarget (s.tilePart 0) ((s.act 0).sget (fld w 16 12)) = false ∧
       16 ≤ (s.herder 0).out.length) ∧
    (let w := wd [(0, 0x93), (12, 4)]; let s := wOwed w
     s.issues 0 w 0x93 0 = true ∧ 4 ≤ fld w 14 12 ∧
       ∃ o ∈ s.link.outst, o.what.writer = some (0, (s.herder 0).kctx, 2) ∧ 2 < (s.act 0).serial) ∧
    (let w := wd [(0, 0x94), (12, 1), (17, 1)]; let s := wDeps 3
     s.issues 0 w 0x94 0 = true ∧ (s.act 0).deps.length < 4 ∧
       ∃ e ∈ (s.herder 0).board ++ (s.herder 0).park, e.kctx = (s.herder 0).kctx ∧ e.serial < (s.act 0).serial ∧
         (fld w 16 12).testBit e.cls.bit = true) ∧
    (let w := wd [(0, 0x94), (12, 1), (17, 1)]; let s := wDeps 4
     s.issues 0 w 0x94 0 = true ∧ 4 ≤ (s.act 0).deps.length ∧
       ∃ e ∈ (s.herder 0).board ++ (s.herder 0).park, e.kctx = (s.herder 0).kctx ∧ e.serial < (s.act 0).serial ∧
         (fld w 16 12).testBit e.cls.bit = true) := by
  exact ⟨by decide +kernel, by decide +kernel, by decide +kernel, by decide +kernel⟩

theorem witness_SystemInstructions :
    (let s := wKern (wR 0xC0 5 3 0) [];
     let w := (wR 0xC0 5 3 0);
     s.issues 0 w 192 0 = true) ∧
    (let s := wKern (wR 0xC1 5 3 0) [];
     let w := (wR 0xC1 5 3 0);
     s.issues 0 w 193 0 = true) ∧
    (let s := wKern (wR 0xC2 0 0 0) [];
     let w := (wR 0xC2 0 0 0);
     let k := (s.herder 0).kctx;
     s.issues 0 w 194 0 = true ∧ k = true ∧ (s.herder 0).preempted = true) ∧
    (let s := wKern (wR 0xC3 0 0 0) [];
     let w := (wR 0xC3 0 0 0);
     s.issues 0 w 195 0 = true ∧ (s.herder 0).preempted = true) ∧
    (let s := wKern (wR 0xC4 0 0 0) [];
     let w := (wR 0xC4 0 0 0);
     s.issues 0 w 196 0 = true ∧ (s.herder 0).preempted = true) ∧
    (let s := wTile { herder := { kern := { wCtx (wR 0xC2 0 0 0) with level := .k }, kctx := true } };
     let w := (wR 0xC2 0 0 0);
     s.issues 0 w 194 0 = true ∧ (s.herder 0).preempted = false) ∧
    (let s := wTile { herder := { kern := { wCtx (wR 0xC3 0 0 0) with level := .k }, kctx := true } };
     let w := (wR 0xC3 0 0 0);
     s.issues 0 w 195 0 = true ∧ (s.herder 0).preempted = false) ∧
    (let s := wTile { herder := { kern := { wCtx (wR 0xC4 0 0 0) with level := .k }, kctx := true } };
     let w := (wR 0xC4 0 0 0);
     s.issues 0 w 196 0 = true ∧ (s.herder 0).preempted = false) := by
  exact ⟨by decide +kernel,
    by decide +kernel,
    by decide +kernel,
    by decide +kernel,
    by decide +kernel,
    by decide +kernel,
    by decide +kernel,
    by decide +kernel⟩

theorem witness_FalsePredicateSkips_1 :
    (let s := wRun (wR 0x801 5 1 2);
     let w := (wR 0x801 5 1 2);
     ∃ r, r ∈ herderRows 0 w ∧ s.skips 0 w r.snd.fst r.snd.snd = true) ∧
    (let w := wd [(0, 0xFE), (11, 1)]; let s := wRun w
     s.atWord 0 w = true ∧ s.injLockstep 0 = false ∧ (s.act 0).pget (fld w 10 8) = bit w 11 ∧
       opFields (fld w 7 0) = none) ∧
    (let w := wd [(0, 0x82), (11, 1), (35, 3)]; let s := wRun w
     s.atWord 0 w = true ∧ s.injLockstep 0 = false ∧ (s.act 0).pget (fld w 10 8) = bit w 11 ∧ noForm w = true ∧
       ∃ r, r ∈ herderRows 0 w ∧ fld w 7 0 = r.snd.fst) := by
  exact ⟨by decide +kernel, by decide +kernel, by decide +kernel⟩

theorem witness_IssueExceptions :
    (let s := wRun 0x801000001;
     ∃ r, r ∈ herderRows 0 34376515585 ∧ s.atWord 0 34376515585 = true ∧
       (s.act 0).pget (fld (34376515585 : BitVec 64) 10 8) ≠ bit (34376515585 : BitVec 64) 11 ∧
       fld (34376515585 : BitVec 64) 7 0 = r.snd.fst ∧ illegalWord 34376515585 = true) ∧
    (let s := wRun 0xC2;
     ∃ r, r ∈ herderRows 0 194 ∧ s.atWord 0 194 = true ∧
       (s.act 0).pget (fld (194 : BitVec 64) 10 8) ≠ bit (194 : BitVec 64) 11 ∧
       fld (194 : BitVec 64) 7 0 = r.snd.fst ∧ opForm 194 = r.snd.snd ∧ illegalWord 194 = false ∧
       192 ≤ fld (194 : BitVec 64) 7 0 ∧ (s.act 0).level = Level.u) ∧
    (let s := wTile { herder := { user := { wCtx 0x4C with pc := 32 } } };
     ∃ r, r ∈ herderRows 0 76 ∧ s.tileRuns 0 = true ∧ (s.act 0).st = CtxSt.run ∧ (s.act 0).wait = Wait.none ∧
       ((s.herder 0).kctx = true ∨ (s.herder 0).preempted = false) ∧ (s.act 0).prog[(s.act 0).pc / 8]? = none) ∧
    (let w := wd [(0, 0xFE)]; let s := wRun w
     s.atWord 0 w = true ∧ (s.act 0).pget (fld w 10 8) ≠ bit w 11 ∧ opFields (fld w 7 0) = none ∧ illegalWord w = true) ∧
    (let s := wTile { herder := { user := { wCtx 0x4C with prog := List.replicate 4096 0x4C, pc := 32768 } } };
     s.tileRuns 0 = true ∧ (s.act 0).st = CtxSt.run ∧ (s.act 0).wait = Wait.none ∧
       (s.herder 0).preempted = false ∧ (s.act 0).prog[(s.act 0).pc / 8]? = none) := by
  exact ⟨by decide +kernel,
    by decide +kernel,
    by decide +kernel,
    by decide +kernel,
    by decide +kernel⟩

theorem witness_ExceptionEntry :
    (let s := wRun 0;
     (s.act 0).st = CtxSt.run ∧ s.clash 0 (s.herder 0).kctx = false ∧ 0 < 1152) ∧
    (let s := wRun 0;
     (s.act 0).st = CtxSt.run ∧ s.clash 0 (s.herder 0).kctx = false ∧ 1 ≠ 0) ∧
    (let s := wRun 0;
     (s.act 0).st = CtxSt.run ∧ s.clash 0 (s.herder 0).kctx = false ∧
     let a := tilePage 0 oNumFlags;
     a ≠ tilePage 0 oHrdExc ∧ a ≠ tilePage 0 oHrdExcPc ∧ a ≠ tilePage 0 oHrdExcInfo) := by
  exact ⟨by decide +kernel,
    by decide +kernel,
    by decide +kernel⟩

theorem witness_OperandExceptions :
    (let s := wRun (wd [(0,0x22),(12,3),(17,1),(32,0x41)]);
     let w := (wd [(0,0x22),(12,3),(17,1),(32,0x41)]);
     let c := s.act 0;
     let e := (c.aget (fld w 20 17) + BitVec.signExtend 48 (BitVec.extractLsb' 32 32 w)).toNat;
     s.issues 0 w 34 0 = true ∧ e % 32 ≠ 0) ∧
    (let s := wRun (wd [(0,0x23),(12,3),(17,1),(32,0x41)]);
     let w := (wd [(0,0x23),(12,3),(17,1),(32,0x41)]);
     let c := s.act 0;
     let e := (c.aget (fld w 20 17) + BitVec.signExtend 48 (BitVec.extractLsb' 32 32 w)).toNat;
     s.issues 0 w 35 0 = true ∧ e % 32 ≠ 0) ∧
    (let s := wRun (wd [(0,0x22),(12,3),(17,4),(32,0)]);
     let w := (wd [(0,0x22),(12,3),(17,4),(32,0)]);
     let c := s.act 0;
     let e := (c.aget (fld w 20 17) + BitVec.signExtend 48 (BitVec.extractLsb' 32 32 w)).toNat;
     s.issues 0 w 34 0 = true ∧ e % 32 = 0 ∧ inWindow 0 e 32 = false) ∧
    (let s := wRun (wd [(0,0x23),(12,3),(17,4),(32,0)]);
     let w := (wd [(0,0x23),(12,3),(17,4),(32,0)]);
     let c := s.act 0;
     let e := (c.aget (fld w 20 17) + BitVec.signExtend 48 (BitVec.extractLsb' 32 32 w)).toNat;
     s.issues 0 w 35 0 = true ∧ e % 32 = 0 ∧ inWindow 0 e 32 = false) ∧
    (let s := wRun (wd [(0,64),(12,1),(17,1),(21,1),(32,1)]);
     let w := (wd [(0,64),(12,1),(17,1),(21,1),(32,1)]);
     let c := s.act 0;
     let n := 2 ^ fld w 22 21;
     let e := (c.aget (fld w 20 17) + BitVec.signExtend 48 (BitVec.extractLsb' 32 32 w)).toNat;
     let x := aliasOf 0 e;
     s.issues 0 w 64 0 = true ∧ s.regDenied 0 c.level x false = false ∧ e % n ≠ 0) ∧
    (let s := wRun (wd [(0,64),(12,1),(17,5),(21,3)]);
     let w := (wd [(0,64),(12,1),(17,5),(21,3)]);
     let c := s.act 0;
     let n := 2 ^ fld w 22 21;
     let e := (c.aget (fld w 20 17) + BitVec.signExtend 48 (BitVec.extractLsb' 32 32 w)).toNat;
     let x := aliasOf 0 e;
     s.issues 0 w 64 0 = true ∧ e % n = 0 ∧ regionOf x = Region.none) ∧
    (let s := wRun (wd [(0,65),(12,1),(17,1),(21,1),(32,1)]);
     let w := (wd [(0,65),(12,1),(17,1),(21,1),(32,1)]);
     let c := s.act 0;
     let n := 2 ^ fld w 22 21;
     let e := (c.aget (fld w 20 17) + BitVec.signExtend 48 (BitVec.extractLsb' 32 32 w)).toNat;
     let x := aliasOf 0 e;
     s.issues 0 w 65 0 = true ∧ s.regDenied 0 c.level x false = false ∧ e % n ≠ 0) ∧
    (let s := wRun (wd [(0,65),(12,1),(17,5),(21,3)]);
     let w := (wd [(0,65),(12,1),(17,5),(21,3)]);
     let c := s.act 0;
     let n := 2 ^ fld w 22 21;
     let e := (c.aget (fld w 20 17) + BitVec.signExtend 48 (BitVec.extractLsb' 32 32 w)).toNat;
     let x := aliasOf 0 e;
     s.issues 0 w 65 0 = true ∧ e % n = 0 ∧ regionOf x = Region.none) ∧
    (let s := wRun (wd [(0,66),(12,1),(17,1),(21,1),(32,1)]);
     let w := (wd [(0,66),(12,1),(17,1),(21,1),(32,1)]);
     let c := s.act 0;
     let n := 2 ^ fld w 22 21;
     let e := (c.aget (fld w 20 17) + BitVec.signExtend 48 (BitVec.extractLsb' 32 32 w)).toNat;
     let x := aliasOf 0 e;
     s.issues 0 w 66 0 = true ∧ s.regDenied 0 c.level x true = false ∧ e % n ≠ 0) ∧
    (let s := wRun (wd [(0,66),(12,1),(17,5),(21,3)]);
     let w := (wd [(0,66),(12,1),(17,5),(21,3)]);
     let c := s.act 0;
     let n := 2 ^ fld w 22 21;
     let e := (c.aget (fld w 20 17) + BitVec.signExtend 48 (BitVec.extractLsb' 32 32 w)).toNat;
     let x := aliasOf 0 e;
     s.issues 0 w 66 0 = true ∧ e % n = 0 ∧ regionOf x = Region.none) ∧
    (let s := wRun (wI 0x33 5 4 0xC0);
     let w := (wI 0x33 5 4 0xC0);
     s.issues 0 w 51 0 = true ∧
       (Option.all Fmt.isQuire (Fmt.ofCode (fld w 35 32)) = true ∨ Option.all Fmt.isQuire (Fmt.ofCode (fld w 39 36))
         = true)) ∧
    (let w := wI 0x33 5 4 0x49; let s := wRun w
     s.issues 0 w 51 0 = true ∧ ∃ a, a ∈ Fmt.ofCode (fld w 35 32) ∧ ∃ b, b ∈ Fmt.ofCode (fld w 39 36) ∧
       a.isIeee = true ∧ b.isPosit = false ∧ a ≠ b) ∧
    (let s := wRun (wd [(0,64),(12,1),(17,6),(21,3),(32,1)]);
     let w := (wd [(0,64),(12,1),(17,6),(21,3),(32,1)]);
     let c := s.act 0;
     let e := (c.aget (fld w 20 17) + BitVec.signExtend 48 (BitVec.extractLsb' 32 32 w)).toNat;
     let x := aliasOf 0 e;
     s.issues 0 w 64 0 = true ∧ s.regDenied 0 c.level x false = true) ∧
    (let s := wRun (wd [(0,65),(12,1),(17,6),(21,3),(32,1)]);
     let w := (wd [(0,65),(12,1),(17,6),(21,3),(32,1)]);
     let c := s.act 0;
     let e := (c.aget (fld w 20 17) + BitVec.signExtend 48 (BitVec.extractLsb' 32 32 w)).toNat;
     let x := aliasOf 0 e;
     s.issues 0 w 65 0 = true ∧ s.regDenied 0 c.level x false = true) ∧
    (let s := wRun (wd [(0,66),(12,1),(17,6),(21,3),(32,1)]);
     let w := (wd [(0,66),(12,1),(17,6),(21,3),(32,1)]);
     let c := s.act 0;
     let e := (c.aget (fld w 20 17) + BitVec.signExtend 48 (BitVec.extractLsb' 32 32 w)).toNat;
     let x := aliasOf 0 e;
     s.issues 0 w 66 0 = true ∧ s.regDenied 0 c.level x true = true) ∧
    (let s := wRun (wMma + wd [(36,1)]);
     let w := (wMma + wd [(36,1)]);
     let k := (s.herder 0).kctx;
     let c := s.act 0;
     s.issues 0 w 128 0 = true ∧ s.mustStall 0 k c w = false ∧ Option.isSome (s.mmaChecks 0 c w) = true) ∧
    (let s := wRun (wLdw ^^^ wd [(17,2)]);
     let w := (wLdw ^^^ wd [(17,2)]);
     let k := (s.herder 0).kctx;
     let c := s.act 0;
     s.issues 0 w 129 0 = true ∧ s.mustStall 0 k c w = false ∧ Option.isSome (s.ldwChecks 0 k c w) = true) ∧
    (let s := wRun (wd [(0, 0x82), (12, 5), (17, 9)]);
     let w := (wd [(0, 0x82), (12, 5), (17, 9)]);
     let k := (s.herder 0).kctx;
     let c := s.act 0;
     s.issues 0 w 130 0 = true ∧ s.mustStall 0 k c w = false ∧ Option.isSome (s.feedChecks 0 k c w) = true) ∧
    (let s := wRun (wd [(0, 0x82), (12, 5), (17, 3), (21, 9), (35, 1)]);
     let w := (wd [(0, 0x82), (12, 5), (17, 3), (21, 9), (35, 1)]);
     let k := (s.herder 0).kctx;
     let c := s.act 0;
     s.issues 0 w 130 1 = true ∧ s.mustStall 0 k c w = false ∧ Option.isSome (s.copyChecks 0 k c w) = true) ∧
    (let s := wRun (wd [(0, 0x82), (12, 5), (17, 3), (35, 2)]);
     let w := (wd [(0, 0x82), (12, 5), (17, 3), (35, 2)]);
     let k := (s.herder 0).kctx;
     let c := s.act 0;
     s.issues 0 w 130 2 = true ∧ s.mustStall 0 k c w = false ∧ Option.isSome (s.descChecks 0 c w) = true) ∧
    (let s := wRun (wd [(0, 0x83), (12, 5), (17, 3), (21, 4), (25, 1)]);
     let w := (wd [(0, 0x83), (12, 5), (17, 3), (21, 4), (25, 1)]);
     let k := (s.herder 0).kctx;
     let c := s.act 0;
     s.issues 0 w 131 0 = true ∧ s.mustStall 0 k c w = false ∧ Option.isSome (s.drnChecks 0 c w) = true) ∧
    (let s := wRun (wd [(0, 0x84), (12, 5), (17, 3), (21, 9), (33, 1)]);
     let w := (wd [(0, 0x84), (12, 5), (17, 3), (21, 9), (33, 1)]);
     let k := (s.herder 0).kctx;
     let c := s.act 0;
     s.issues 0 w 132 0 = true ∧ s.mustStall 0 k c w = false ∧ Option.isSome (s.sfuChecks 0 c w) = true) ∧
    (let s := wRun (wd [(0, 0x85), (12, 5), (17, 6), (21, 2), (25, 1)]);
     let w := (wd [(0, 0x85), (12, 5), (17, 6), (21, 2), (25, 1)]);
     let k := (s.herder 0).kctx;
     let c := s.act 0;
     s.issues 0 w 133 0 = true ∧ s.mustStall 0 k c w = false ∧ Option.isSome (s.redChecks 0 c w) = true) ∧
    (let s := wRun (wd [(0, 0x86), (12, 5), (17, 3), (21, 10), (33, 1)]);
     let w := (wd [(0, 0x86), (12, 5), (17, 3), (21, 10), (33, 1)]);
     let k := (s.herder 0).kctx;
     let c := s.act 0;
     s.issues 0 w 134 0 = true ∧ s.mustStall 0 k c w = false ∧ Option.isSome (s.topkChecks 0 c w) = true) ∧
    (let s := wRun (wd [(0, 0x87), (12, 5), (17, 3), (21, 10), (29, 1), (33, 1)]);
     let w := (wd [(0, 0x87), (12, 5), (17, 3), (21, 10), (29, 1), (33, 1)]);
     let k := (s.herder 0).kctx;
     let c := s.act 0;
     s.issues 0 w 135 0 = true ∧ s.mustStall 0 k c w = false ∧ Option.isSome (s.smpChecks 0 c w) = true) := by
  exact ⟨by decide +kernel,
    by decide +kernel,
    by decide +kernel,
    by decide +kernel,
    by decide +kernel,
    by decide +kernel,
    by decide +kernel,
    by decide +kernel,
    by decide +kernel,
    by decide +kernel,
    by decide +kernel,
    by decide +kernel,
    by decide +kernel,
    by decide +kernel,
    by decide +kernel,
    by decide +kernel,
    by decide +kernel,
    by decide +kernel,
    by decide +kernel,
    by decide +kernel,
    by decide +kernel,
    by decide +kernel,
    by decide +kernel,
    by decide +kernel,
    by decide +kernel⟩

theorem witness_PassesLoadAndStream :
    (let s := wArr { queue := [wPass 0] } 0;
     let p := wPass 0;
     s.enginesRun 0 = true ∧
     let r := s.arr 0 0;
     let f := p.twd.fmt.getD Fmt.P8;
     let n := blockN p.twd;
     let kk := blockK p.twd;
     let addr := fun j => ((p.twd.base : Int) + (j : Int) * p.twd.str.getD 0 0).toNat;
     s.frozen 0 0 = false ∧ r.loading = none ∧ r.reruns = [] ∧ List.find? (fun q => !r.reuses q) r.queue = some p ∧
       ∀ (j : Nat), j < n → s.clean (addr j) (rowBytes f kk) = true ∧
       (match regionOf (addr j) with | .sram _ _ => true | _ => false) = true) ∧
    (let s := wArr { reruns := [wPass 1] } 0;
     let p := wPass 1;
     s.enginesRun 0 = true ∧
     let r := s.arr 0 0;
     let f := p.twd.fmt.getD Fmt.P8;
     let n := blockN p.twd;
     let kk := blockK p.twd;
     let addr := fun j => ((p.twd.base : Int) + (j : Int) * p.twd.str.getD 0 0).toNat;
     s.frozen 0 0 = false ∧ r.loading = none ∧ r.reruns.head? = some p ∧
       ∀ (j : Nat), j < n → s.clean (addr j) (rowBytes f kk) = true ∧
       (match regionOf (addr j) with | .sram _ _ => true | _ => false) = true) ∧
    (let s := wArr { loading := some (wLoaded (wPass 0)) } 1;
     let p := wLoaded (wPass 0);
     s.enginesRun 0 = true ∧
     let r := s.arr 0 0;
     let n := blockN p.twd;
     s.frozen 0 0 = false ∧ r.streaming = none ∧ r.nextStart = some (p, true) ∧ s.vectorReady 0 0 p = true ∧ (s.tile 0).pack.sclPend = [] ∧
       (p.channel = true → p.rerun = false → ∀ (j : Nat), j < n → s.cwBad (sclReg 0 p 0 j) = false)) ∧
    (let s := wArr { queue := [wReuse 0], front := some wBlock } 1;
     let p := wReuse 0;
     s.enginesRun 0 = true ∧
     let r := s.arr 0 0;
     let n := blockN p.twd;
     s.frozen 0 0 = false ∧ r.streaming = none ∧ r.nextStart = some (p, false) ∧ s.vectorReady 0 0 p = true ∧ (s.tile 0).pack.sclPend = [] ∧
       (p.channel = true → p.rerun = false → ∀ (j : Nat), j < n → s.cwBad (sclReg 0 p 0 j) = false)) ∧
    (let s := wArr
        { queue := [{wPass 0 with serial := 3, tq := wTd (tileBase 0 + quireOff+4096) 8 0 1 0 0 0 0},wFill], front := some wBlock }
        1;
     s.enginesRun 0 = true ∧
     let r := s.arr 0 0;
     let n := blockN wFill.twd;
     s.frozen 0 0 = false ∧ r.streaming = none ∧ (∀ z ∈ r.nextStart, s.vectorReady 0 0 z.1 = false) ∧ r.reruns = [] ∧
       (∀ l ∈ r.loading, l.rerun = false) ∧
       bit (s.reg (tilePage 0 oPackCfg)) 2 = true ∧ List.find? (s.fillOk 0 0) r.queue = some wFill ∧
       (s.tile 0).pack.sclPend = [] ∧
       (wFill.channel = true → wFill.rerun = false → ∀ (j : Nat), j < n → s.cwBad (sclReg 0 wFill 0 j) = false)) ∧
    (let s := wArr { streaming := some {wLoaded (wPass 1) with entered := 1, flight := [⟨0, [[1,2,3,4]]⟩] } } 1;
     let p := {wLoaded (wPass 1) with entered := 1, flight := [⟨0, [[1,2,3,4]]⟩] };
     s.enginesRun 0 = true ∧
     let r := s.arr 0 0;
     s.frozen 0 0 = false ∧ r.streaming = some p ∧ s.vectorReady 0 0 p = true) ∧
    (let s := wArr { streaming := some (wLoaded (wPass 1)) } 0;
     let p := wLoaded (wPass 1);
     s.enginesRun 0 = true ∧
     let r := s.arr 0 0;
     r.streaming = some p ∧ s.vectorReady 0 0 p = false ∧ p.gang = 0) := by
  exact ⟨by decide +kernel,
    by decide +kernel,
    by decide +kernel,
    by decide +kernel,
    by decide +kernel,
    by decide +kernel,
    by decide +kernel⟩

/-- A scaled pass whose companion is dry, and a SET pass whose in-cell registers a `drn` has not yet read. -/
def wDry : State :=
  let p := { wLoaded (wPass 0) with word := wMma ||| wd [(44, 1)], scaleSrc := true, layout := true }
  wArr { flying := [{ p with entered := 1, flight := [⟨0, [[1,2,3,4]]⟩] }] } 0
def wFull : State :=
  let p := { wLoaded (wPass 0) with word := wMma ||| wd [(45, 1), (46, 1)], serial := 5 }
  let s := wArr { flying := [{ p with entered := 1, flight := [⟨0, [[1,2,3,4]]⟩] }] } 0
  (s.modPack 0 (fun x => { x with icr := [(0, 1)] })).modHerder 0 (fun h => { h with board := h.board ++
    [{ cls := .drn, serial := 4, ticket := 2, word := wDrnIcr, t1 := wTd (tileBase 0 + quireOff) 8 0 0 0 0 0 0,
       t2 := wTd (tileBase 0 + actOff + 0x100) 0 0 1 0 0 0 0 }] })

theorem witness_PassesDrainAndReport :
    (let s := wArr { flying := [{wLoaded (wPass 0) with entered := 1, flight := [⟨0, [[1,2,3,4]]⟩]}] } 0
     s.enginesRun 0 = true ∧ ∃ p, p ∈ (s.arr 0 0).draining ∧ ∃ fl ∈ p.flight, ∃ b, b ∈ p.block ∧
       p.flight = [fl] ∧ s.dryFeeders 0 0 = [] ∧ s.dryScales 0 0 p b.n = [] ∧ s.icrBusy 0 0 fl.m p b.n = [] ∧
       (s.arr 0 0).drainFull p [] = false ∧ s.eccW = [] ∧ s.eccB = [] ∧ s.sec.inj.armed = false) ∧
    (let s := wDry; s.enginesRun 0 = true ∧ ∃ p, p ∈ (s.arr 0 0).draining ∧ ∃ fl ∈ p.flight, ∃ b, b ∈ p.block ∧
       p.flight = [fl] ∧ s.dryScales 0 0 p b.n ≠ []) ∧
    (let s := wFull; s.enginesRun 0 = true ∧ ∃ p, p ∈ (s.arr 0 0).draining ∧ ∃ fl ∈ p.flight, ∃ b, b ∈ p.block ∧
       p.flight = [fl] ∧ s.icrBusy 0 0 fl.m p b.n ≠ []) ∧
    (let p := {wLoaded (wPass 0) with entered := 1, drained := 1, flags := { nx := true }}
     let s := (wArr { flying := [p] } 0).modCtx 0 false (fun c => { c with ticket := 1 })
     s.enginesRun 0 = true ∧ s.frozen 0 0 = false ∧ (s.arr 0 0).flying = [p] ∧ p.flight = [] ∧ p.failed = [] ∧
       p.fault = none ∧ ∃ e, e ∈ s.entry 0 p.kctx p.serial ∧ (s.ctx 0 p.kctx).age e.ticket ≤ 63) ∧
    (let p := {wLoaded (wPass 1) with entered := 2, drained := 2, failed := [4], rerun := true, only := [4]}
     let s := wArr { flying := [p] } 0
     s.enginesRun 0 = true ∧ s.frozen 0 0 = false ∧ (s.arr 0 0).flying = [p] ∧ p.flight = [] ∧ p.failed ≠ [] ∧
       p.rerun = true ∧ s.tilePart 0 = some 0 ∧ (s.part 0).st = .normal ∧ s.sec.crimson = false) ∧
    (let p := {wLoaded (wPass 1) with entered := 2, drained := 2, failed := [4],
                                      replay := [⟨0,0,[1,2,3,4],[]⟩,⟨1,0,[1,2,3,4],[]⟩]}
     let s := wArr { flying := [p] } 0
     s.enginesRun 0 = true ∧ s.frozen 0 0 = false ∧ (s.arr 0 0).flying = [p] ∧ p.flight = [] ∧ p.failed ≠ [] ∧
       p.rerun = false ∧ (s.ctx 0 p.kctx).st ≠ CtxSt.draining) := by
  exact ⟨by decide +kernel,
    by decide +kernel,
    by decide +kernel,
    by decide +kernel,
    by decide +kernel,
    by decide +kernel⟩

theorem witness_DrainAddsToTargets_1 :
    (Fmt.QP8.isQuire = true ∧
     let n := Fmt.QP8.quireOf;
     quireInt n 5 = some 5) := by decide +kernel

theorem witness_DrainAddsToTargets_2 :
    (let old := (2^127);
     Fmt.QP8.isQuire = true ∧ quireInt Fmt.QP8.quireOf old = none) := by decide +kernel

theorem witness_DrainAddsToTargets_3 :
    (Fmt.QP8.isQuire = true) := by decide +kernel

theorem witness_PackConfiguration :
    (let s := wTile { pack := { gangPend := some 2 } };
     ∃ g, g ∈ (s.tile 0).pack.gangPend ∧ (s.tile 0).pack.held = [] ∧ ∀ (x : Nat × Arr), x ∈ (s.tile 0).pack.arrs → x.snd.passes = []) ∧
    (let s := wTile { pack := { cfgWrites := [⟨tilePage 0 oPackCfg, 6, 0, 0⟩] } };
     ((s.tile 0).pack.cfgWrites).isEmpty = false ∧ (s.tile 0).pack.held = []) ∧
    (let s := wTile { pack := { cfgWrites := [⟨tilePage 0 oQntCfg, 6, 4, 0⟩], held := [{ wPass 0 with serial := 4 }] } };
     ∃ c ∈ (s.tile 0).pack.cfgWrites, (∀ p ∈ (s.tile 0).pack.held, (if p.kctx then c.serialK else c.serialU) ≤ p.serial)) ∧
    (let s :=
        { wArr { queue := [wPass 0], flying := [{wLoaded (wPass 1) with entered := 1, flight := [⟨0, [[1,2,3,4]]⟩]}] } 0 with fe := { sit := { on := true } } };
     s.fe.sit.on = true) := by
  exact ⟨by decide +kernel,
    by decide +kernel,
    by decide +kernel,
    by decide +kernel⟩

theorem witness_ChainStagesAndBeats :
    (let s := wRedS (wRedE 3 0) [] [];
     s.enginesRun 0 = true ∧ ∃ e, (e ∈ (s.herder 0).nextOf fun e => e.cls == Cls.chn) ∧ s.paused 0 e.kctx = false ∧
     let g := s.stageOf e;
     g.role ≠ 1 ∧ (g.role = 3 ∨ g.ndev = none)) ∧
    (let s := wRedS (wRedE 1 0) [] [];
     s.enginesRun 0 = true ∧ ∃ e, (e ∈ (s.herder 0).nextOf fun e => e.cls == Cls.chn) ∧ s.paused 0 e.kctx = false ∧
     let g := s.stageOf e;
     g.role = 1 ∧ g.ret = false ∧ g.list = false ∧ g.ndev = none ∧ s.findStage 0 g.kctx g.serial = none ∧
       s.clean g.lo (g.hi - g.lo) = true ∧ inWindow 0 g.lo (g.hi - g.lo) = true ∧ s.beatsFor (tileOf g.nlo) + g.beats ≤ 32) ∧
    (let s := wRedS (wRedE 1 0) [] (List.replicate 32 { wBeat 0 with dst := 1 });
     s.enginesRun 0 = true ∧ ∃ e, (e ∈ (s.herder 0).nextOf fun e => e.cls == Cls.chn) ∧ s.paused 0 e.kctx = false ∧
     let g := s.stageOf e;
     g.role = 1 ∧ g.ndev = none ∧ 0 < g.beats ∧ 32 ≤ s.beatsFor (tileOf g.nlo) ∧ s.findStage 0 g.kctx g.serial = none) ∧
    (let s := wRedS { wRedE 2 0 with phase := .begun } [{ wStage 2 false with armed := false }] [];
     s.enginesRun 0 = true ∧
       ∃ g, g ∈ List.find? (fun g => !g.armed && g.role != 1 && !s.paused 0 g.kctx && s.stageFree 0 g) (s.tile
         0).chain.stages ∧ g.list = false) ∧
    (let s := wRedS { wRedE 2 0 with phase := .begun } [wStage 2 false] [wBeat 0];
     s.enginesRun 0 = true ∧ s.chainsStill = true ∧ (s.tile 0).held = [] ∧
       ∃ b, b ∈ List.find? (fun x => x.dst == 0 && (fun b => !b.ret && !b.list) x) s.beats ∧
       (s.tile 0).chain.drops = [] ∧ ∃ g, g ∈ List.find? (Stage.takes b) (s.tile 0).chain.stages ∧
       s.paused 0 g.kctx = false ∧ b.srcDev = none ∧ b.poison = false ∧ b.ret = false ∧ g.armed = true ∧
     let a := g.lo + 64 * g.next;
     let n := min 64 (g.hi - a);
     s.clean a n = true ∧ inWindow 0 a n = true ∧
       (g.role = 2 → g.ndev = none ∧ s.beatsFor (tileOf g.nlo) + 1 ≤ 32)) ∧
    (let s := wRedS { wRedE 1 1 with phase := .begun } [{ wStage 1 true with next := 2 }] [wBack 0];
     s.enginesRun 0 = true ∧ s.chainsStill = true ∧ (s.tile 0).held = [] ∧
       ∃ b, b ∈ List.find? (fun x => x.dst == 0 && (fun b => b.ret) x) s.beats ∧ (s.tile 0).chain.drops = [] ∧
       ∃ g, g ∈ List.find? (Stage.takes b) (s.tile 0).chain.stages ∧ s.paused 0 g.kctx = false ∧ b.srcDev = none ∧
       b.poison = false ∧ b.ret = true ∧ g.role = 1 ∧
     let a := g.lo + 64 * g.retNext;
     s.clean a (List.take (g.hi - a) b.bytes).length = true ∧
       inWindow 0 a (List.take (g.hi - a) b.bytes).length = true) ∧
    (let s := wRedS { wRedE 2 1 with phase := .begun } [{ wStage 2 true with next := 1, from_ := some (none, 2) }] [wBack 0];
     s.enginesRun 0 = true ∧ s.chainsStill = true ∧ (s.tile 0).held = [] ∧
       ∃ b, b ∈ List.find? (fun x => x.dst == 0 && (fun b => b.ret) x) s.beats ∧ (s.tile 0).chain.drops = [] ∧
       ∃ g, g ∈ List.find? (Stage.takes b) (s.tile 0).chain.stages ∧ s.paused 0 g.kctx = false ∧ b.srcDev = none ∧
       b.poison = false ∧ b.ret = true ∧ g.retNext < g.next ∧ (∀ x ∈ g.from_, x.1 = none) ∧
     let a := g.lo + 64 * g.retNext;
     s.clean a (List.take (g.hi - a) b.bytes).length = true ∧
       inWindow 0 a (List.take (g.hi - a) b.bytes).length = true) ∧
    (let s := wRedS { wRedE 3 0 with phase := .begun, cls := .sfu } [{ wStage 3 false with list := true, next := 1 }]
        [{wBeat 1 with list := true}];
     s.enginesRun 0 = true ∧ s.chainsStill = true ∧ (s.tile 0).held = [] ∧
       ∃ b, b ∈ List.find? (fun x => x.dst == 0 && (fun b => b.list) x) s.beats ∧ (s.tile 0).chain.drops = [] ∧
       ∃ g, g ∈ List.find? (Stage.takes b) (s.tile 0).chain.stages ∧ s.paused 0 g.kctx = false ∧ b.srcDev = none ∧
       b.poison = false ∧ b.ret = false ∧ b.list = true ∧ g.armed = true ∧ g.role = 3 ∧ g.next + 1 = g.beats ∧
       g.gotBad = false ∧ g.bad = none ∧ List.find? (Stage.is g.kctx g.serial) (s.tile 0).chain.stages = some g ∧
     let n := (g.hi - g.lo) / 8;
     let all := g.own ++ g.got ++ listWords (b.bytes.length / 8) b.bytes;
     let l := List.map (tkWord g.fmt) (tkPad g.fmt n (tkSelect g.fmt n (List.map (tkOfWord g.fmt) all)));
     s.clean g.lo (listBytes l).length = true ∧ inWindow 0 g.lo (listBytes l).length = true) := by
  exact ⟨by decide +kernel,
    by decide +kernel,
    by decide +kernel,
    by decide +kernel,
    by decide +kernel,
    by decide +kernel,
    by decide +kernel,
    by decide +kernel⟩

theorem witness_BeatSums_1 :
    (let xs : List Byte := [1,2,3,0x7f,5,6,7,8];
     let ys : List Byte := [1,2,3,0x7f,5,6,7,0x80];
     xs.length = 4 * 2 ∧ ys.length = 4 * 2 ∧ 1 < 2) := by decide +kernel

/-- The premises of a drain's group. -/
def groupOk (s : State) : Prop :=
  ∃ r ∈ s.drnTurn 0 fun d e => decide (d.next < e.dGroups), (r.2.dtd.remote = false ∨ r.1.redrain = true) ∧
    let d := r.1
    let e := r.2
    let i0 := d.next * e.dRate
    let sz := e.dSrc.width / 8
    let is := (List.range (min e.dRate (e.dElems - i0))).map (i0 + ·)
    let src (i : Nat) : Nat := (e.dts.rowAddr (i / e.dChans)).toNat + i % e.dChans * sz
    let key (i : Nat) : Nat := drnKey e.word (i / e.dChans) (i % e.dChans)
    let val (i : Nat) : Nat :=
      if e.dIcr then (if d.redrain then SMap.get 0 d.hold i else (SMap.get 0 (s.tile 0).pack.icr (key i)).toNat)
      else ofBytesLE (s.mem.readN (src i) sz)
    let x := (is.map (fun i => (i, val i))).foldl
      (fun (r : List Nat × DrnRun) iw => (r.1 ++ [(r.2.elem e iw.1 iw.2).1], (r.2.elem e iw.1 iw.2).2)) ([], d)
    let segs := if d.redrain then [((Dcb.ofNat d.dcb).fbDest + 2 * i0, packRow .P16 x.1)]
      else drnSegs d.out (e.dtd.n 0) e.dtd.rows (fun j => (e.dtd.rowAddr j).toNat) d.lastWord i0 x.1
    (e.dIcr = false → ∀ i ∈ is, s.clean (src i) sz = true ∧ inWindow 0 (src i) sz = true) ∧
    (e.dIcr = true → ∀ i ∈ is, ∀ j ∈ is, key i = key j → i = j) ∧
    (∀ g ∈ segs, s.plain g.1 g.2.length = true)

theorem witness_DrnHandoverGroupsCompletion :
    (let s := wDrnS wDrnE [] 0;
     s.enginesRun 0 = true ∧ ∃ e, (e ∈ (s.herder 0).nextOf fun e => e.cls == Cls.drn) ∧ s.paused 0 e.kctx = false ∧
       (s.herder 0).begunOf .drn = false ∧
       e.dtd.remote = false ∧
     let a := e.a1.toNat;
     let v := ofBytesLE (s.mem.readN a 64);
     let d := Dcb.ofNat v;
     let o := tileBase 0 + d.chrecOff;
     let words := List.map (fun j => ofBytesLE (s.mem.readN (o + 16 * j) 16)) (List.range e.dChans);
     let recs := List.map ChRec.ofNat words;
     inWindow 0 a 64 = true ∧ s.clean a 64 = true ∧ chrecReject d e.dChans = none ∧ s.clean o (16 * e.dChans) = true ∧
       s.dcbReject 0 e d recs = none ∧ dcbComplement d recs = none) ∧
    (let s := wDrnS wDrnE [] 0xF;
     s.enginesRun 0 = true ∧ ∃ e, (e ∈ (s.herder 0).nextOf fun e => e.cls == Cls.drn) ∧ s.paused 0 e.kctx = false ∧
       (s.herder 0).begunOf .drn = false ∧
       e.dtd.remote = false ∧
     let a := e.a1.toNat;
     let v := ofBytesLE (s.mem.readN a 64);
     let d := Dcb.ofNat v;
     let o := tileBase 0 + d.chrecOff;
     let words := List.map (fun j => ofBytesLE (s.mem.readN (o + 16 * j) 16)) (List.range e.dChans);
     let recs := List.map ChRec.ofNat words;
     inWindow 0 a 64 = true ∧ s.clean a 64 = true ∧ chrecReject d e.dChans = none ∧ s.clean o (16 * e.dChans) = true ∧
       ∃ i, i ∈ s.dcbReject 0 e d recs ∧ s.entry 0 e.kctx e.serial = some e ∧ e.fault = none) ∧
    (let s := wDrnS wDrnE [] (1 <<< 64);
     s.enginesRun 0 = true ∧ ∃ e, (e ∈ (s.herder 0).nextOf fun e => e.cls == Cls.drn) ∧ s.paused 0 e.kctx = false ∧
       (s.herder 0).begunOf .drn = false ∧ e.dtd.remote = false ∧
     let a := e.a1.toNat;
     let d := Dcb.ofNat (ofBytesLE (s.mem.readN a 64));
     let o := tileBase 0 + d.chrecOff;
     let recs := List.map (fun j => ChRec.ofNat (ofBytesLE (s.mem.readN (o + 16 * j) 16))) (List.range e.dChans);
     inWindow 0 a 64 = true ∧ s.clean a 64 = true ∧ chrecReject d e.dChans = none ∧ s.clean o (16 * e.dChans) = true ∧
       s.dcbReject 0 e d recs = none ∧ ∃ i, i ∈ dcbComplement d recs ∧ s.entry 0 e.kctx e.serial = some e ∧ e.fault = none) ∧
    groupOk (wDrnS { wDrnE with phase := .begun } [wDrnD 0 0] 0) ∧
    groupOk (wDrnS { wDrnE with phase := .begun } [{ wDrnD 0 ((tileBase 0 + 0x3000) <<< 256) with redrain := true }]
      ((tileBase 0 + 0x3000) <<< 256)) ∧
    groupOk (wDrnS { wDrnE with phase := .begun, word := wd [(0, 0x83), (29, 1)], t2 := wTd (tileBase 0 + actOff) 0 1 1 0 0 64 0 }
      [wDrnD 0 0] 0) ∧
    (let s := wDrnS { wDrnE with phase := .begun } [wDrnD 1 0] 0;
     ∃ r, (r ∈ s.drnTurn 0 fun d e => decide (e.dGroups ≤ d.next) && !d.finished) ∧
     let b := Dcb.ofNat r.fst.dcb;
     (b.driftAct = 0 ∨ r.fst.redrain = true) ∧ (b.stats = false ∨ r.fst.redrain = true) ∧
       bit (s.reg (tilePage 0 oDigCfg)) 0 = false) ∧
    (let s := wDigOn (wDrnS { wDrnE with phase := .begun } [wDrnD 1 0] 0);
     ∃ r, (r ∈ s.drnTurn 0 fun d e => decide (e.dGroups ≤ d.next) && !d.finished) ∧
     let b := Dcb.ofNat r.fst.dcb;
     let c := s.reg (tilePage 0 oDigCfg);
     bit c 0 = true ∧ (b.driftAct = 0 ∨ r.fst.redrain = true) ∧ (b.stats = false ∨ r.fst.redrain = true) ∧
       s.plain (tileBase 0 + fld c 20 5 * 32 + 32 * (s.regF (tilePage 0 oDigStat) 31 0 % 2 ^ fld c 4 1)) 32 = true) ∧
    (let s := wDrnS { wDrnE with phase := .begun } [{ wDrnD 1 (1 <<< 13) with stats := [⟨4, 4, .zero, .zero⟩, {}] }]
        0;
     ∃ r, (r ∈ s.drnTurn 0 fun d e => decide (e.dGroups ≤ d.next) && !d.finished) ∧
     let b := Dcb.ofNat r.fst.dcb;
     b.driftAct = 1 ∧ r.fst.redrain = false ∧ r.fst.verdict ≠ (false, false) ∧ b.stats = false ∧
       bit (s.reg (tilePage 0 oDigCfg)) 0 = false) ∧
    (let s := wDrnS { wDrnE with phase := .begun } [{ wDrnD 1 (2 <<< 13) with stats := [⟨4, 4, .zero, .zero⟩, {}] }]
        0;
     ∃ r, (r ∈ s.drnTurn 0 fun d e => decide (e.dGroups ≤ d.next) && !d.finished) ∧
     let b := Dcb.ofNat r.fst.dcb;
     b.driftAct = 2 ∧ r.fst.redrain = false ∧ r.fst.verdict ≠ (false, false) ∧ b.stats = false ∧
       bit (s.reg (tilePage 0 oDigCfg)) 0 = false) ∧
    (let s := wDrnS { wDrnE with phase := .begun } [wDrnD 1 (1 <<< 11 + (tileBase 0 + 0x3000) <<< 320)] 0;
     ∃ r, (r ∈ s.drnTurn 0 fun d e => decide (e.dGroups ≤ d.next) && !d.finished) ∧
     let b := Dcb.ofNat r.fst.dcb;
     b.driftAct = 0 ∧ r.fst.redrain = false ∧ b.stats = true ∧ bit (s.reg (tilePage 0 oDigCfg)) 0 = false ∧
       s.plain b.statDest (r.fst.record 0 false).length = true) ∧
    (let s := (wDrnS { wDrnE with phase := .begun } [{ wDrnD 1 0 with finished := true }] 0).modCtx 0 false
        (fun c => { c with ticket := 1 });
     ∃ r, (r ∈ s.drnTurn 0 fun d x => d.finished && d.outq.isEmpty && !s.drnOut 0 d.kctx d.serial) ∧
       (s.ctx 0 r.1.kctx).age r.2.ticket ≤ 63) ∧
    (let s := wTile { digPend := some 3 };
     (s.tile 0).digPend = some 3 ∧ s.drnBusy 0 = false ∧ bit (s.reg (tilePage 0 oDigCfg)) 0 = false ∧ bit (3 : Word) 0 = true) := by
  unfold groupOk
  exact ⟨by decide +kernel,
    by decide +kernel,
    by decide +kernel,
    by decide +kernel,
    by decide +kernel,
    by decide +kernel,
    by decide +kernel,
    by decide +kernel,
    by decide +kernel,
    by decide +kernel,
    by decide +kernel,
    by decide +kernel,
    by decide +kernel⟩

theorem witness_DrainedElement_0 :
    (let w := (2^127);
     let r := ChRec.ofNat wRec;
     srcVal Fmt.QP8 w = none ∨ positVal 32 0 = none ∨ positVal 32 r.bias = none) := by decide +kernel

theorem witness_DrainedElement_1 :
    (let r := ChRec.ofNat wRec;
     ∃ x, x ∈ srcVal Fmt.S32 5 ∧ ∃ tv, tv ∈ positVal 32 1073741824 ∧ (positVal 32 r.bias).isSome = true) := by decide +kernel

theorem witness_DrainedElement_2 :
    (let r := ChRec.ofNat wRec;
     r.shift < 64) := by decide +kernel

theorem witness_SfuInstructions :
    (let s := wSfuS (wSfuE (wd [(0, 0x84), (33, 1)])) [];
     s.enginesRun 0 = true ∧ ∃ e, (e ∈ (s.herder 0).nextOf fun e => e.cls == Cls.sfu) ∧ s.paused 0 e.kctx = false ∧
       (s.herder 0).begunOf .sfu = false ∧
       (e.opc = 132 ∨ e.opc = 134 ∧ (s.stageOf e).role = 0)) ∧
    (let s := wSfuS { wTopkE with word := wTopkE.word ||| wd [(39, 3)] } [];
     s.enginesRun 0 = true ∧ ∃ e, (e ∈ (s.herder 0).nextOf fun e => e.cls == Cls.sfu) ∧ s.paused 0 e.kctx = false ∧
       (s.herder 0).begunOf .sfu = false ∧ e.opc = 134 ∧ (s.stageOf e).role = 3) ∧
    (let s := wSfuS (wSmpE 0) [];
     s.enginesRun 0 = true ∧ ∃ e, (e ∈ (s.herder 0).nextOf fun e => e.cls == Cls.sfu) ∧ s.paused 0 e.kctx = false ∧
       (s.herder 0).begunOf .sfu = false ∧
       e.opc = 135 ∧
     let p := e.a1.toNat;
     let q := e.a2.toNat;
     let v := ofBytesLE (s.mem.readN p 16);
     let r := ofBytesLE (s.mem.readN q 32);
     inWindow 0 p 16 = true ∧ inWindow 0 q 32 = true ∧ s.clean p 16 = true ∧ s.clean q 32 = true ∧
       spbReject v = none ∧ ¬(2 ≤ nfld v 1 0 ∧ 64 < (TD.ofWord e.t1).cnt.getD 0 1) ∧
       nfld r 127 64 = complN 64 (nfld r 63 0)) ∧
    (let s := wSfuS { wSfuE (wd [(0, 0x84), (33, 1)]) with phase := .begun } [{}];
     s.enginesRun 0 = true ∧ ∃ run, run ∈ List.find? (fun r => !s.paused 0 r.kctx) (s.tile 0).sfu ∧
       ∃ e, e ∈ s.entry 0 run.kctx run.serial ∧ e.kctx = run.kctx ∧ e.serial = run.serial ∧
     let ts := TD.ofWord e.t1;
     let td := TD.ofWord e.t2;
     e.opc = 132 ∧ sfuOp e.word = 0 ∧ ∃ f, f ∈ ts.fmt ∧ ∃ d, d ∈ td.fmt ∧ ts.rank = 0 ∧ td.rank = 0 ∧
       td.n 0 = ts.n 0 ∧ e.sto.statusEn = false ∧ inWindow 0 ts.base (ts.rowLen f) = true ∧
       s.clean ts.base (ts.rowLen f) = true ∧
     let out := packRow d (List.map (fun w => (sfuElement (fld e.word 38 33) f d w).word) (unpackRow f (s.mem.readN
         ts.base (ts.rowLen f)) (ts.n 0)));
     s.plain td.base out.length = true) ∧
    (let s := wSfuS { wSfuE (wd [(0, 0x84), (29, 2)]) with phase := .begun } [{}];
     s.enginesRun 0 = true ∧ ∃ run, run ∈ List.find? (fun r => !s.paused 0 r.kctx) (s.tile 0).sfu ∧
       ∃ e, e ∈ s.entry 0 run.kctx run.serial ∧ e.kctx = run.kctx ∧ e.serial = run.serial ∧
     let td := TD.ofWord e.t2;
     e.opc = 132 ∧ sfuOp e.word = 2 ∧ sfuR (TD.ofWord e.t1) = 1 ∧ e.sto.statusEn = false ∧ td.n 1 = 1 ∧
       ∃ o, s.sfuRow 0 e 0 = (Except.ok o, s) ∧ s.plain td.base o.bytes.length = true) ∧
    (let s := wSfuS { wTopkE with phase := .begun } [{}];
     s.enginesRun 0 = true ∧ ∃ run, run ∈ List.find? (fun r => !s.paused 0 r.kctx) (s.tile 0).sfu ∧
       ∃ e, e ∈ s.entry 0 run.kctx run.serial ∧ e.kctx = run.kctx ∧ e.serial = run.serial ∧ e.opc = 134 ∧
       (s.stageOf e).role = 0 ∧ s.findStage 0 run.kctx run.serial = none ∧ ∃ l, s.topkOwn 0 e = (Except.ok l, s) ∧
       s.plain (s.stageOf e).lo (listBytes l).length = true) ∧
    (let s := wSfuS { wSmpE 0 with phase := .begun }
        [{ spb := 0x40000000 <<< 32 + 0x40000000 <<< 64, ssr := (2^64-1) <<< 64 + 1 <<< 192 }];
     s.enginesRun 0 = true ∧ ∃ run, run ∈ List.find? (fun r => !s.paused 0 r.kctx) (s.tile 0).sfu ∧
       ∃ e, e ∈ s.entry 0 run.kctx run.serial ∧ e.kctx = run.kctx ∧ e.serial = run.serial ∧
     let td := TD.ofWord e.t2;
     e.opc = 135 ∧ ∃ d, s.smpDraw 0 e run = (Except.ok d, s) ∧ s.plain td.base 8 = true ∧
       s.plain (e.a2.toNat + 16) 8 = true) := by
  exact ⟨by decide +kernel,
    by decide +kernel,
    by decide +kernel,
    by decide +kernel,
    ⟨by decide +kernel, ⟨_, rfl, ⟨_, rfl, by decide +kernel, by decide +kernel, by decide +kernel, by decide +kernel, by decide +kernel, by decide +kernel, by decide +kernel, ⟨_, rfl, by decide +kernel⟩⟩⟩⟩,
    ⟨by decide +kernel, ⟨_, rfl, ⟨_, rfl, by decide +kernel, by decide +kernel, by decide +kernel, by decide +kernel, by decide +kernel, ⟨_, rfl, by decide +kernel⟩⟩⟩⟩,
    ⟨by decide +kernel, ⟨_, rfl, ⟨_, rfl, by decide +kernel, by decide +kernel, by decide +kernel, ⟨_, rfl, by decide +kernel⟩⟩⟩⟩⟩

theorem witness_StreamQueuesAndDescriptors :
    (let s := wRtv (wStrE 1) [];
     s.enginesRun 0 = true ∧
     let r := (s.tile 0).retr;
     ∃ e, (e ∈ (s.herder 0).nextOf fun e => e.cls == Cls.rtv) ∧ e.qid = 0 ∧ r.held 0 < 4 ∧
       s.stream 0 e.kctx e.serial = none ∧ s.entry 0 e.kctx e.serial = some e ∧
     let x := s.newStrm 0 e;
     s.strmDevs e x = []) ∧
    (let s := wRtv (wOn (wStrE 1)) [{ kind := .copy }];
     s.enginesRun 0 = true ∧
     let r := (s.tile 0).retr;
     ∃ x, x ∈ r.starter 0 ∧ s.stream 0 x.kctx x.serial = some x ∧ x.kind ≠ SKind.ldwHead) ∧
    (let s := wRtv (wOn (wStrE 2)) [wList 0x400];
     s.enginesRun 0 = true ∧ ∃ x, x ∈ s.lister 0 0 ∧ s.stream 0 x.kctx x.serial = some x ∧ ∃ b, b ∈ x.wantsBurst ∧
       isLocal 0 none b = false) ∧
    (let s := wRtv (wOn (wStrE 2)) [wList (tileBase 0 + 0x400)];
     s.enginesRun 0 = true ∧ ∃ x, x ∈ s.lister 0 0 ∧ s.stream 0 x.kctx x.serial = some x ∧ ∃ b, b ∈ x.wantsBurst ∧
       isLocal 0 none b = true ∧ ∀ a ∈ burstAddrs b, s.clean a 64 = true ∧ inWindow 0 a 64 = true) ∧
    (let s := wRtv (wOn (wLdwE 1)) [{ kind := .ldwHead, total := 4 }];
     s.enginesRun 0 = true ∧
     let r := (s.tile 0).retr;
     ∃ x, x ∈ r.starter 0 ∧ s.stream 0 x.kctx x.serial = some x ∧ x.kind = SKind.ldwHead ∧
       ∃ e, e ∈ s.entry 0 x.kctx x.serial ∧ (Target.ofWord e.x1).remote = false) ∧
    (let s := wRtv (wOn (wStrE 2)) [{ wList 0x400 with bursts := [(0x400, [.outside])] }];
     s.enginesRun 0 = true ∧ ∃ x, x ∈ s.lister 0 0 ∧ s.stream 0 x.kctx x.serial = some x ∧ x.worksIssued 0 = true ∧
       x.burstAsked = true ∧ x.nextWord = some BurstWord.outside ∧ ∃ e, e ∈ s.entry 0 x.kctx x.serial ∧ e.fault = none) ∧
    (let s := wRtv (wOn (wStrE 2)) [wBurst (wDesc6 [(0, 6)] ^^^ 1)];
     s.enginesRun 0 = true ∧ ∃ x, x ∈ s.lister 0 0 ∧ s.stream 0 x.kctx x.serial = some x ∧ x.worksIssued 0 = true ∧
       x.burstAsked = true ∧ ∃ e, e ∈ s.entry 0 x.kctx x.serial ∧ e.fault = none ∧
     let d : Desc := wDesc6 [(0, 6)] ^^^ 1;
     x.nextWord = some (BurstWord.data d) ∧ fld d 63 32 ≠ complN 32 (fld d 31 0)) ∧
    (let s := wRtv (wOn (wStrE 2)) [wBurst (wDesc6 [(0, 5), (64, 0x800)])];
     s.enginesRun 0 = true ∧ ∃ x, x ∈ s.lister 0 0 ∧ s.stream 0 x.kctx x.serial = some x ∧
     let d : Desc := wDesc6 [(0, 5), (64, 0x800)];
     x.nextWord = some (BurstWord.data d) ∧ x.worksIssued 0 = true ∧ x.burstAsked = true ∧
       fld d 63 32 = complN 32 (fld d 31 0) ∧
     let gang := (s.tile 0).pack.gang;
     let rej := s.descReject 0 x.kctx gang (s.perPassAt 0 d.arr) x.needScale.isSome d;
     rej = none ∧ d.kind = 5) ∧
    (let s := wRtv (wOn (wStrE 2)) [wBurst (wDesc6 [(0, 6)])];
     s.enginesRun 0 = true ∧ ∃ x, x ∈ s.lister 0 0 ∧ s.stream 0 x.kctx x.serial = some x ∧
     let d : Desc := wDesc6 [(0, 6)];
     x.nextWord = some (BurstWord.data d) ∧ x.worksIssued 0 = true ∧ x.burstAsked = true ∧
       fld d 63 32 = complN 32 (fld d 31 0) ∧
     let gang := (s.tile 0).pack.gang;
     let rej := s.descReject 0 x.kctx gang (s.perPassAt 0 d.arr) x.needScale.isSome d;
     rej = none ∧ d.kind = 6) ∧
    (let s := wRtv (wOn (wStrE 2)) [wBurst wCopyD];
     s.enginesRun 0 = true ∧ ∃ x, x ∈ s.lister 0 0 ∧ s.stream 0 x.kctx x.serial = some x ∧
     let d : Desc := wCopyD;
     x.nextWord = some (BurstWord.data d) ∧ x.worksIssued 0 = true ∧ x.burstAsked = true ∧
       fld d 63 32 = complN 32 (fld d 31 0) ∧
     let gang := (s.tile 0).pack.gang;
     let rej := s.descReject 0 x.kctx gang (s.perPassAt 0 d.arr) x.needScale.isSome d;
     rej = none ∧ 1 ≤ d.kind ∧ d.kind ≤ 4 ∧ d.rsrc = false ∧ d.rdst = false) ∧
    (let s := wRtv (wOn (wStrE 2)) [wBurst (wDesc6 [(0, 7)])];
     s.enginesRun 0 = true ∧ ∃ x, x ∈ s.lister 0 0 ∧ s.stream 0 x.kctx x.serial = some x ∧
     let d : Desc := wDesc6 [(0, 7)];
     x.nextWord = some (BurstWord.data d) ∧ x.worksIssued 0 = true ∧ x.burstAsked = true ∧
       fld d 63 32 = complN 32 (fld d 31 0) ∧
     let gang := (s.tile 0).pack.gang;
     let rej := s.descReject 0 x.kctx gang (s.perPassAt 0 d.arr) x.needScale.isSome d;
     ∃ off, off ∈ rej ∧ ∃ e, e ∈ s.entry 0 x.kctx x.serial ∧ e.fault = none) ∧
    (let s := wRtv (wOn (wStrE 2)) [{ wList 0x440 with mark := true }];
     s.enginesRun 0 = true ∧
     let r := (s.tile 0).retr;
     ∃ x, x ∈ r.issuing 0 ∧ s.stream 0 x.kctx x.serial = some x ∧ x.runs = true ∧ x.mark = true ∧ x.works = [] ∧
       x.quiet = true ∧ x.wq = []) := by
  exact ⟨by decide +kernel,
    by decide +kernel,
    by decide +kernel,
    by decide +kernel,
    by decide +kernel,
    by decide +kernel,
    by decide +kernel,
    by decide +kernel,
    by decide +kernel,
    by decide +kernel,
    by decide +kernel,
    by decide +kernel⟩

theorem witness_StreamRequestsAndCompletion :
    (let s := wRtv (wOn (wStrE 1)) [{ wStrm .copy with works := [wWork .copy 0x1000] }];
     let r := (s.tile 0).retr;
     let pick := List.findSome? (fun q => (s.candidate 0 q).bind fun c => if s.qualifies 0 q c.snd = true then some
         (q, c) else none) (List.map (fun i => (r.lastQ + 1 + i) % 8) (List.range 8));
     s.enginesRun 0 = true ∧ s.passOn 0 = s ∧ ∃ x rd w', pick = some (0, x, NextReq.read rd w') ∧ s.stream 0 x.kctx x.serial = some x ∧
       rd.dev = none ∧ isVirt rd.va = false ∧ pageOf rd.va = .none ∧ s.reach (s.partOf 0) rd.va rd.bytes = true) ∧
    (let s := wRtv (wOn (wStrE 1))
        [{ wStrm .copy with wq := [{ work := 0, va := 0x2000, segs := [(0x2004, [1, 2])], closed := true }] }];
     let r := (s.tile 0).retr;
     let pick := List.findSome? (fun q => (s.candidate 0 q).bind fun c => if s.qualifies 0 q c.snd = true then some
         (q, c) else none) (List.map (fun i => (r.lastQ + 1 + i) % 8) (List.range 8));
     s.enginesRun 0 = true ∧ s.passOn 0 = s ∧ ∃ x w, pick = some (0, x, NextReq.write w) ∧ s.stream 0 x.kctx x.serial = some x ∧
     let w0 : WrReq := { w with seq := r.seq, addr := w.va };
       w.dev = none ∧ isVirt w.va = false ∧ pageOf w.va = .none ∧
       s.reach (s.partOf 0) (w.va + (w.lo - w.va)) (w.hi - w.lo) = true ∧ s.targetReady w.va = true ∧
       s.wayFree 0 x w0 = true ∧
       s.drnHolds 0 x.kctx x.serial (w0.runs.map (fun g => (w.va + g.1, g.2))) = false ∧ w0.runs ≠ [] ∧
       ∀ g ∈ w0.runs, s.plain (w.va + g.1) g.2.length = true) ∧
    (let s := wRtv (wOn (wStrE 0)) [{ wStrm .feed with works := [wWork .feed (tileBase 0 + actOff)] }];
     let r := (s.tile 0).retr;
     s.enginesRun 0 = true ∧ s.passOn 0 = s ∧ ∃ x, x ∈ r.issuing 0 ∧ s.stream 0 x.kctx x.serial = some x ∧ x.runs = true ∧
       x.started = true ∧ ∃ w, x.works = [w] ∧ Work.localSrc 0 w = true ∧ w.kind = WKind.feed ∧ w.buf = [] ∧
       w.done = w.pos ∧ 0 < w.c 0 ∧ s.localLimit 0 w = w.pos + w.c 0 ∧ w.pos + w.c 0 ≤ w.n ∧
       ∀ (i : Nat), i < w.c 0 → ∃ a, w.srcAt (w.pos + i) = some a ∧ s.clean a w.slen = true ∧
       inWindow 0 a w.slen = true) ∧
    (let s := wRtv (wOn (wStrE 1))
        [{ wStrm .copy with works := [{ wWork .copy 0x1000 with pos := 8 }], reads := [{ work := 0, first := 0, n := 8, va := 0x1000, addr := 0x1000, bytes := 8 }] }];
     let r := (s.tile 0).retr;
     s.enginesRun 0 = true ∧ ∃ r_1, r_1 ∈ (r.readsOf 0)[0]? ∧ s.stream 0 r_1.fst.kctx r_1.fst.serial = some r_1.fst ∧
       r_1.fst.stopping = false ∧ (∀ w ∈ r_1.fst.works, w.localDst 0 = false) ∧ s.targetReady r_1.snd.addr = true ∧
       s.clean r_1.snd.addr r_1.snd.bytes = true ∧ r.onWay = []) ∧
    (let s := wRtv (wOn (wStrE 1))
        [{ wStrm .copy with works := [{ wWork .copy 0x1000 with pos := 8 }], reads := [{ work := 0, first := 0, n := 8, va := 0x1000, addr := 0x1000, bytes := 8, got := some (List.replicate 8 7) }] }];
     let r := (s.tile 0).retr;
     s.enginesRun 0 = true ∧ s.eccW = [] ∧ s.eccB = [] ∧ s.sec.inj.armed = false ∧
       ∃ r_1, r_1 ∈ (r.readsOf 0)[0]? ∧ s.stream 0 r_1.fst.kctx r_1.fst.serial = some r_1.fst ∧
       r_1.fst.stopping = false ∧ r_1.snd.got.isSome = true) ∧
    (let s := wRtv (wOn (wStrE 1))
        [{ wStrm .copy with wout := [{ work := 0, va := 0x2000, addr := 0x2000, segs := [(0x2004, [1, 2])], closed := true, arrived := true }] }];
     let r := (s.tile 0).retr;
     ∃ r_1, r_1 ∈ (r.writesOf 0)[0]? ∧ s.stream 0 r_1.fst.kctx r_1.fst.serial = some r_1.fst ∧
       r_1.fst.stopping = false ∧ r_1.snd.arrived = true) ∧
    (let s := wRtv (wOn (wStrE 1))
        [{ wStrm .copy with wout := [{ work := 0, va := 0x2000, addr := 0x2000, segs := [(0x2004, [1, 2])], closed := true }] }];
     let r := (s.tile 0).retr;
     ∃ z, z ∈ (r.writesOf 0)[0]? ∧ z.2.arrived = false ∧ r.onWay.filter (fun y => decide (y.2.seq ≤ z.2.seq)) = [z] ∧
       s.targetReady z.2.addr = true ∧ r.readAhead z.2.addr z.2.seq = false ∧
       ∀ g ∈ z.2.runs, s.plain (z.2.addr + g.1) g.2.length = true) ∧
    (let s := wRtv (wOn (wStrE 1)) [{ wStrm .copy with issued := true }];
     let r := (s.tile 0).retr;
     s.enginesRun 0 = true ∧
       ∃ x, x ∈ List.find? (fun x => x.qid == 0 && x.allDone && x.kind != SKind.ldwHead && x.kind != SKind.ldwMember)
         r.strms ∧ ∃ e, e ∈ s.entry 0 x.kctx x.serial ∧ e.isRt = false) ∧
    (let s := (wRtv (wOn wRt) [{ wStrm .copy with issued := true }]).modCtx 0 false (fun c => { c with ticket := 1 });
     let r := (s.tile 0).retr;
     s.enginesRun 0 = true ∧
       ∃ x, x ∈ List.find? (fun x => x.qid == 0 && x.allDone && x.kind != SKind.ldwHead && x.kind != SKind.ldwMember)
         r.strms ∧ ∃ e, e ∈ s.entry 0 x.kctx x.serial ∧ e.isRt = true ∧ (s.ctx 0 x.kctx).age e.ticket ≤ 63) ∧
    (let s := wRtv (wOn wRt) [wStrm .copy];
     (List.find? (Entry.misses s.now 0) ((s.herder 0).board ++ (s.herder 0).park)).isSome = true) ∧
    (let s := wTile
        { herder := { user := wCtx 0x4C, kern := { wCtx 0xC5 with wait := .quiesce }, kctx := true, preempted := true }, retr := { strms := [{ wStrm .copy with quiesced := true }] } };
     s.enginesRun 0 = true ∧ (s.ctx 0 true).st = CtxSt.run ∧ (s.ctx 0 true).wait = Wait.quiesce ∧
       ∀ y ∈ (s.tile 0).retr.strms, y.kctx = false → y.stopping = false → y.wq = []) := by
  exact ⟨⟨by decide +kernel, by decide +kernel, ⟨_, _, _, rfl, by decide +kernel⟩⟩,
    ⟨by decide +kernel, by decide +kernel, ⟨_, _, rfl, by decide +kernel⟩⟩,
    ⟨by decide +kernel, by decide +kernel, ⟨_, rfl, by decide +kernel, by decide +kernel, by decide +kernel, ⟨_, rfl, by decide +kernel⟩⟩⟩,
    by decide +kernel,
    by decide +kernel,
    by decide +kernel,
    by decide +kernel,
    by decide +kernel,
    by decide +kernel,
    by decide +kernel,
    by decide +kernel⟩

theorem witness_SledChain :
    (let s := wSled (wStrE 1) [] { src := 1, dst := 0, header := true };
     s.enginesRun 0 = true ∧
     let r := (s.tile 0).retr;
     r.sled = [] ∧ ∃ b, b ∈ List.find? (fun b => b.dst == 0) s.sleds ∧ s.acceptSled 0 b = none) ∧
    (let s := wSled (wOn (wLdwE 3)) [{ kind := .ldwTail, started := true, total := 4 }]
        { src := 1, dst := 0, header := true, count := 4 };
     s.enginesRun 0 = true ∧
     let r := (s.tile 0).retr;
     r.sled = [] ∧ r.sledDrop = [] ∧ ∃ b, b ∈ List.find? (fun b => b.dst == 0) s.sleds ∧ b.srcDev = none ∧
       ∃ x, x ∈ r.sledTaker b ∧ s.stream 0 x.kctx x.serial = some x ∧ ∃ e, e ∈ s.entry 0 x.kctx x.serial ∧
       x.kind = SKind.ldwTail ∧ (b.last = false ∨ b.src ≠ 0) ∧ b.header = true ∧ b.fmt = (TD.ofWord e.t2).fmtCode ∧
       b.count = x.total) ∧
    (let s := wSled (wOn (wLdwE 3))
        [{ kind := .ldwTail, started := true, total := 4, header := true, from_ := some (none, 1) }]
        { src := 1, dst := 0, bytes := [1, 2, 3] };
     s.enginesRun 0 = true ∧
     let r := (s.tile 0).retr;
     r.sled = [] ∧ r.sledDrop = [] ∧ ∃ b, b ∈ List.find? (fun b => b.dst == 0) s.sleds ∧ b.srcDev = none ∧
       ∃ x, x ∈ r.sledTaker b ∧ s.stream 0 x.kctx x.serial = some x ∧ ∃ e, e ∈ s.entry 0 x.kctx x.serial ∧
       x.kind = SKind.ldwTail ∧ (b.last = false ∨ b.src ≠ 0) ∧ b.header = false ∧ x.badHeader = false ∧
     let td := TD.ofWord e.t2;
     let l := td.rowLen (td.fmt.getD Fmt.P8);
     b.bytes ≠ [] ∧ x.sent % l + b.bytes.length ≤ l ∧
       s.plain ((td.rowAddr (x.sent / l)).toNat + x.sent % l) b.bytes.length = true) ∧
    (let s := wRtv (wOn (wLdwE 1))
        [{ kind := .ldwHead, started := true, listEnd := true, issued := true, acceptPend := true }];
     s.enginesRun 0 = true ∧
     let r := (s.tile 0).retr;
     ∃ x, x ∈ List.find? (fun x => x.qid == 0 && x.allDone && (x.kind == SKind.ldwHead || x.kind == SKind.ldwMember)
         && x.acceptPend) r.strms ∧ x.badHeader = false ∧ ∃ e, e ∈ s.entry 0 x.kctx x.serial ∧ e.isRt = false) ∧
    (let s := wRtv (wOn (wLdwE 1))
        [{ kind := .ldwHead, started := true, listEnd := true, issued := true, acceptPend := true, badHeader := true }];
     s.enginesRun 0 = true ∧
     let r := (s.tile 0).retr;
     ∃ x, x ∈ List.find? (fun x => x.qid == 0 && x.allDone && (x.kind == SKind.ldwHead || x.kind == SKind.ldwMember)
         && x.acceptPend) r.strms ∧ x.badHeader = true ∧ ∃ e, e ∈ s.entry 0 x.kctx x.serial ∧ e.isRt = false ∧ e.fault = none) := by
  exact ⟨by decide +kernel,
    by decide +kernel,
    by decide +kernel,
    by decide +kernel,
    by decide +kernel⟩

/-- A pass that a `dep` whose producer has completed holds back no longer. -/
def wHeldP : State :=
  wTile { herder := { user := { wCtx 0x4C with serial := 4, ticket := 3, deps := [⟨2, 1, [1]⟩] } }
          pack := { held := [{ wPass 0 with serial := 3 }] } }
/-- Handles wait in the buffer; an instruction of the context is outstanding. -/
def wOuts (l : List OutHandle) : State :=
  wTile { herder := { user := { wCtx 0x4C with serial := 10 }, out := l, board := [{ serial := 3, ticket := 3 }] } }

theorem witness_HandlesMoveAndWaitsEnd :
    (let s := wWait .issue;
     let h := s.herder 0;
     let k := h.kctx;
     let c := s.act 0;
     c.st = CtxSt.run ∧ c.wait = Wait.issue ∧
     let w : BitVec 64 := 0x4C;
     c.prog[c.pc / 8]? = some w ∧ s.mustStall 0 k c w = false) ∧
    (let s := wWait (.fence 1 0);
     let h := s.herder 0;
     let k := h.kctx;
     let c := s.act 0;
     c.st = CtxSt.run ∧ s.injLockstep 0 = false ∧ c.wait = Wait.fence 1 0) ∧
    (let s := wWait (.fence 4 3);
     let h := s.herder 0;
     let k := h.kctx;
     let c := s.act 0;
     c.st = CtxSt.run ∧ s.injLockstep 0 = false ∧ c.wait = Wait.fence 4 3 ∧
       (∀ (e : Entry), ¬(e ∈ h.board ++ h.park ∧ e.kctx = k ∧ e.serial < 3)) ∧ s.link.outst = []) ∧
    (let s := wWait (.ticket 3 6);
     let h := s.herder 0;
     let k := h.kctx;
     let c := s.act 0;
     s.tileRuns 0 = true ∧ c.st = CtxSt.run ∧ (k = true ∨ h.preempted = false) ∧ s.injLockstep 0 = false ∧ c.wait = Wait.ticket 3 6 ∧
       ∀ (e : Entry), e ∈ h.board ++ h.park ∧ e.kctx = k ∧ e.serial < c.serial → e.ticket ≠ 3) ∧
    (let s := wWait (.classes 3 1);
     let h := s.herder 0;
     let k := h.kctx;
     let c := s.act 0;
     s.tileRuns 0 = true ∧ c.st = CtxSt.run ∧ (k = true ∨ h.preempted = false) ∧ s.injLockstep 0 = false ∧ c.wait = Wait.classes 3 1 ∧
       ∀ (e : Entry), e ∈ h.board ++ h.park ∧ e.kctx = k ∧ e.serial < 1 → (3 : Nat).testBit e.cls.bit = false) ∧
    (let s := wWait (.time 0);
     let h := s.herder 0;
     let k := h.kctx;
     let c := s.act 0;
     s.tileRuns 0 = true ∧ c.st = CtxSt.run ∧ (k = true ∨ h.preempted = false) ∧ s.injLockstep 0 = false ∧ ∃ n, c.wait = Wait.time n ∧
       n ≤ s.now) ∧
    (let s := wWait (.hget 2 6);
     let h := s.herder 0;
     let k := h.kctx;
     let c := s.act 0;
     s.tileRuns 0 = true ∧ c.st = CtxSt.run ∧ (k = true ∨ h.preempted = false) ∧ s.injLockstep 0 = false ∧ ∃ q sd, c.wait = Wait.hget q sd ∧
       ∃ x xs, SMap.get [] h.hq q = x :: xs) ∧
    (let s := wHeldP;
     let h := s.herder 0;
     ∃ p ∈ (s.tile 0).pack.held, h.preempted = false ∧ h.packHeld p = true ∧
       ∃ u, exec (.depSatisfied 0) s = .next u ∧ (u.herder 0).packHeld p = false) ∧
    (let s := wOuts [{ wH with q := 2, serial := 9 }, { wH with relNone := true }];
     let h := s.herder 0;
     s.tileRuns 0 = true ∧ ∃ x o, h.out = [x, o] ∧ o.sent = false ∧ o.refused = false ∧
       x.refused = false ∧ x.sameQueue o = false ∧
       (x.sent = true ∨ ¬(x.relNone = true ∨ (∀ e ∈ h.board ++ h.park, e.kctx = x.kctx → x.serial ≤ e.serial))) ∧
       (Target.ofWord o.target).remote = false ∧ (o.relNone = true ∨ ((∀ e ∈ h.board ++ h.park, e.kctx = o.kctx → o.serial ≤ e.serial) ∧ s.link.outst = []))) ∧
    (let s := wOuts [wH, { wH with refused := true }];
     let h := s.herder 0;
     s.tileRuns 0 = true ∧ ∃ x o, h.out = [x, o] ∧ x.refused = false ∧ o.refused = true ∧
       (Target.ofWord o.target).remote = false) ∧
    (let s := wOut { wH with sent := true } 31;
     let h := s.herder 0;
     ∃ o, h.out = [o] ∧ o.sent = true ∧ (Target.ofWord o.target).remote = false ∧
     let u := (Target.ofWord o.target).tile;
     let l := SMap.get [] (s.herder u).hq o.q;
     s.writesAhead 0 u = false ∧ (s.tile u).pwr.st = PwrSt.ivory ∧ l.length < 32) ∧
    (let s := wOut { wH with sent := true } 32;
     let h := s.herder 0;
     ∃ o, h.out = [o] ∧ o.sent = true ∧ (Target.ofWord o.target).remote = false ∧
     let u := (Target.ofWord o.target).tile;
     let l := SMap.get [] (s.herder u).hq o.q;
     s.writesAhead 0 u = false ∧ (s.tile u).pwr.st = PwrSt.ivory ∧ 32 ≤ l.length ∧ o.q < 8) := by
  exact ⟨by decide +kernel,
    by decide +kernel,
    by simp only [not_and]; decide +kernel,
    by simp only [and_imp]; decide +kernel,
    by simp only [and_imp]; decide +kernel,
    ⟨by decide +kernel, by decide +kernel, by decide +kernel, by decide +kernel, ⟨_, rfl, by decide +kernel⟩⟩,
    ⟨by decide +kernel, by decide +kernel, by decide +kernel, by decide +kernel, ⟨_, _, rfl, ⟨_, _, rfl⟩⟩⟩,
    ⟨_, List.Mem.head _, by decide +kernel, by decide +kernel, ⟨_, rfl, by decide +kernel⟩⟩,
    ⟨by decide +kernel, ⟨_, _, rfl, by decide +kernel⟩⟩,
    ⟨by decide +kernel, ⟨_, _, rfl, by decide +kernel⟩⟩,
    ⟨_, rfl, by decide +kernel⟩,
    ⟨_, rfl, by decide +kernel⟩⟩

theorem witness_PreemptionAndFaultCompletion :
    (let s := wTile
        { herder := { user := wCtx 0x4C, kern := wKrun, board := [{ serial := 3 }, { serial := 2, phase := .begun }] } };
     let h := s.herder 0;
     h.kern.st = CtxSt.run ∧ h.kctx = false ∧ h.preempted = false ∧ h.user.st ≠ CtxSt.idle) ∧
    (let s := wTile { herder := { user := wCtx 0x4C, kern := wKrun, preempted := true } };
     let h := s.herder 0;
     h.kern.st = CtxSt.run ∧ h.kctx = false ∧ (h.user.st = CtxSt.idle ∨ h.preempted = true) ∧
       (s.tile 0).pack.slotsFree = true) ∧
    (let s := wTile { herder := { user := { wCtx 0x4C with serial := 3, ticket := 3 }, board := [wFlt] } };
     let h := s.herder 0;
     let e := wFlt;
     List.filter (s.faultReady 0) h.board = [e] ∧ (s.ctx 0 e.kctx).age e.ticket ≤ 63 ∧
       ∃ r, r ∈ e.fault ∧ s.entry 0 e.kctx e.serial = some e) ∧
    (let s := wTile { herder := { user := { wCtx 0x4C with serial := 3, ticket := 3 }, board := [wFlt, { wFlt with serial := 2, ticket := 2 }] } };
     let h := s.herder 0;
     ∃ e ∈ List.filter (s.faultReady 0) h.board, e.fault.isSome = true ∧
       (∀ y ∈ List.filter (s.faultReady 0) h.board, y ≠ e → e.ticket < y.ticket) ∧
       ∃ y ∈ List.filter (s.faultReady 0) h.board, y ≠ e) ∧
    (let s := wFe 1 { pkts := [{ st := .running }] }
        { herder := { user := { wTask with signal := true, st := .haltedExc } } };
     let h := s.herder 0;
     h.user.signal = true ∧ s.writesDone 0 false = true ∧ ∃ r, r ∈ h.user.task ∧
       ∃ p, p ∈ List.find? (fun p => decide (p.count = r.count)) (s.ring r.ring).pkts ∧ p.st = PktSt.running) := by
  exact ⟨by decide +kernel,
    by decide +kernel,
    by decide +kernel,
    by decide +kernel,
    by decide +kernel⟩

theorem witness_PacketsFetchValidateRetire :
    (let s := wFe 1 { tail := 1, tailC := 0xFFFFFFFE } {};
     0 < 1024 ∧ s.feRuns = true ∧
     let r := s.ring 0;
     let n := (r.done + r.pkts.length) % 2 ^ 32;
     let a := s.ringBase 0 + 64 * (n % s.ringSize 0);
     s.fetchTurn 0 = true ∧ s.ringGood 0 = true ∧ s.reach (0 / 64) a 64 = true ∧ s.clean a 64 = true) ∧
    (let s := wP { wNop with words := [wC32 0] };
     0 < 1024 ∧ s.feRuns = true ∧
     let r := s.ring 0;
     ∃ k, k ∈ List.find? (fun k => decide (k.st = PktSt.fetched)) r.pkts ∧ s.ringGood 0 = true ∧ k.badFormat = true) ∧
    (let s := wP { wNop with words := [3] };
     0 < 1024 ∧ s.feRuns = true ∧
     let r := s.ring 0;
     ∃ k, k ∈ List.find? (fun k => decide (k.st = PktSt.fetched)) r.pkts ∧ s.ringGood 0 = true ∧ k.badFormat = false ∧
       k.badComplement = true) ∧
    (let s := wP { wNop with words := [wC32 (2 + 0x20 <<< 8)] };
     0 < 1024 ∧ s.feRuns = true ∧
     let r := s.ring 0;
     ∃ k, k ∈ List.find? (fun k => decide (k.st = PktSt.fetched)) r.pkts ∧ s.ringGood 0 = true ∧ k.badFormat = false ∧
       k.badComplement = false ∧ s.badPriv 0 k = true) ∧
    (let s := wP wNop;
     0 < 1024 ∧ s.feRuns = true ∧
     let r := s.ring 0;
     ∃ k, k ∈ List.find? (fun k => decide (k.st = PktSt.fetched)) r.pkts ∧ s.ringGood 0 = true ∧ k.badFormat = false ∧
       k.badComplement = false ∧ s.badPriv 0 k = false ∧ k.kind ≠ 1 ∧
       ¬(k.isCmd = true ∧ k.opcode = 0x20 ∧ s.fe.sit.cmd = none)) ∧
    (let s := wP { wTsk with words := [wC32 1, 0x4000 + 3 <<< 48, wC32 0xA0] };
     0 < 1024 ∧ s.feRuns = true ∧
     let r := s.ring 0;
     ∃ k, k ∈ List.find? (fun k => decide (k.st = PktSt.fetched)) r.pkts ∧ s.ringGood 0 = true ∧ k.badFormat = false ∧
       k.badComplement = false ∧ s.badPriv 0 k = false ∧ k.kind = 1 ∧
       (k.group.onMesh = false ∨ k.group.within (s.ringGroup 0) = false)) ∧
    (let s := wP { wTsk with words := [wC32 1, 0x4001 + 3 <<< 48, wC32 0] };
     0 < 1024 ∧ s.feRuns = true ∧
     let r := s.ring 0;
     ∃ k, k ∈ List.find? (fun k => decide (k.st = PktSt.fetched)) r.pkts ∧ s.ringGood 0 = true ∧
     let base := fld (k.w 1) 47 0;
     let len := 8 * (fld (k.w 1) 59 48 + 1);
     k.badFormat = false ∧ k.badComplement = false ∧ s.badPriv 0 k = false ∧ k.kind = 1 ∧ k.group.onMesh = true ∧
       k.group.within (s.ringGroup 0) = true ∧ k.stored = false ∧ isVirt base = false ∧
       (base % 8 ≠ 0 ∨ s.imemBytes (0 / 64) (s.ringKernel 0) < len ∨ s.reach (0 / 64) base len = false)) ∧
    (let s := { wP wTsk with fe := { (wP wTsk).fe with sit := { on := true } } };
     0 < 1024 ∧ s.feRuns = true ∧
     let r := s.ring 0;
     ∃ k, k ∈ List.find? (fun k => decide (k.st = PktSt.fetched)) r.pkts ∧ s.ringGood 0 = true ∧
     let base := fld (k.w 1) 47 0;
     let len := 8 * (fld (k.w 1) 59 48 + 1);
     k.badFormat = false ∧ k.badComplement = false ∧ s.badPriv 0 k = false ∧ k.kind = 1 ∧ k.group.onMesh = true ∧
       k.group.within (s.ringGroup 0) = true ∧ k.stored = false ∧ isVirt base = false ∧ base % 8 = 0 ∧
       len ≤ s.imemBytes (0 / 64) (s.ringKernel 0) ∧ s.reach (0 / 64) base len = true ∧ s.fe.sit.on = true) ∧
    (let s := wP wTsk;
     0 < 1024 ∧ s.feRuns = true ∧
     let r := s.ring 0;
     ∃ k, k ∈ List.find? (fun k => decide (k.st = PktSt.fetched)) r.pkts ∧ s.ringGood 0 = true ∧
     let base := fld (k.w 1) 47 0;
     let len := 8 * (fld (k.w 1) 59 48 + 1);
     k.badFormat = false ∧ k.badComplement = false ∧ s.badPriv 0 k = false ∧ k.kind = 1 ∧ k.group.onMesh = true ∧
       k.group.within (s.ringGroup 0) = true ∧ k.stored = false ∧ isVirt base = false ∧ base % 8 = 0 ∧
       len ≤ s.imemBytes (0 / 64) (s.ringKernel 0) ∧ s.reach (0 / 64) base len = true ∧ s.fe.sit.on = false) ∧
    (let s := wP { wNop with st := .ended, recorded := true };
     0 < 1024 ∧ s.feRuns = true ∧
     let r := s.ring 0;
     ∃ k ks, r.pkts = k :: ks ∧ r.broken = false ∧ k.st = PktSt.ended ∧ k.recorded = true) ∧
    (let s := wP { wNop with st := .valid };
     0 < 1024 ∧ s.feRuns = true ∧
     let r := s.ring 0;
     ∃ k ks, r.pkts = k :: ks ∧ s.ringGood 0 = true ∧ s.nopOk 0 k = true ∧ k.version = 0 ∧
     let c := s.ringCbase 0 + 32 * (k.count % s.ringSize 0);
     s.reach (0 / 64) c 32 = true ∧ s.plain c 32 = true) := by
  exact ⟨by decide +kernel,
    by decide +kernel,
    by decide +kernel,
    by decide +kernel,
    by decide +kernel,
    by decide +kernel,
    by decide +kernel,
    by decide +kernel,
    by decide +kernel,
    ⟨by decide +kernel, by decide +kernel, ⟨_, _, rfl, by decide +kernel⟩⟩,
    ⟨by decide +kernel, by decide +kernel, ⟨_, _, rfl, by decide +kernel⟩⟩⟩

theorem witness_TasksDispatchStartEnd :
    (let s := wP wVal;
     0 < 1024 ∧ s.feRuns = true ∧ ∃ k, k ∈ s.dispatchable 0 ∧ s.ringGood 0 = true ∧ k.group.onMesh = true ∧
       (s.ringKernel 0 = true ∨ (s.settleTurn (s.ringTurn 0)).holder = some 0) ∧
       ∀ (x : Nat × Nat), x ∈ k.prog → s.clean x.fst x.snd = true ∧ s.touch x.fst = s) ∧
    (let s := wTile { herder := { launches := [{ prog := [0x4C], arg := 42 }] } };
     0 < 1024 ∧ s.feRuns = true ∧
     let t := 0;
     s.tileRuns t = true ∧
       (List.find? (fun l => decide (((s.herder t).ctx l.kctx).st = CtxSt.idle)) (s.herder t).launches).isSome = true) ∧
    (let s := wP { wVal with st := .running };
     0 < 1024 ∧ s.feRuns = true ∧
     let n := 0;
     ∃ k, k ∈ s.pkt 0 n ∧ k.st = PktSt.running ∧ s.taskTiles { count := n } = [] ∧ s.ringGood 0 = true) ∧
    (let s := wP { wVal with st := .running, result := .cancelled };
     0 < 1024 ∧ s.feRuns = true ∧
     ∃ k, k ∈ s.pkt 0 0 ∧ k.st = PktSt.running ∧ s.taskTiles { count := 0 } = [] ∧ s.ringGood 0 = true ∧ k.result = .cancelled) ∧
    (let s := wR2 (wTurn (wP wVal) 20000);
     0 < 1024 ∧ s.feRuns = true ∧
     let x := s.ringTurn 0;
     x.holder = some 0 ∧ x.since + s.ringSlice 0 ≤ s.now ∧ s.ringKernel 0 = false ∧ (s.dispatchable 0).isSome = true ∧
       s.otherReady x 0 = true ∧ (s.turnTo (s.setRings x.part x.grp) x.lastNon).isSome = true) ∧
    (let s := wNow (wP { wVal with words := [wC32 1, 0x4000 + 3 <<< 48, wC32 0, 42, 0, 0, 5, 0] }) 5;
     0 < 1024 ∧ s.feRuns = true ∧
     let n := 0;
     ∃ k, k ∈ s.pkt 0 n ∧ k.live = true ∧ k.missed = false ∧ k.deadline ≠ 0 ∧ k.deadline ≤ s.now) ∧
    (let s := wTurn (wP wVal) 20000;
     0 < 1024 ∧ s.feRuns = true ∧
     let x := s.ringTurn 0;
     x.holder = some 0 ∧ x.since + s.ringSlice 0 ≤ s.now ∧ s.ringKernel 0 = false ∧ (s.dispatchable 0).isSome = true) := by
  exact ⟨by decide +kernel,
    by decide +kernel,
    by decide +kernel,
    by decide +kernel,
    by decide +kernel,
    by decide +kernel,
    by decide +kernel⟩

theorem witness_StallsAndDrains :
    (let s := wRunT { wVal with st := .running } { user := wTask };
     s.feRuns = true ∧
     let hung := List.flatMap (fun gr => List.map (fun k => (gr.fst, k)) (List.filter (s.hung gr.fst) gr.snd.pkts))
         s.fe.rings;
     hung = []) ∧
    (let s := wNow (wRunT { wVal with st := .running } { user := { wTask with wait := .issue } }) 50000000;
     s.feRuns = true ∧
     let hung := List.flatMap (fun gr => List.map (fun k => (gr.fst, k)) (List.filter (s.hung gr.fst) gr.snd.pkts))
         s.fe.rings;
     ∃ g, g < 1024 ∧ ∃ k, hung = [(g, k)] ∧ s.pkt g k.count = some k) ∧
    (let s := wNow (wRunT { wVal with st := .draining 0 0, result := .hung }
        { user := { wTask with st := .draining } }) 5;
     s.feRuns = true ∧
     let g := 0;
     let n := 0;
     let b := 0;
     g < 1024 ∧ ∃ k, k ∈ s.pkt g n ∧ k.st = PktSt.draining 0 b ∧
       ∀ (x : Nat × Bool), x ∈ s.taskTiles { ring := g, count := n } → s.ctxDrained x.fst x.snd = true ∧ s.ringGood g = true ∧
         s.plain (s.ringCbase g + 32 * (n % s.ringSize g)) 32 = true) ∧
    (let s := wNow (wRunT { wVal with st := .draining 0 0, result := .hung }
        { user := { wTask with st := .draining }, board := [{}] }) 1000000;
     s.feRuns = true ∧
     let g := 0;
     let n := 0;
     let b := 0;
     g < 1024 ∧ ∃ k, k ∈ s.pkt g n ∧ k.st = PktSt.draining 0 b ∧ b + 1000000 ≤ s.now ∧
       (s.part (g / 64)).seqOn = false ∧ s.sec.crimson = false ∧ (s.part (g / 64)).st = PartSt.normal) := by
  exact ⟨by decide +kernel,
    ⟨by decide +kernel, ⟨_, by decide +kernel, ⟨_, rfl, by decide +kernel⟩⟩⟩,
    by decide +kernel,
    by decide +kernel⟩

theorem witness_RingCommands_0 :
    (let s := wK (wCmd 1 0 0 0);
     let k := wCmd 1 0 0 0;
     0 < 1024 ∧ s.cmdReady 0 1 = some k ∧ s.pkt 0 k.count = some k ∧ k.version = 0 ∧ s.ringGood 0 = true ∧
       s.plain (s.ringCbase 0 + 32 * (k.count % s.ringSize 0)) 32 = true ∧ 1 = 1) ∧
    (let s := wK (wCmd 2 1 0 0);
     let k := wCmd 2 1 0 0;
     0 < 1024 ∧ s.cmdReady 0 2 = some k ∧ s.pkt 0 k.count = some k ∧ k.version = 0 ∧ s.ringGood 0 = true ∧
       s.plain (s.ringCbase 0 + 32 * (k.count % s.ringSize 0)) 32 = true ∧
     let p := fld (k.w 1) 3 0;
     2 = 2 ∧ s.twinOk (partPage p oLtr) = true ∧ s.firstOk p = true) ∧
    (let s := wK (wCmd 2 0 0 0);
     let k := wCmd 2 0 0 0;
     0 < 1024 ∧ s.cmdReady 0 2 = some k ∧ s.pkt 0 k.count = some k ∧ k.version = 0 ∧ s.ringGood 0 = true ∧
       s.plain (s.ringCbase 0 + 32 * (k.count % s.ringSize 0)) 32 = true ∧
     let p := fld (k.w 1) 3 0;
     s.twinOk (partPage p oLtr) = true ∧ (s.part p).released = true ∧ (s.part p).st = .normal ∧
       s.fe.stopped.contains p = false) ∧
    (let s := wStop (wK (wCmd 2 0 0 0));
     let k := wCmd 2 0 0 0;
     0 < 1024 ∧ s.cmdReady 0 2 = some k ∧ s.pkt 0 k.count = some k ∧ k.version = 0 ∧ s.ringGood 0 = true ∧
       s.plain (s.ringCbase 0 + 32 * (k.count % s.ringSize 0)) 32 = true ∧
     let p := fld (k.w 1) 3 0;
     s.twinOk (partPage p oLtr) = true ∧ (s.part p).released = true ∧ (s.part p).st = .normal ∧
       s.fe.stopped.contains p = true) ∧
    (let s := wWith (wK (wCmd 1 0 0 0)) { wVal with st := .running };
     let k := wCmd 1 0 0 0;
     0 < 1024 ∧ s.cmdReady 0 1 = some k ∧ s.pkt 0 k.count = some k ∧ k.version = 0 ∧ s.ringGood 0 = true ∧
       s.plain (s.ringCbase 0 + 32 * (k.count % s.ringSize 0)) 32 = true ∧ s.userRuns (fld (k.w 1) 3 0) = true) ∧
    (let s := wWith (wK (wCmd 4 1 0 0)) { wVal with st := .running };
     let k := wCmd 4 1 0 0;
     0 < 1024 ∧ s.cmdReady 0 4 = some k ∧ s.pkt 0 k.count = some k ∧ k.version = 0 ∧ s.ringGood 0 = true ∧
       s.plain (s.ringCbase 0 + 32 * (k.count % s.ringSize 0)) 32 = true ∧ s.ringTasks 1 ≠ []) ∧
    (let s := wK (wCmd 3 0 0 0);
     let k := wCmd 3 0 0 0;
     0 < 1024 ∧ s.cmdReady 0 3 = some k ∧ s.pkt 0 k.count = some k ∧ k.version = 0 ∧ s.ringGood 0 = true ∧
       s.plain (s.ringCbase 0 + 32 * (k.count % s.ringSize 0)) 32 = true ∧ 3 = 3) ∧
    (let s := wK (wCmd 4 1 0 0);
     let k := wCmd 4 1 0 0;
     0 < 1024 ∧ s.cmdReady 0 4 = some k ∧ s.pkt 0 k.count = some k ∧ k.version = 0 ∧ s.ringGood 0 = true ∧
       s.plain (s.ringCbase 0 + 32 * (k.count % s.ringSize 0)) 32 = true ∧ 4 = 4) ∧
    (let s := wProg (wK (wCmd 9 5 0x4000 3)) [⟨5, 1, 0x5000, 4, true, 1⟩];
     let k := wCmd 9 5 0x4000 3;
     0 < 1024 ∧ s.cmdReady 0 9 = some k ∧ s.pkt 0 k.count = some k ∧ k.version = 0 ∧ s.ringGood 0 = true ∧
       s.plain (s.ringCbase 0 + 32 * (k.count % s.ringSize 0)) 32 = true ∧
     let own := 0 / 64;
     let id := fld (k.w 1) 7 0;
     9 = 9 ∧ s.livePrograms own id < 4) ∧
    (let s := wProg (wK (wCmd 0xA 5 0 0)) [⟨5, 1, 0x5000, 4, true, 1⟩];
     let k := wCmd 0xA 5 0 0;
     0 < 1024 ∧ s.cmdReady 0 10 = some k ∧ s.pkt 0 k.count = some k ∧ k.version = 0 ∧ s.ringGood 0 = true ∧
       s.plain (s.ringCbase 0 + 32 * (k.count % s.ringSize 0)) 32 = true ∧ 10 = 10) := by
  exact ⟨by decide +kernel,
    by decide +kernel,
    by decide +kernel,
    by decide +kernel,
    by decide +kernel,
    by decide +kernel,
    by decide +kernel,
    by decide +kernel,
    by decide +kernel,
    by decide +kernel⟩

theorem witness_RingCommands_held :
    (let s := wProg (wK (wCmd 9 5 0x4000 3)) [⟨5, 1, 0x5000, 4, false, 1⟩, ⟨5, 2, 0x5000, 4, false, 1⟩,
        ⟨5, 3, 0x5000, 4, false, 1⟩, ⟨5, 4, 0x5000, 4, true, 1⟩];
     let k := wCmd 9 5 0x4000 3;
     s.readyHead 0 = some k ∧ k.opcode = 9 ∧ 4 ≤ s.livePrograms (0 / 64) (fld (k.w 1) 7 0)) := by decide +kernel

theorem witness_RingCommands_1 :
    (let s := wK { wCmd 1 0 0 0 with st := .busy };
     let k := { wCmd 1 0 0 0 with st := .busy };
     s.feRuns = true ∧ s.pkt 0 k.count = some k ∧ s.ringGood 0 = true ∧ s.cmdReady 0 1 = none ∧ s.cmdBusy 0 1 = some k ∧
       s.userRuns (fld (k.w 1) 3 0) = false) ∧
    (let s := wK { wCmd 4 1 0 0 with st := .busy };
     let k := { wCmd 4 1 0 0 with st := .busy };
     s.feRuns = true ∧ s.pkt 0 k.count = some k ∧ s.ringGood 0 = true ∧ s.cmdReady 0 4 = none ∧ s.cmdBusy 0 4 = some k ∧
       s.ringTasks (64 * (0 / 64) + fld (k.w 1) 5 0) = []) := by
  exact ⟨by decide +kernel,
    by decide +kernel⟩

theorem witness_LockWriteAndTimeCommands :
    (let s := wK (wLw (BitVec.ofNat 64 rSecLock) 1 0);
     let k := wLw (BitVec.ofNat 64 rSecLock) 1 0;
     0 < 1024 ∧ s.cmdReady 0 8 = some k ∧ s.pkt 0 k.count = some k ∧ s.ringGood 0 = true ∧
     let v := k.w 2;
     8 = 8 ∧ s.checkRingLocks 0 = s ∧ k.w 3 ≠ ~~~v) ∧
    (let s := wK (wLw 0xF00100000FF0 1 (~~~ 1));
     let k := wLw 0xF00100000FF0 1 (~~~ 1);
     0 < 1024 ∧ s.cmdReady 0 8 = some k ∧ s.pkt 0 k.count = some k ∧ s.ringGood 0 = true ∧
     let a := BitVec.toNat (k.w 1);
     let v := k.w 2;
     let w := Writer.lockWr (0 / 64) (s.ringSys 0);
     8 = 8 ∧ s.checkRingLocks 0 = s ∧ k.w 3 = ~~~v ∧ s.permits w a true = true ∧ s.clearsWl a v = false ∧
     let s' := s.lockedWrite w a v (k.w 3);
     (s'.pkt 0 k.count).isSome = true ∧ s'.ringGood 0 = true) ∧
    (let s := wK (wLw 8 1 (~~~ 1));
     let k := wLw 8 1 (~~~ 1);
     0 < 1024 ∧ s.cmdReady 0 8 = some k ∧ s.pkt 0 k.count = some k ∧ s.ringGood 0 = true ∧
     let a := BitVec.toNat (k.w 1);
     let v := k.w 2;
     let w := Writer.lockWr (0 / 64) (s.ringSys 0);
     8 = 8 ∧ s.checkRingLocks 0 = s ∧ k.w 3 = ~~~v ∧ (s.permits w a true = false ∨ s.clearsWl a v = true) ∧
       s.regF rSecCfg 0 0 = 0) ∧
    (let s := wK (wCmd 0x10 9 7 0);
     let k := wCmd 0x10 9 7 0;
     0 < 1024 ∧ s.cmdReady 0 16 = some k ∧ s.pkt 0 k.count = some k ∧ s.ringGood 0 = true ∧
     let src := s.regF rTimCfg 1 0;
     16 = 16 ∧ src = 0) ∧
    (let s := wK (wCmd 0x11 9 0 0);
     let k := wCmd 0x11 9 0 0;
     0 < 1024 ∧ s.cmdReady 0 17 = some k ∧ s.pkt 0 k.count = some k ∧ s.ringGood 0 = true ∧
     let src := s.regF rTimCfg 1 0;
     17 = 17 ∧ src = 0) ∧
    (let s := (wK (wCmd 0x10 9 7 0)).setReg rTimCfg 0xFD;
     let k := wCmd 0x10 9 7 0;
     0 < 1024 ∧ s.cmdReady 0 16 = some k ∧ s.pkt 0 k.count = some k ∧ s.ringGood 0 = true ∧
     let src := s.regF rTimCfg 1 0;
     16 = 16 ∧ src ≠ 0) ∧
    (let s := (wK (wCmd 0x11 9 0 0)).setReg rTimCfg 0xFE;
     let k := wCmd 0x11 9 0 0;
     0 < 1024 ∧ s.cmdReady 0 17 = some k ∧ s.pkt 0 k.count = some k ∧ s.ringGood 0 = true ∧
     let src := s.regF rTimCfg 1 0;
     17 = 17 ∧ src ≠ 0) := by
  exact ⟨by decide +kernel,
    by decide +kernel,
    by decide +kernel,
    by decide +kernel,
    by decide +kernel,
    by decide +kernel,
    by decide +kernel⟩

theorem witness_SitMode :
    (let s := wK { wCmd 0x20 0 0 0 with st := .fetched };
     ∃ k ∈ (s.ring 0).pkts.find? (fun k => k.st = .fetched), s.feRuns = true ∧ s.pkt 0 k.count = some k ∧
       k.isCmd = true ∧ k.opcode = 0x20 ∧ s.fe.sit.cmd = none ∧ s.twinOk rPwrLtr = true ∧ s.sec.inj.armed = false ∧
       k.badFormat = false ∧ k.badComplement = false ∧ s.badPriv 0 k = false ∧ s.sitWaits 0 = none) ∧
    (let s := wK (wCmd 0x20 0 0 0);
     ∃ k ∈ s.sitWaits 0, s.feRuns = true ∧ s.pkt 0 k.count = some k ∧
       k.isCmd = true ∧ k.opcode = 0x20 ∧ s.fe.sit.cmd = none ∧ s.twinOk rPwrLtr = true ∧ s.sec.inj.armed = false) ∧
    (let s := wSit { toReach := [0], cmd := some {} };
     0 ∈ s.fe.sit.toReach ∧ (s.tile 0).pwr.st = .ivory) ∧
    (let s := wSit { toReach := [1], cmd := some {} };
     1 ∈ s.fe.sit.toReach ∧ (s.tile 1).pwr.st ≠ .ivory) ∧
    (let s := wSit { toReach := [0, 1], cmd := some {} };
     s.fe.sit.toReach.isEmpty = false) ∧
    (let s := wSit { toReport := [0], cmd := some {} };
     ∃ t, t ∈ s.fe.sit.toReport ∧ (s.tile t).sitQuiet = true) ∧
    (let s := wSit { cmd := some {} };
     ∃ c, c ∈ s.fe.sit.cmd ∧ ∃ k, k ∈ s.pkt c.ring c.count ∧ s.fe.sit.toReach = [] ∧ s.fe.sit.toReport = []) := by
  exact ⟨by decide +kernel,
    by decide +kernel,
    by decide +kernel,
    by decide +kernel,
    by decide +kernel,
    by decide +kernel,
    by decide +kernel⟩

theorem witness_RegisterWriteRules :
    (wJet.jetHides Writer.pf rSecCfg = true ∨ wJet.sitHides Writer.pf rSecCfg = true) ∧
    (let w := .herder 0 .u;
     wOk.jetHides w rSecCfg = false ∧ wOk.sitHides w rSecCfg = false ∧ wOk.permits w rSecCfg true = false ∧
       ∃ t l, w = Writer.herder t l) ∧
    (let w := Writer.vf 0;
     wOk.jetHides w rSecCfg = false ∧ wOk.sitHides w rSecCfg = false ∧ wOk.permits w rSecCfg true = false ∧
       ∀ (t : Nat) (l : Level), w ≠ Writer.herder t l) ∧
    (wOk.lets Writer.pf rSecCfg ∧ (Acc.other = Acc.other ∨ rSecCfg % 8 ≠ 0)) ∧
    (let p := Acc.lo.place 0;
     wOk.lets Writer.pf 263887085637616 ∧ Acc.lo ≠ Acc.other ∧ 263887085637616 % 8 = 0 ∧
       findReg 263887085637616 = none ∧ p = 0) ∧
    (let p := Acc.lo.place 1;
     wOk.lets Writer.pf 263887085637616 ∧ Acc.lo ≠ Acc.other ∧ 263887085637616 % 8 = 0 ∧
       findReg 263887085637616 = none ∧ p ≠ 0) ∧
    (wLocked.lets Writer.pf rEnumCfg ∧ Acc.full = Acc.full ∧ ∃ r, r ∈ findReg rEnumCfg ∧
      wLocked.checkLocks rEnumCfg = wLocked ∧ wLocked.lockedFor Writer.pf rEnumCfg ≠ 0 ∧
      r.writable &&& ~~~wLocked.lockedFor Writer.pf rEnumCfg = 0) ∧
    (wOk.lets Writer.pf rRelLogSel ∧ Acc.full = Acc.full ∧ ∃ r, r ∈ findReg rRelLogSel ∧
      wOk.checkLocks rRelLogSel = wOk ∧ wOk.lockedFor Writer.pf rRelLogSel = 0 ∧ isRoute rRelLogSel = false ∧
      r.cwMask = 0 ∧ rRelLogSel ≠ rRelInjCtl ∧ r.refuses 512 allBits 512 = true) ∧
    (wOk.lets Writer.pf rTimNow ∧ Acc.full = Acc.full ∧ ∃ r, r ∈ findReg rTimNow ∧ wOk.checkLocks rTimNow = wOk ∧
      wOk.lockedFor Writer.pf rTimNow = 0 ∧ isRoute rTimNow = false ∧ r.writable = 0 ∧ r.refuses 5 allBits 5 = false) ∧
    (let a := tilePage 0 oNumFlags;
     wOk.takes Writer.pf a Acc.full 1 ∧ plainReg a ∧ (findReg a).isSome = true) := by
  exact ⟨by decide +kernel,
    ⟨by decide +kernel, by decide +kernel, by decide +kernel, ⟨_, _, rfl⟩⟩,
    ⟨by decide +kernel, by decide +kernel, by decide +kernel, fun _ _ => by simp⟩,
    by simp only [lets_iff]; decide +kernel,
    by simp only [lets_iff]; decide +kernel,
    by simp only [lets_iff]; decide +kernel,
    by simp only [lets_iff]; decide +kernel,
    by simp only [lets_iff]; decide +kernel,
    by simp only [lets_iff]; decide +kernel,
    ⟨by simp only [takes_iff]; decide +kernel, .inr (.inl ⟨0, oNumFlags, by decide, by decide, rfl⟩), by decide +kernel⟩⟩

theorem witness_ComplementPairs :
    (let r := regAt rPwrLtr;
     findReg rPwrLtr = some r ∧ r.cwMask ≠ 0 ∧ r.isTwin = false ∧ wOk.takes Writer.pf rPwrLtr Acc.full 5 ∧
       wOk.cwHeld rPwrLtr = false) ∧
    (let r := regAt rPwrLtr;
     findReg rPwrLtr = some r ∧ r.cwMask ≠ 0 ∧ r.isTwin = false ∧ wOk.takes Writer.pf (rPwrLtr + 8) Acc.full 5 ∧
       wOk.cwHeld (rPwrLtr + 8) = false ∧ wOk.cwPend.find rPwrLtr = none) ∧
    (let s := { wOk with cwPend := [(rPwrLtr, 5)] };
     let r := regAt rPwrLtr;
     findReg rPwrLtr = some r ∧ r.cwMask ≠ 0 ∧ r.isTwin = false ∧ s.takes Writer.pf (rPwrLtr + 8) Acc.full 5 ∧
       s.cwHeld (rPwrLtr + 8) = false ∧ s.cwPend.find rPwrLtr = some 5 ∧ ((5 : Word) ^^^ 5) &&& r.cwMask ≠ r.cwMask) ∧
    (let s := { wOk with cwPend := [(rPwrLtr, 5)] };
     let r := regAt rPwrLtr;
     findReg rPwrLtr = some r ∧ r.cwMask ≠ 0 ∧ r.isTwin = false ∧
       s.takes Writer.pf (rPwrLtr + 8) Acc.full 4294967290 ∧ s.cwHeld (rPwrLtr + 8) = false ∧
       s.cwPend.find rPwrLtr = some 5 ∧ ((5 : Word) ^^^ 4294967290) &&& r.cwMask = r.cwMask ∧ rPwrLtr ≠ rPwrJet) := by
  exact ⟨by simp only [takes_iff]; decide +kernel,
    by simp only [takes_iff]; decide +kernel,
    by simp only [takes_iff]; decide +kernel,
    by simp only [takes_iff]; decide +kernel⟩

theorem witness_TileAndPartitionWrites :
    (let s := wFaulted false;
     0 < 1152 ∧ 0 < 16 ∧ s.takes Writer.pf (tilePage 0 oRtvCtl) Acc.full 4 ∧ ∃ q, q < 8 ∧
       ∃ x, x ∈ (s.tile 0).retr.faulted q ∧ 4 = BitVec.ofNat 64 (2 ^ q)) ∧
    (let s := wFaulted false;
     0 < 1152 ∧ 0 < 16 ∧ s.takes Writer.pf (tilePage 0 oRtvFault) Acc.full 8 ∧
       bit (s.reg (tilePage 0 oRtvFault)) 3 = true) ∧
    (let s := wFaulted false;
     0 < 1152 ∧ 0 < 16 ∧ ∃ k, k < 4 ∧ s.takes Writer.pf (tilePage 0 oSclCommit) Acc.full 4 ∧
       ¬k ∈ (s.tile 0).pack.sclPend ∧ (4 = BitVec.ofNat 64 (2 ^ k) ∨ 4 = BitVec.ofNat 64 (2 ^ k + 2 ^ (4 + k)) ∧
       s.arrIdle 0 k = true)) ∧
    (let s := wFaulted false;
     0 < 1152 ∧ 0 < 16 ∧
     let page := partPage 0;
     s.takes Writer.pf (page oXltInv) Acc.full 1) ∧
    (let s := wFaulted false;
     0 < 1152 ∧ 0 < 16 ∧
     let page := partPage 0;
     s.takes Writer.pf (page oPmrCtl) Acc.full 1 ∧ (s.part 0).pmrBusy = false) ∧
    (let s := wFaulted false;
     0 < 1152 ∧ 0 < 16 ∧ s.takes Writer.pf (tilePage 0 oRtvCtl) Acc.full 1024 ∧ ∃ q, q < 8 ∧
       ∃ x, x ∈ (s.tile 0).retr.faulted q ∧ 1024 = BitVec.ofNat 64 (2 ^ (8 + q))) ∧
    (let s := wScl true;
     0 < 1152 ∧ 0 < 16 ∧
     let page := partPage 0;
     s.takes Writer.pf (page oCryptCtl) Acc.full 1 ∧ s.partBusy 0 = false) ∧
    (let s := wArrBusy (wScl true);
     0 < 1152 ∧ 0 < 16 ∧ ∃ k, k < 4 ∧ s.takes Writer.pf (tilePage 0 oSclCommit) Acc.full 17 ∧
       ¬k ∈ (s.tile 0).pack.sclPend ∧ 17 = BitVec.ofNat 64 (2 ^ k + 2 ^ (4 + k)) ∧ s.arrIdle 0 k = false) ∧
    (let s := wPart { invBusy := true };
     0 < 1152 ∧ 0 < 16 ∧ (s.part 0).invBusy = true) ∧
    (0 < 1152 ∧ 0 < 16 ∧
     let page := partPage 0;
     wBusyPart.takes Writer.pf (page oCryptCtl) Acc.full 1 ∧ wBusyPart.partBusy 0 = true) ∧
    (let s := wPart { pmrBusy := true };
     0 < 1152 ∧ 0 < 16 ∧
     let page := partPage 0;
     s.takes Writer.pf (page oPmrCtl) Acc.full 1 ∧ (s.part 0).pmrBusy = true) ∧
    (let s := wPart { pmrBusy := true };
     0 < 1152 ∧ 0 < 16 ∧ (s.part 0).pmrBusy = true) := by
  exact ⟨by simp only [takes_iff]; decide +kernel,
    by simp only [takes_iff]; decide +kernel,
    by simp only [takes_iff]; decide +kernel,
    by simp only [takes_iff]; decide +kernel,
    by simp only [takes_iff]; decide +kernel,
    by simp only [takes_iff]; decide +kernel,
    by simp only [takes_iff]; decide +kernel,
    by simp only [takes_iff]; decide +kernel,
    by decide +kernel,
    by simp only [takes_iff]; decide +kernel,
    by simp only [takes_iff]; decide +kernel,
    by decide +kernel⟩

theorem witness_DoorbellsAndRingConfig :
    (let v := wC32 1;
     0 < 1024 ∧ wRingOff.takes Writer.pf (ringReg 0 oRingDb) Acc.full v ∧ wRingOff.ringEn 0 = false) ∧
    (let s := wFe 1 {} {};
     0 < 1024 ∧
     let tail := fld (1#64) 31 0;
     s.takes Writer.pf (ringReg 0 oRingDb) Acc.full 1 ∧ s.ringEn 0 = true ∧ s.ringGood 0 = true ∧
       fld (1#64) 63 32 ≠ complN 32 tail) ∧
    (let s := wFe 1 {} {};
     let v := wC32 17;
     0 < 1024 ∧
     let r := s.ring 0;
     let tail := fld v 31 0;
     let dist := fun x y => (x + 2 ^ 32 - y) % 2 ^ 32;
     s.takes Writer.pf (ringReg 0 oRingDb) Acc.full v ∧ s.ringEn 0 = true ∧ s.ringGood 0 = true ∧
       fld v 63 32 = complN 32 tail ∧ (s.ringSize 0 < dist tail r.done ∨ dist tail r.done < dist tail r.tail)) ∧
    (let s := wFe 1 {} {};
     let v := wC32 16;
     0 < 1024 ∧
     let r := s.ring 0;
     let tail := fld v 31 0;
     let dist := fun x y => (x + 2 ^ 32 - y) % 2 ^ 32;
     s.takes Writer.pf (ringReg 0 oRingDb) Acc.full v ∧ s.ringEn 0 = true ∧ s.ringGood 0 = true ∧
       fld v 63 32 = complN 32 tail ∧ dist tail r.done ≤ s.ringSize 0 ∧ dist tail r.tail ≤ dist tail r.done ∧
       tail ≠ r.tail) ∧
    (0 < 1024 ∧
     let r := wRingOff.ring 0;
     let a := ringReg 0 oRingCfg;
     wRingOff.lets Writer.pf a ∧ wRingOff.checkLocks a = wRingOff ∧ bit (wRingOff.lockedFor Writer.pf a) 0 = false ∧
       (∀ (i : Reg), findReg a = some i → i.refuses 1 allBits 1 = false ∧
       touchesLock i (wRingOff.regNow a) 1 allBits (wRingOff.lockedFor Writer.pf a) = false) ∧
       wRingOff.ringEn 0 = false ∧ bit (1#64) 0 = true ∧ r.baseWritten = true ∧ r.cbaseWritten = true ∧
       wRingOff.groupOk 0 = true) ∧
    (let s := wFe 0 {} {};
     0 < 1024 ∧
     let r := s.ring 0;
     let a := ringReg 0 oRingCfg;
     s.lets Writer.pf a ∧ s.checkLocks a = s ∧ bit (s.lockedFor Writer.pf a) 0 = false ∧
       (∀ (i : Reg), findReg a = some i → i.refuses 1 allBits 1 = false ∧
       touchesLock i (s.regNow a) 1 allBits (s.lockedFor Writer.pf a) = false) ∧ s.ringEn 0 = false ∧
       bit (1#64) 0 = true ∧ (r.baseWritten = false ∨ r.cbaseWritten = false ∨ s.groupOk 0 = false)) ∧
    (let s := wFe 1 {} {};
     0 < 1024 ∧
     let r := s.ring 0;
     let a := ringReg 0 oRingCfg;
     s.lets Writer.pf a ∧ s.checkLocks a = s ∧ bit (s.lockedFor Writer.pf a) 0 = false ∧
       (∀ (i : Reg), findReg a = some i → i.refuses 0 allBits 0 = false ∧
       touchesLock i (s.regNow a) 0 allBits (s.lockedFor Writer.pf a) = false) ∧ s.ringEn 0 = true ∧ 0 = s.reg a - 1 ∧
       s.lockedFor Writer.pf a = 0 ∧ r.done = r.tail) ∧
    (let s := wFe 1 { tail := 1, tailC := 0xFFFFFFFE, pkts := [wVal] } {};
     0 < 1024 ∧
     let r := s.ring 0;
     let a := ringReg 0 oRingCfg;
     s.lets Writer.pf a ∧ s.checkLocks a = s ∧ bit (s.lockedFor Writer.pf a) 0 = false ∧
       (∀ (i : Reg), findReg a = some i → i.refuses 0 allBits 0 = false ∧
       touchesLock i (s.regNow a) 0 allBits (s.lockedFor Writer.pf a) = false) ∧ s.ringEn 0 = true ∧ 0 = s.reg a - 1 ∧
       s.lockedFor Writer.pf a = 0 ∧ r.done ≠ r.tail) := by
  exact ⟨by simp only [takes_iff]; decide +kernel,
    by simp only [takes_iff]; decide +kernel,
    by simp only [takes_iff]; decide +kernel,
    by simp only [takes_iff]; decide +kernel,
    by simp only [lets_iff]; decide +kernel,
    by simp only [lets_iff]; decide +kernel,
    by simp only [lets_iff]; decide +kernel,
    by simp only [lets_iff]; decide +kernel⟩

theorem witness_LinkTraining :
    (let s := wLk { st := .detect };
     0 < 36 ∧
     let l := s.linkOf 0;
     l.st = LnkSt.detect) ∧
    (let s := wLk { st := .detect };
     0 < 36 ∧
     let l := s.linkOf 0;
     let w := Writer.pf;
     let v : Word := 0;
     s.takes w (linkReg 0 0) Acc.full v ∧ bit v 0 = false ∧ bit v 1 = false ∧ bit v 2 = false ∧ l.st ≠ LnkSt.disabled) ∧
    (let s := wLk { st := .equalize };
     0 < 36 ∧
     let l := s.linkOf 0;
     l.st = LnkSt.equalize) ∧
    (let s := wLk { st := .equalize };
     0 < 36 ∧
     let l := s.linkOf 0;
     (l.st = LnkSt.equalize ∨ l.st = LnkSt.align ∨ l.st = LnkSt.caps ∨ l.st = LnkSt.measure) ∧ l.returns < 2) ∧
    (let s := wLk { st := .equalize };
     0 < 36 ∧
     let l := s.linkOf 0;
     l.st ≠ LnkSt.disabled ∧ l.st ≠ LnkSt.detect ∧ l.st ≠ LnkSt.down) ∧
    (let s := wLk { st := .align, loss := 401 };
     0 < 36 ∧
     let l := s.linkOf 0;
     l.st = LnkSt.align ∧
     let worst := max l.loss 0;
     400 < worst) ∧
    (let s := wLk { st := .align, loss := 400 };
     0 < 36 ∧
     let l := s.linkOf 0;
     l.st = LnkSt.align ∧
     let worst := max l.loss 400;
     let both := 126 % 256 &&& 255 % 256;
     worst ≤ 400 ∧ both &&& 15 ≠ 15 ∧ both &&& 240 ≠ 240) ∧
    (let s := wLk { st := .align, loss := 400 };
     0 < 36 ∧
     let l := s.linkOf 0;
     l.st = LnkSt.align ∧
     let worst := max l.loss 400;
     let both := 240 % 256 &&& 255 % 256;
     worst ≤ 400 ∧ (both &&& 15 = 15 ∨ both &&& 240 = 240)) ∧
    (let s := wLk { st := .caps, lcfIn := some { cmd := 4, caps := wCaps 77 } };
     0 < 36 ∧
     let l := s.linkOf 0;
     ∃ c, c ∈ s.lcf 0 4 ∧ l.st = LnkSt.caps ∧ s.capsReject c.caps = none) ∧
    (let s := wLk { st := .caps, lcfIn := some { cmd := 4, caps := wCaps 0 } };
     0 < 36 ∧
     let l := s.linkOf 0;
     ∃ c, c ∈ s.lcf 0 4 ∧ l.st = LnkSt.caps ∧ (s.capsReject c.caps).isSome = true) ∧
    (let s := wLk { st := .measure };
     0 < 36 ∧
     let l := s.linkOf 0;
     l.st = LnkSt.measure) ∧
    (let s := wLk { st := .measure, returns := 2 };
     0 < 36 ∧
     let l := s.linkOf 0;
     (l.st = LnkSt.equalize ∨ l.st = LnkSt.align ∨ l.st = LnkSt.caps ∨ l.st = LnkSt.measure) ∧ 2 ≤ l.returns) ∧
    (let s := wLk { st := .narrow };
     0 < 36 ∧
     let l := s.linkOf 0;
     l.st = LnkSt.narrow) ∧
    (let s := wLk { st := .down, reason := .signal };
     0 < 36 ∧
     let l := s.linkOf 0;
     l.st = LnkSt.down ∧
       (l.reason = DownReason.signal ∨ l.reason = DownReason.ladder ∨ l.reason = DownReason.partner)) ∧
    (let s := wLk {};
     0 < 36 ∧
     let l := s.linkOf 0;
     s.takes Writer.pf (linkReg 0 0) Acc.full 1 ∧ bit (1#64) 0 = true ∧ bit (1#64) 1 = false ∧ bit (1#64) 2 = false ∧
       l.st = LnkSt.disabled ∧ s.linksMayTrain = true) ∧
    (let s := wLk { st := .down };
     0 < 36 ∧
     let l := s.linkOf 0;
     s.takes Writer.pf (linkReg 0 0) Acc.full 3 ∧ bit (3#64) 0 = true ∧ bit (3#64) 1 = true ∧ bit (3#64) 2 = false ∧
       l.st = LnkSt.down) ∧
    (let s := wLk { st := .active };
     0 < 36 ∧
     let l := s.linkOf 0;
     s.takes Writer.pf (linkReg 0 0) Acc.full 3 ∧ bit (3#64) 0 = true ∧ bit (3#64) 1 = true ∧ bit (3#64) 2 = false ∧
       l.st ≠ LnkSt.down ∧ l.st ≠ LnkSt.disabled) ∧
    (let s := wLk { st := .active };
     0 < 36 ∧
     let l := s.linkOf 0;
     s.takes Writer.pf (linkReg 0 0) Acc.full 5 ∧ bit (5#64) 0 = true ∧ bit (5#64) 1 = false ∧ bit (5#64) 2 = true ∧
       l.st = LnkSt.active) := by
  exact ⟨by decide +kernel,
    by simp only [takes_iff]; decide +kernel,
    by decide +kernel,
    by decide +kernel,
    by decide +kernel,
    by decide +kernel,
    by decide +kernel,
    by decide +kernel,
    by decide +kernel,
    by decide +kernel,
    by decide +kernel,
    by decide +kernel,
    by decide +kernel,
    by decide +kernel,
    by simp only [takes_iff]; decide +kernel,
    by simp only [takes_iff]; decide +kernel,
    by simp only [takes_iff]; decide +kernel,
    by simp only [takes_iff]; decide +kernel⟩

/-- Link 0 is ACTIVE, has acknowledged nothing, keeps the flits 0 and 1, and has received the blocks of a flit. -/
def wGot (bytes : List Byte) : State :=
  wActive { ack := 0xFFF, kept := [wKept 0, wKept 1], nextSeq := 2, rxLock := true,
            rxBlocks := (flitBlocks bytes).map (fun b => { bits := b }) }

theorem witness_FlitsAndReplay :
    (List.replicate 20 (0 : BitVec 257)).length = 20 ∧
    ([(1 : BitVec 10), 5].length = 2 ∧ [(2 : BitVec 10), 6].length = 2 ∧ 1 < 2) ∧
    linkCode.decode (List.replicate 544 0) = some (List.replicate 544 0, []) ∧
    (let s := wActive { pos := 34 }; let v := s.retryStuck 0; let m := v.linkOf 0
     m.st = .active ∧ v.sec.inj.armed = false ∧ m.replay = none ∧ m.pos % 35 = 34 ∧ m.lcfOut.cmd ≠ 2) ∧
    (let s := wActive { pos := 34, lcfOut := { cmd := 2 } }; let v := s.retryStuck 0; let m := v.linkOf 0
     m.st = .active ∧ v.sec.inj.armed = false ∧ m.replay = none ∧ m.pos % 35 = 34 ∧ m.lcfOut.cmd = 2) ∧
    (let s := wActive { blocks := List.replicate 16 0 }; let v := s.retryStuck 0; let m := v.linkOf 0
     m.st = .active ∧ v.sec.inj.armed = false ∧ m.replay = none ∧ m.pos % 35 ≠ 34 ∧ m.fill.slots = [] ∧
       20 ≤ (m.blocks ++ List.replicate 8 0).length) ∧
    (let s := wActive { txq := [wRd] }; let v := s.retryStuck 0; let m := v.linkOf 0
     m.st = .active ∧ v.sec.inj.armed = false ∧ m.replay = none ∧ m.pos % 35 ≠ 34 ∧ m.fill.slots ≠ [] ∧ m.kept.length < 512) ∧
    (let s := wActive { kept := [wKept 0, wKept 1], nextSeq := 2, replay := some 2 }; let v := s.retryStuck 0; let m := v.linkOf 0
     m.st = .active ∧ v.sec.inj.armed = false ∧ m.kept ≠ [] ∧ m.pos % 35 ≠ 34 ∧ m.replay = some 2 ∧
       (m.kept[m.kept.length - 2]?).isSome = true) ∧
    (let s := wLk { st := .caps }
     ((s.retryStuck 0).linkOf 0).st = .caps) ∧
    (let l := (wActive { rxLock := true }).linkOf 0; l.rxLock = true ∧ List.replicate 544 (0 : BitVec 10) ≠ []) ∧
    (linkCode.decode [1] = none ∧ [(1 : BitVec 10)] ≠ []) ∧
    (let s := wActive {}
     (s.linkOf 0).receives = true ∧ ((s.takeCodeword 0 []).linkOf 0).nextFlit = none) ∧
    (let s := wGot (wFlit 3 [5, 0, 8, 0])
     (s.linkOf 0).receives = true ∧ ∃ z, z ∈ ((s.takeCodeword 0 []).linkOf 0).nextFlit ∧ goodLcf z.1 z.2 = true ∧
       nfld (ofBytesLE (z.1.take 16)) 28 28 = 0 ∧ ofBytesLE ((z.1.drop 0x10).take 1) ≠ 0) ∧
    (let s := wGot (List.replicate 256 1)
     (s.linkOf 0).st = .active ∧ ∃ z, z ∈ ((s.takeCodeword 0 []).linkOf 0).nextFlit ∧ flitGood z.1 z.2 = false ∧
       nfld (ofBytesLE (z.1.take 16)) 3 0 = 1) ∧
    (let s := wGot (({ st := .active, nextSeq := 1, ack := 0 } : Link).dataFlit (wKept 0) 0 false)
     (s.linkOf 0).st = .active ∧ ∃ z, z ∈ ((s.takeCodeword 0 []).linkOf 0).nextFlit ∧ flitGood z.1 z.2 = true ∧
       let hdr := ofBytesLE (z.1.take 16)
       nfld hdr 28 28 = 0 ∧ (((s.takeCodeword 0 []).linkOf 0).kept.findIdx? (fun f => f.seq == nfld hdr 27 16)).isSome = true ∧
       nfld hdr 3 0 = 1 ∧ nfld hdr 15 4 = (((s.takeCodeword 0 []).linkOf 0).ack + 1) % 4096) ∧
    (let s := wGot (({ st := .active, nextSeq := 1, ack := 0 } : Link).dataFlit (wKept 1) 0 false)
     ∃ z, z ∈ ((s.takeCodeword 0 []).linkOf 0).nextFlit ∧ flitGood z.1 z.2 = true ∧
       let hdr := ofBytesLE (z.1.take 16)
       nfld hdr 28 28 = 0 ∧ nfld hdr 3 0 = 1 ∧ nfld hdr 15 4 ≠ (((s.takeCodeword 0 []).linkOf 0).ack + 1) % 4096) ∧
    (let l := (wActive { kept := [wKept 0], nextSeq := 1 }).linkOf 0
     l.st = .active ∧ l.kept ≠ [] ∧ l.replay = none ∧ l.narrowReq = none ∧ l.lcfOut.cmd ≠ 2 ∧ l.attempts < 8) ∧
    (let l := (wActive { kept := [wKept 0], nextSeq := 1, attempts := 8 }).linkOf 0
     l.st = .active ∧ l.kept ≠ [] ∧ l.replay = none ∧ l.narrowReq = none ∧ l.lcfOut.cmd ≠ 2 ∧ 8 ≤ l.attempts ∧ l.narrow = false) ∧
    (let l := (wActive { kept := [wKept 0], nextSeq := 1, attempts := 8, narrow := true }).linkOf 0
     l.st = .active ∧ l.kept ≠ [] ∧ l.replay = none ∧ l.narrowReq = none ∧ l.lcfOut.cmd ≠ 2 ∧ 8 ≤ l.attempts ∧ l.narrow = true) := by
  exact ⟨by decide +kernel,
    by decide +kernel,
    by decide +kernel,
    by decide +kernel,
    by decide +kernel,
    by decide +kernel,
    by decide +kernel,
    by decide +kernel,
    by decide +kernel,
    by decide +kernel,
    by decide +kernel,
    by decide +kernel,
    by decide +kernel,
    by decide +kernel,
    by decide +kernel,
    by decide +kernel,
    by decide +kernel,
    by decide +kernel,
    by decide +kernel⟩

theorem witness_LinkControlCommands :
    (let s := wActive { lcfIn := some { cmd := 1 } };
     0 < 36 ∧
     let l := s.linkOf 0;
     ∃ c, c ∈ s.lcf 0 1 ∧ l.st = LnkSt.active ∧ l.narrow = false ∧ (l.narrowReq = none ∨ s.lowSerial 0 = false)) ∧
    (let s := wActive { lcfIn := some { cmd := 1 }, narrowReq := some 1, partner := { serial := 9 } };
     0 < 36 ∧
     let l := s.linkOf 0;
     ∃ c, c ∈ s.lcf 0 1 ∧ l.narrowReq.isSome = true ∧ s.lowSerial 0 = true) ∧
    (let s := wActive { lcfIn := some { cmd := 2, arg := 1 }, narrowReq := some 1 };
     0 < 36 ∧
     let l := s.linkOf 0;
     let c := { cmd := 2, arg := 1 };
     s.lcf 0 2 = some c ∧ l.narrowReq = some 1 ∧ l.st = LnkSt.active ∧ c.arg = 1) ∧
    (let s := wLk { st := .narrow, kept := [wKept 0], half := 1 };
     0 < 36 ∧
     let l := s.linkOf 0;
     l.st = LnkSt.narrow) ∧
    (let s := wActive { lcfIn := some { cmd := 3 } };
     0 < 36 ∧
     let l := s.linkOf 0;
     ∃ c, c ∈ s.lcf 0 3 ∧ l.st ≠ LnkSt.down ∧ l.st ≠ LnkSt.disabled) ∧
    (let s := wActive { lcfIn := some { cmd := 5, id := 8 } };
     0 < 36 ∧ (s.lcf 0 5).isSome = true) := by
  exact ⟨by decide +kernel,
    by decide +kernel,
    by decide +kernel,
    by decide +kernel,
    by decide +kernel,
    by decide +kernel⟩

theorem witness_RequestsOfOtherModules :
    (let s := wIn { wRd with addr := 0x2000000000 };
     let s1 := wTaken (wIn { wRd with addr := 0x2000000000 });
     let r := { txn := { wRd with addr := 0x2000000000 } };
     let x := r.txn;
     ∃ i, i ∈ [(Instr.rd 0, VC.req, TType.rd), (Instr.wr 0 0, VC.req, TType.wr), (Instr.wr 0 2, VC.sled, TType.wr),
         (Instr.wr 0 3, VC.chain, TType.wr), (Instr.aadd 0, VC.req, TType.aadd), (Instr.hiricQadd 0, VC.chain,
         TType.qadd), (Instr.hiricList 0, VC.chain, TType.list), (Instr.hiricHput 0, VC.req, TType.hput),
         (Instr.doorbell 0, VC.msg, TType.doorbell)] ∧
       (s.takeRx 0 i.snd.fst fun x => x.type == i.snd.snd) = some (r, s1) ∧ s.link.en.devid ≠ 16383 ∧
       x.dst = s.link.en.devid ∧ s.admitted x = false) ∧
    (let s := wIn { wRd with dst := 6, hops := 3 };
     let s1 := wTaken (wIn { wRd with dst := 6, hops := 3 });
     let r := { txn := { wRd with dst := 6, hops := 3 } };
     let x := r.txn;
     ∃ i, i ∈ [(Instr.rd 0, VC.req, TType.rd), (Instr.wr 0 0, VC.req, TType.wr), (Instr.wr 0 2, VC.sled, TType.wr),
         (Instr.wr 0 3, VC.chain, TType.wr), (Instr.aadd 0, VC.req, TType.aadd), (Instr.hiricQadd 0, VC.chain,
         TType.qadd), (Instr.hiricList 0, VC.chain, TType.list), (Instr.hiricHput 0, VC.req, TType.hput),
         (Instr.doorbell 0, VC.msg, TType.doorbell)] ∧
       (s.takeRx 0 i.snd.fst fun x => x.type == i.snd.snd) = some (r, s1) ∧ s.link.en.devid ≠ 16383 ∧
       x.dst ≠ s.link.en.devid ∧ s.fe.sit.on = false ∧ 0 < x.hops ∧
       (s1.sendTxn { x with hops := x.hops - 1 }).1.isSome = true) ∧
    (let s := wIn { wRd with dst := 7, hops := 3 };
     let s1 := wTaken (wIn { wRd with dst := 7, hops := 3 });
     let r := { txn := { wRd with dst := 7, hops := 3 } };
     let x := r.txn;
     ∃ i, i ∈ [(Instr.rd 0, VC.req, TType.rd), (Instr.wr 0 0, VC.req, TType.wr), (Instr.wr 0 2, VC.sled, TType.wr),
         (Instr.wr 0 3, VC.chain, TType.wr), (Instr.aadd 0, VC.req, TType.aadd), (Instr.hiricQadd 0, VC.chain,
         TType.qadd), (Instr.hiricList 0, VC.chain, TType.list), (Instr.hiricHput 0, VC.req, TType.hput),
         (Instr.doorbell 0, VC.msg, TType.doorbell)] ∧
       (s.takeRx 0 i.snd.fst fun x => x.type == i.snd.snd) = some (r, s1) ∧ s.link.en.devid ≠ 16383 ∧
       x.dst ≠ s.link.en.devid ∧ s.fe.sit.on = false ∧ 0 < x.hops ∧
       (s1.sendTxn { x with hops := x.hops - 1 }).1 = none ∧ x.type.isResp = false) ∧
    (let x := { wRd with dst := 6, hops := 0 };
     (wIn x).takeRx 0 VC.req (fun x => x.type == TType.rd) = some ({ txn := x }, wTaken (wIn x)) ∧
       (wIn x).link.en.devid ≠ 16383 ∧ x.dst ≠ (wIn x).link.en.devid ∧ (wIn x).fe.sit.on = false ∧ x.hops = 0 ∧
       x.type.isResp = false) ∧
    (let x := wRd
     let s := { wIn x with link := { (wIn x).link with en := {} } };
     s.takeRx 0 VC.req (fun x => x.type == TType.rd) = some ({ txn := x }, wTaken s) ∧
       s.link.en.devid = 0x3FFF ∧ x.type.isResp = false) ∧
    (let x := wRet
     (wIn x).takeRx 0 VC.chain (fun x => x.type == TType.wr) = some ({ txn := x }, wTaken (wIn x)) ∧
       (wIn x).link.en.devid ≠ 16383 ∧ x.dst = (wIn x).link.en.devid ∧ (wIn x).admitted x = true ∧
       ((wIn x).beats ++ ((wIn x).tile x.chainBeat.dst).held) = [] ∧
       (wTaken (wIn x)).acceptBeat x.chainBeat.dst x.chainBeat = none) ∧
    (let s := wIn wRd;
     let s1 := wTaken (wIn wRd);
     let r := { txn := wRd };
     let x := r.txn;
     (s.takeRx 0 VC.req fun x => x.type == TType.rd) = some (r, s1) ∧ s.link.en.devid ≠ 16383 ∧
       x.dst = s.link.en.devid ∧ s.admitted x = true ∧ populated x.addr x.len = true ∧ s.targetReady x.addr = true ∧
       s.clean x.addr x.len = true) ∧
    (let s := wIn wWr;
     let s1 := wTaken (wIn wWr);
     let r := { txn := wWr };
     let x := r.txn;
     (s.takeRx 0 VC.req fun x => x.type == TType.wr) = some (r, s1) ∧ s.link.en.devid ≠ 16383 ∧
       x.dst = s.link.en.devid ∧ s.admitted x = true ∧ populated x.addr x.data.length = true ∧
       populated x.addr x.len = true ∧ s.targetReady x.addr = true ∧ x.status ≠ 5) ∧
    (let s := wIn { wWr with status := 5 };
     let s1 := wTaken (wIn { wWr with status := 5 });
     let r := { txn := { wWr with status := 5 } };
     let x := r.txn;
     (s.takeRx 0 VC.req fun x => x.type == TType.wr) = some (r, s1) ∧ s.link.en.devid ≠ 16383 ∧
       x.dst = s.link.en.devid ∧ s.admitted x = true ∧ populated x.addr x.data.length = true ∧
       populated x.addr x.len = true ∧ s.targetReady x.addr = true ∧ x.status = 5) ∧
    (let s := wIn { wWr with type := .aadd };
     let s1 := wTaken (wIn { wWr with type := .aadd });
     let r := { txn := { wWr with type := .aadd } };
     let x := r.txn;
     (s.takeRx 0 VC.req fun x => x.type == TType.aadd) = some (r, s1) ∧ s.link.en.devid ≠ 16383 ∧
       x.dst = s.link.en.devid ∧ s.admitted x = true ∧ populated x.addr x.len = true ∧ populated x.addr 8 = true ∧
       s.targetReady x.addr = true ∧ s.clean x.addr 8 = true ∧ x.status ≠ 5) ∧
    (let s := wIn wSled2;
     let s1 := wTaken (wIn wSled2);
     let r := { txn := wSled2 };
     let x := r.txn;
     (s.takeRx 0 VC.sled fun x => x.type == TType.wr) = some (r, s1) ∧ s.link.en.devid ≠ 16383 ∧
       x.dst = s.link.en.devid ∧ s.admitted x = true) ∧
    (let s := { wIn wRet with beats := [wRet.chainBeat] };
     let s1 := wTaken { wIn wRet with beats := [wRet.chainBeat] };
     let r := { txn := wRet };
     let x := r.txn;
     ∃ i, i ∈ [(Instr.wr 0 3, TType.wr), (Instr.hiricQadd 0, TType.qadd), (Instr.hiricList 0, TType.list)] ∧
       (s.takeRx 0 VC.chain fun x => x.type == i.snd) = some (r, s1) ∧ s.link.en.devid ≠ 16383 ∧
       x.dst = s.link.en.devid ∧ s.admitted x = true ∧
     let b := x.chainBeat;
     let earlier := List.filter (fun y => decide (y.dst = b.dst ∧ y.src = b.src ∧
       y.srcDev = b.srcDev)) (s.beats ++ (s.tile b.dst).held);
     earlier ≠ []) ∧
    (let s := wStaged wQadd;
     let s1 := wTaken (wStaged wQadd);
     let r := { txn := wQadd };
     let x := r.txn;
     ∃ i, i ∈ [(Instr.wr 0 3, TType.wr), (Instr.hiricQadd 0, TType.qadd), (Instr.hiricList 0, TType.list)] ∧
       (s.takeRx 0 VC.chain fun x => x.type == i.snd) = some (r, s1) ∧ s.link.en.devid ≠ 16383 ∧
       x.dst = s.link.en.devid ∧ s.admitted x = true ∧
     let b := x.chainBeat;
     let earlier := List.filter (fun y => decide (y.dst = b.dst ∧ y.src = b.src ∧
       y.srcDev = b.srcDev)) (s.beats ++ (s.tile b.dst).held);
     earlier = [] ∧ (s1.acceptBeat b.dst b).isSome = true) ∧
    (let s := wIn wHput;
     let s1 := wTaken (wIn wHput);
     let r := { txn := wHput };
     let x := r.txn;
     (s.takeRx 0 VC.req fun x => x.type == TType.hput) = some (r, s1) ∧ s.link.en.devid ≠ 16383 ∧
       x.dst = s.link.en.devid ∧ s.admitted x = true ∧
     let t := x.addr % 2048;
     let q := x.addr / 2048 % 8;
     let l := SMap.get [] (s.herder t).hq q;
     (s.tile t).pwr.st = PwrSt.ivory ∧ l.length < 32) ∧
    (let s1 := wTaken wAdm;
     let r := { txn := wBellT };
     let x := r.txn;
     (wAdm.takeRx 0 VC.msg fun x => x.type == TType.doorbell) = some (r, s1) ∧ wAdm.link.en.devid ≠ 16383 ∧
       x.dst = wAdm.link.en.devid ∧ wAdm.admitted x = true) ∧
    (let s1 := wTaken wHq32;
     let r := { txn := wHput };
     let x := r.txn;
     (wHq32.takeRx 0 VC.req fun x => x.type == TType.hput) = some (r, s1) ∧ wHq32.link.en.devid ≠ 16383 ∧
       x.dst = wHq32.link.en.devid ∧ wHq32.admitted x = true ∧
     let t := x.addr % 2048;
     let q := x.addr / 2048 % 8;
     let l := SMap.get [] (wHq32.herder t).hq q;
     (wHq32.tile t).pwr.st = PwrSt.ivory ∧ 32 ≤ l.length) := by
  exact ⟨by decide +kernel,
    by decide +kernel,
    by decide +kernel,
    by decide +kernel,
    by decide +kernel,
    by decide +kernel,
    by decide +kernel,
    by decide +kernel,
    by decide +kernel,
    by decide +kernel,
    by decide +kernel,
    by decide +kernel,
    by decide +kernel,
    by decide +kernel,
    by decide +kernel,
    by decide +kernel⟩

theorem witness_ResponsesEndRequests_0 :
    (let s := wIn (wRsp .wra 0 0);
     let s1 := wTaken (wIn (wRsp .wra 0 0));
     let r := { txn := wRsp .wra 0 0 };
     let y := r.txn;
     ∃ i, i ∈ [(Instr.rdr 0, TType.rdr), (Instr.wra 0, TType.wra), (Instr.aadr 0, TType.aadr), (Instr.qaa 0,
         TType.qaa), (Instr.hpa 0, TType.hpa)] ∧ (s.takeRx 0 VC.rsp fun x => x.type == i.snd) = some (r, s1) ∧
       s.link.en.devid ≠ 16383 ∧ y.dst = s.link.en.devid ∧
       List.find? (fun o => o.tile == y.srcTile && o.tag == y.tag) s1.link.outst = none) ∧
    (let s := wAns (wRsp .rdr 0x7FF 0) .mailbox {};
     let s1 := wAnsS (wRsp .rdr 0x7FF 0) .mailbox {};
     let r := { txn := wRsp .rdr 0x7FF 0 };
     let o := wPurp (wRsp .rdr 0x7FF 0) .mailbox;
     let y := r.txn;
     ∃ i, i ∈ [(Instr.rdr 0, TType.rdr), (Instr.wra 0, TType.wra), (Instr.aadr 0, TType.aadr), (Instr.qaa 0,
         TType.qaa), (Instr.hpa 0, TType.hpa)] ∧ (s.takeRx 0 VC.rsp fun x => x.type == i.snd) = some (r, s1) ∧
       s.link.en.devid ≠ 16383 ∧ y.dst = s.link.en.devid ∧
       List.find? (fun o => o.tile == y.srcTile && o.tag == y.tag) s1.link.outst = some o ∧ o.what = Purpose.mailbox ∧
       o.tile = 2047 ∧ y.status ≤ 3) ∧
    (let s := wAns (wRsp .hpa 0 0) (.handle 0) wOutH;
     let s1 := wAnsS (wRsp .hpa 0 0) (.handle 0) wOutH;
     let r := { txn := wRsp .hpa 0 0 };
     let o := wPurp (wRsp .hpa 0 0) (.handle 0);
     let y := r.txn;
     ∃ i, i ∈ [(Instr.rdr 0, TType.rdr), (Instr.wra 0, TType.wra), (Instr.aadr 0, TType.aadr), (Instr.qaa 0,
         TType.qaa), (Instr.hpa 0, TType.hpa)] ∧ (s.takeRx 0 VC.rsp fun x => x.type == i.snd) = some (r, s1) ∧
       s.link.en.devid ≠ 16383 ∧ y.dst = s.link.en.devid ∧
       List.find? (fun o => o.tile == y.srcTile && o.tag == y.tag) s1.link.outst = some o ∧ o.tile < 1152 ∧
       y.status = 0 ∧ o.what = Purpose.handle 0 ∧ ∃ h, h ∈ (s1.herder 0).out.head? ∧ h.sent = true ∧
       (Target.ofWord h.target).remote = true ∧ h.tag = y.tag) ∧
    (let s := wAns (wRsp .rdr 0 0) (.rtvRead 0 false 0) (wStT
        { wStrm .copy with works := [{ wWork .copy 0x1000 with pos := 8 }], reads := [wRq] });
     let s1 := wAnsS (wRsp .rdr 0 0) (.rtvRead 0 false 0) (wStT
         { wStrm .copy with works := [{ wWork .copy 0x1000 with pos := 8 }], reads := [wRq] });
     let r := { txn := wRsp .rdr 0 0 };
     let o := wPurp (wRsp .rdr 0 0) (.rtvRead 0 false 0);
     let y := r.txn;
     ∃ i, i ∈ [(Instr.rdr 0, TType.rdr), (Instr.wra 0, TType.wra), (Instr.aadr 0, TType.aadr), (Instr.qaa 0,
         TType.qaa), (Instr.hpa 0, TType.hpa)] ∧ (s.takeRx 0 VC.rsp fun x => x.type == i.snd) = some (r, s1) ∧
       s.link.en.devid ≠ 16383 ∧ y.dst = s.link.en.devid ∧
       List.find? (fun o => o.tile == y.srcTile && o.tag == y.tag) s1.link.outst = some o ∧ o.tile < 1152 ∧
       y.status = 0 ∧ o.what = Purpose.rtvRead 0 false 0 ∧ ∃ x, x ∈ s1.stream 0 false 0 ∧
       (List.find? (fun z => z.dev.isSome && z.tag == y.tag) x.reads).isSome = true) ∧
    (let s := wAns (wRsp .wra 0 0) (.rtvWrite 0 false 0) (wStT { wStrm .copy with wout := [wWq] });
     let s1 := wAnsS (wRsp .wra 0 0) (.rtvWrite 0 false 0) (wStT { wStrm .copy with wout := [wWq] });
     let r := { txn := wRsp .wra 0 0 };
     let o := wPurp (wRsp .wra 0 0) (.rtvWrite 0 false 0);
     let y := r.txn;
     ∃ i, i ∈ [(Instr.rdr 0, TType.rdr), (Instr.wra 0, TType.wra), (Instr.aadr 0, TType.aadr), (Instr.qaa 0,
         TType.qaa), (Instr.hpa 0, TType.hpa)] ∧ (s.takeRx 0 VC.rsp fun x => x.type == i.snd) = some (r, s1) ∧
       s.link.en.devid ≠ 16383 ∧ y.dst = s.link.en.devid ∧
       List.find? (fun o => o.tile == y.srcTile && o.tag == y.tag) s1.link.outst = some o ∧ o.tile < 1152 ∧
       y.status = 0 ∧ o.what = Purpose.rtvWrite 0 false 0 ∧ ∃ x, x ∈ s1.stream 0 false 0 ∧
       (List.find? (fun z => z.dev.isSome && z.tag == y.tag) x.wout).isSome = true) ∧
    (let s := wAns (wRsp .wra 0 0) (.poison 0) {};
     let s1 := wAnsS (wRsp .wra 0 0) (.poison 0) {};
     let r := { txn := wRsp .wra 0 0 };
     let o := wPurp (wRsp .wra 0 0) (.poison 0);
     let y := r.txn;
     ∃ i, i ∈ [(Instr.rdr 0, TType.rdr), (Instr.wra 0, TType.wra), (Instr.aadr 0, TType.aadr), (Instr.qaa 0,
         TType.qaa), (Instr.hpa 0, TType.hpa)] ∧ (s.takeRx 0 VC.rsp fun x => x.type == i.snd) = some (r, s1) ∧
       s.link.en.devid ≠ 16383 ∧ y.dst = s.link.en.devid ∧
       List.find? (fun o => o.tile == y.srcTile && o.tag == y.tag) s1.link.outst = some o ∧ o.tile < 1152 ∧
       y.status = 0 ∧ o.what = Purpose.poison 0) ∧
    (let s := wAns (wRsp .hpa 0 1) (.handle 0) wOutH;
     let s1 := wAnsS (wRsp .hpa 0 1) (.handle 0) wOutH;
     let r := { txn := wRsp .hpa 0 1 };
     let o := wPurp (wRsp .hpa 0 1) (.handle 0);
     let y := r.txn;
     ∃ i, i ∈ [(Instr.rdr 0, TType.rdr), (Instr.wra 0, TType.wra), (Instr.aadr 0, TType.aadr), (Instr.qaa 0,
         TType.qaa), (Instr.hpa 0, TType.hpa)] ∧ (s.takeRx 0 VC.rsp fun x => x.type == i.snd) = some (r, s1) ∧
       s.link.en.devid ≠ 16383 ∧ y.dst = s.link.en.devid ∧
       List.find? (fun o => o.tile == y.srcTile && o.tag == y.tag) s1.link.outst = some o ∧ o.tile < 1152 ∧
       y.status = 1 ∧ o.what = Purpose.handle 0 ∧ ∃ h, h ∈ (s1.herder 0).out.head? ∧ h.sent = true ∧
       (Target.ofWord h.target).remote = true ∧ h.tag = y.tag) ∧
    (let s := wAns (wRsp .wra 0 4) (.drnWrite 0 false 0) {};
     let s1 := wAnsS (wRsp .wra 0 4) (.drnWrite 0 false 0) {};
     let r := { txn := wRsp .wra 0 4 };
     let o := wPurp (wRsp .wra 0 4) (.drnWrite 0 false 0);
     let y := r.txn;
     ∃ i, i ∈ [(Instr.rdr 0, TType.rdr), (Instr.wra 0, TType.wra), (Instr.aadr 0, TType.aadr), (Instr.qaa 0,
         TType.qaa), (Instr.hpa 0, TType.hpa)] ∧ (s.takeRx 0 VC.rsp fun x => x.type == i.snd) = some (r, s1) ∧
       s.link.en.devid ≠ 16383 ∧ y.dst = s.link.en.devid ∧
       List.find? (fun o => o.tile == y.srcTile && o.tag == y.tag) s1.link.outst = some o ∧ o.tile < 1152 ∧
       y.status = 4 ∧ o.what = Purpose.drnWrite 0 false 0 ∧ (s1.tile 0).drn = []) := by
  exact ⟨by decide +kernel,
    by decide +kernel,
    by decide +kernel,
    by decide +kernel,
    by decide +kernel,
    by decide +kernel,
    by decide +kernel,
    by decide +kernel⟩

theorem witness_ResponsesEndRequests_more :
    (let s := wAns (wRsp .wra 0 0) (.chainBeat 0 false 0) {}
     let s1 := wAnsS (wRsp .wra 0 0) (.chainBeat 0 false 0) {}
     let o := wPurp (wRsp .wra 0 0) (.chainBeat 0 false 0)
     let y := wRsp .wra 0 0
     (s.takeRx 0 VC.rsp fun x => x.type == .wra) = some ({ txn := y }, s1) ∧ s.link.en.devid ≠ 16383 ∧
       y.dst = s.link.en.devid ∧ s1.link.outst.find? (fun o => o.tile == y.srcTile && o.tag == y.tag) = some o ∧
       o.tile < 1152 ∧ y.status = 0 ∧ o.what = .chainBeat 0 false 0) ∧
    (let s := wAns (wRsp .hpa 0 2) (.handle 0) wOutH
     let s1 := wAnsS (wRsp .hpa 0 2) (.handle 0) wOutH
     let o := wPurp (wRsp .hpa 0 2) (.handle 0)
     let y := wRsp .hpa 0 2
     (s.takeRx 0 VC.rsp fun x => x.type == .hpa) = some ({ txn := y }, s1) ∧ s.link.en.devid ≠ 16383 ∧
       y.dst = s.link.en.devid ∧ s1.link.outst.find? (fun o => o.tile == y.srcTile && o.tag == y.tag) = some o ∧
       o.tile < 1152 ∧ y.status = 2 ∧ o.what = .handle 0 ∧ ∃ h, h ∈ (s1.herder 0).out.head? ∧ h.sent = true ∧
       (Target.ofWord h.target).remote = true ∧ h.tag = y.tag) := by
  exact ⟨by decide +kernel,
    by decide +kernel⟩

theorem witness_ResponsesEndRequests_1 :
    (let s := wIn wRd;
     let x := { wRd with src := 5 };
     x.src = s.link.en.devid) ∧
    (let s := wIn wRd;
     let e := s.reg (routeAddr wRd.src);
     wRd.src ≠ s.link.en.devid ∧ wRd.src ≠ 16383 ∧ s.sec.inj.armed = false ∧ routePairOk e = true ∧
       s.pickPort e wRd.srcTile = some 1) ∧
    (let s := wIn wRd;
     let e := s.reg (routeAddr wRd.src);
     (s.pickPort e wRd.srcTile).isSome = true) ∧
    (let s := (wIn wRd).modLink 1 (fun l => { l with st := .down });
     let e := s.reg (routeAddr wRd.src);
     wRd.src ≠ s.link.en.devid ∧ wRd.src ≠ 16383 ∧ s.sec.inj.armed = false ∧ routePairOk e = true ∧
       s.pickPort e wRd.srcTile = none) ∧
    (let z := { wRsp .rdr 0 0 with dst := 6 };
     let s := { wIn wRd with link := { (wIn wRd).link with stuck := [z] } };
     s.link.stuck = [z] ∧ z.dst ≠ s.link.en.devid ∧ z.dst ≠ 0x3FFF ∧ s.sec.inj.armed = false ∧
       routePairOk (s.reg (routeAddr z.dst)) = true ∧ s.pickPort (s.reg (routeAddr z.dst)) z.srcTile = some 1) := by
  exact ⟨by decide +kernel,
    by decide +kernel,
    by decide +kernel,
    by decide +kernel,
    by decide +kernel⟩

theorem witness_Enumeration :
    (let e := wOk.link.en;
     wOk.takes Writer.pf rEnumCfg Acc.full 327684 ∧ bit (327684#64) 2 = true ∧ bit (327684#64) 1 = false ∧
       (bit (327684#64) 0 = false ∨ e.started = true)) ∧
    (let e := wOk.link.en;
     wOk.takes Writer.pf rEnumCfg Acc.full 327685 ∧ bit (327685#64) 2 = true ∧ bit (327685#64) 1 = false ∧
       bit (327685#64) 0 = true ∧ e.started = false) ∧
    (let s := wEnum (wTok 0 0) { devid := 5 };
     let s1 := wEnumT (wTok 0 0) { devid := 5 };
     let r := { txn := wTok 0 0 };
     let e := s.link.en;
     s.takeRx 0 VC.msg (isEnum 0) = some (r, s1) ∧ e.devid ≠ 16383) ∧
    (let s := wEnum { wTok 0 0 with data := toBytesLE 8 0x3FFF } {};
     let s1 := wEnumT { wTok 0 0 with data := toBytesLE 8 0x3FFF } {};
     let r := { txn := { wTok 0 0 with data := toBytesLE 8 0x3FFF } };
     let e := s.link.en;
     let w := ofBytesLE r.txn.data;
     let n := nfld w 13 0;
     s.takeRx 0 VC.msg (isEnum 0) = some (r, s1) ∧ e.devid = 16383 ∧ 16382 < n) ∧
    (let s := wEnum (wTok 0 0) {};
     let s1 := wEnumT (wTok 0 0) {};
     let r := { txn := wTok 0 0 };
     let e := s.link.en;
     let w := ofBytesLE r.txn.data;
     let n := nfld w 13 0;
     s.takeRx 0 VC.msg (isEnum 0) = some (r, s1) ∧ e.devid = 16383 ∧ n ≤ 16382) ∧
    (let s := wEnum (wTok 1 0) { devid := 5, waiting := some 0, holding := true, root := true };
     let s1 := wEnumT (wTok 1 0) { devid := 5, waiting := some 0, holding := true, root := true };
     let r := { txn := wTok 1 0 };
     let e := s.link.en;
     s.takeRx 0 VC.msg (isEnum 1) = some (r, s1) ∧ e.waiting = some 0) ∧
    (let s := wEnum (wTok 2 0) { devid := 5, waiting := some 0, holding := true, parent := some 1, next := 6 };
     let s1 := wEnumT (wTok 2 0) { devid := 5, waiting := some 0, holding := true, parent := some 1, next := 6 };
     let r := { txn := wTok 2 0 };
     let e := s.link.en;
     s.takeRx 0 VC.msg (isEnum 2) = some (r, s1) ∧ e.waiting = some 0) ∧
    (let s := wEnum (wTok 3 1) { devid := 5, waiting := some 0, holding := true, root := true };
     let s1 := wEnumT (wTok 3 1) { devid := 5, waiting := some 0, holding := true, root := true };
     let r := { txn := wTok 3 1 };
     let e := s.link.en;
     s.takeRx 0 VC.msg (isEnum 3) = some (r, s1) ∧ e.waiting = some 0) := by
  exact ⟨by simp only [takes_iff]; decide +kernel,
    by simp only [takes_iff]; decide +kernel,
    by decide +kernel,
    by decide +kernel,
    by decide +kernel,
    by decide +kernel,
    by decide +kernel,
    by decide +kernel⟩

theorem witness_GlobalTime :
    (wOk.jetHides Writer.pf rTimNow = false ∧ wOk.sitHides Writer.pf rTimNow = false ∧
      wOk.permits Writer.pf rTimNow false = true) ∧
    (let s := wActive {};
     let src := s.regF rTimCfg 1 0;
     src ≠ 2 ∨ s.time.locked = true) ∧
    (let s := wTm (wIn (wTimeX 0 0)) none;
     let s1 := wTaken (wTm (wIn (wTimeX 0 0)) none);
     let r := wRxT (wTimeX 0 0);
     let w := ofBytesLE (wTimeX 0 0).data;
     s.takeTime 0 0 = some (r, w, s1) ∧ (timeMsg r.txn).isSome = true ∧ s1.upstream = some 0 ∧ w.testBit 2 = true) ∧
    (let s := wTm (wIn (wTimeX 0 0)) none;
     let src := s.regF rTimCfg 1 0;
     src = 2) ∧
    (let s := wTm (wIn (wTimeX 1 0)) none;
     let s1 := wTaken (wTm (wIn (wTimeX 1 0)) none);
     let r := wRxT (wTimeX 1 0);
     let w := ofBytesLE (wTimeX 1 0).data;
     s.takeTime 0 1 = some (r, w, s1) ∧ (timeMsg r.txn).isSome = true) ∧
    (let s := wTm (wIn (wTimeX 2 0)) (some { seq := 9, t1 := 0, t2 := 0, t3 := some 0, recov := false });
     let s1 := wTaken (wTm (wIn (wTimeX 2 0)) (some { seq := 9, t1 := 0, t2 := 0, t3 := some 0, recov := false }));
     let r := wRxT (wTimeX 2 0);
     let w := ofBytesLE (wTimeX 2 0).data;
     s.takeTime 0 2 = some (r, w, s1) ∧ (timeMsg r.txn).isSome = true ∧ ∃ e, e ∈ s1.time.ex ∧ ∃ t3, t3 ∈ e.t3 ∧
       e.seq = nfld w 31 16 ∧ s1.upstream = some 0) ∧
    (let s := wNow (wTm wOk (some { seq := 9, t1 := 0, t2 := 0, t3 := some 0, recov := false })) 5000;
     ∃ e, e ∈ s.time.ex ∧ ∃ t3, t3 ∈ e.t3 ∧ t3 + 327680000 ≤ s.stamp) ∧
    (let s := wOk.setReg rTimCfg 1;
     let src := s.regF rTimCfg 1 0;
     src = 1 ∧ s.power.jet = false) := by
  exact ⟨by decide +kernel,
    by decide +kernel,
    by decide +kernel,
    by decide +kernel,
    by decide +kernel,
    by decide +kernel,
    by decide +kernel,
    by decide +kernel⟩

theorem witness_PowerStates :
    (let s := wFree { st := .ivory } {};
     0 < 1152 ∧ s.power.jet = false ∧
     let x := s.tile 0;
     x.pwr.st = PwrSt.ivory ∧ x.pwr.exiting = false ∧ x.idle = true ∧ s.deepestFor 0 = (PwrSt.slate, s) ∧
       1 ≤ PwrSt.slate.code) ∧
    (let s := wPwr { st := .ivory } {};
     0 < 1152 ∧ s.power.jet = false ∧
     let x := s.tile 0;
     let st := PwrSt.ivory;
     (st, PwrSt.ivory) ∈ [(PwrSt.ivory, PwrSt.ivory), (PwrSt.dove, PwrSt.ivory), (PwrSt.dove, PwrSt.dove)] ∧
       x.pwr.st = st ∧ x.pwr.exiting = false ∧ x.idle = true ∧ s.deepestFor 0 = (PwrSt.ivory, s) ∧ st = PwrSt.ivory) ∧
    (let s := wTol (wPwr { st := .dove } {}) 10000;
     0 < 1152 ∧ s.power.jet = false ∧
     let x := s.tile 0;
     x.pwr.st ≠ PwrSt.ivory ∧ x.pwr.handshake = false ∧ x.pwr.held.length < 64) ∧
    (let s := wPwr { st := .dove } {};
     0 < 1152 ∧ s.power.jet = false ∧
     let x := s.tile 0;
     let st := PwrSt.dove;
     (st, PwrSt.ivory) ∈ [(PwrSt.ivory, PwrSt.ivory), (PwrSt.dove, PwrSt.ivory), (PwrSt.dove, PwrSt.dove)] ∧
       x.pwr.st = st ∧ x.pwr.exiting = false ∧ x.idle = true ∧ s.deepestFor 0 = (PwrSt.ivory, s) ∧ st = PwrSt.dove) ∧
    (let s := wFree { st := .dove } {};
     0 < 1152 ∧ s.power.jet = false ∧
     let x := s.tile 0;
     x.pwr.st = PwrSt.dove ∧ x.pwr.exiting = false ∧ x.idle = true ∧ s.deepestFor 0 = (PwrSt.slate, s) ∧
       2 ≤ PwrSt.slate.code) ∧
    (let s := wFree { st := .dove, handshake := true } {};
     0 < 1152 ∧ s.power.jet = false ∧
     let x := s.tile 0;
     x.pwr.handshake = true ∧ x.pwr.st = PwrSt.dove ∧ x.idle = true) ∧
    (let s := wFree { st := .ash } {};
     0 < 1152 ∧ s.power.jet = false ∧
     let x := s.tile 0;
     x.pwr.st = PwrSt.ash ∧ x.pwr.exiting = false ∧ x.idle = true ∧ s.deepestFor 0 = (PwrSt.slate, s) ∧
       PwrSt.slate = PwrSt.slate ∧ x.pack.icr = []) ∧
    (let s := wFree { st := .ash } { pack := { icr := [(0, 0)] } };
     0 < 1152 ∧ s.power.jet = false ∧
     let x := s.tile 0;
     x.pack.icr ≠ []) ∧
    (let s := wPwr { st := .dove } { herder := { user := { wCtx 0x4C with wait := .time 500 } } };
     0 < 1152 ∧ s.power.jet = false ∧
     let x := s.tile 0;
     ∃ c, c ∈ x.herder.atCount ∧ x.pwr.st ≠ PwrSt.ivory ∧ c ≤ s.now + x.pwr.st.latency + 1000) ∧
    (let s := wPwr { st := .slate } { herder := { user := { wCtx 0x4C with wait := .time 50000000 } } };
     0 < 1152 ∧ s.power.jet = false ∧
     let x := s.tile 0;
     ∃ c, c ∈ x.herder.atCount ∧ x.pwr.st ≠ PwrSt.ivory ∧ s.now + x.pwr.st.latency + 1000 < c) ∧
    (let s := wPwr { st := .slate, exiting := true } {};
     0 < 1152 ∧ s.power.jet = false ∧
     let x := s.tile 0;
     x.pwr.exiting = true ∧ (x.pwr.held = [] ∨ x.pwr.target ≠ PwrSt.ivory)) ∧
    (let s := wPwr { st := .slate, exiting := true } {};
     0 < 1152 ∧ s.power.jet = false ∧
     let x := s.tile 0;
     x.pwr.exiting = true ∧ ∃ p, p ∈ s.tilePart 0 ∧ s.sec.crimson = false ∧ (s.part p).st = PartSt.normal) ∧
    (let s :=
        { wOk with tiles := [(5, { pwr := { st := .dove, exiting := true, held := [.other] } })], regs := [(rSecMap 1, 0)] };
     5 < 1152 ∧ s.power.jet = false ∧
     let x := s.tile 5;
     x.pwr.exiting = true ∧ ∃ h, x.pwr.held = [h] ∧ x.pwr.target = PwrSt.ivory ∧ s.tilePart 5 = none) ∧
    (let s := wPwr { st := .slate, exiting := true } {};
     0 < 1152 ∧ s.power.jet = false ∧
     let x := s.tile 0;
     x.pwr.exiting = true ∧ (∃ p, p ∈ s.tilePart 0 ∧ s.sec.crimson = false ∧ (s.part p).st = PartSt.normal) ∧
       x.pwr.held = []) ∧
    (let s :=
        { wOk with
            tiles :=
              [(5, { pwr := { st := .dove, exiting := true, held := [.handle 53] } }),
                (53, { herder := { out := [{ q := 3, handle := 77, target := 5, sent := true, tag := 4 }] } })],
            regs := [(rSecMap 1, 0)] };
     5 < 1152 ∧ s.power.jet = false ∧
     let x := s.tile 5;
     x.pwr.exiting = true ∧ x.pwr.held = [.handle 53] ∧ s.tilePart 53 = none ∧ s.tilePart 5 = none ∧
       ∃ h rest, (s.herder 53).out = h :: rest ∧ h.sent = true ∧ (Target.ofWord h.target).remote = false ∧
         (Target.ofWord h.target).tile = 5) ∧
    (let s := { wOk with power := { chExit := [3] } };
     0 < 1152 ∧ s.power.jet = false ∧ s.power.chExit.isEmpty = false) := by
  exact ⟨by decide +kernel,
    by decide +kernel,
    by decide +kernel,
    by decide +kernel,
    by decide +kernel,
    by decide +kernel,
    by decide +kernel,
    by decide +kernel,
    by decide +kernel,
    by decide +kernel,
    by decide +kernel,
    by decide +kernel,
    ⟨by decide +kernel, by decide +kernel, by decide +kernel, ⟨_, rfl, by decide +kernel⟩⟩,
    by decide +kernel,
    ⟨by decide +kernel, by decide +kernel, rfl, rfl, by decide +kernel, by decide +kernel, _, _, rfl, by decide +kernel⟩,
    by decide +kernel⟩

theorem witness_Governor :
    (let s := { wOk with power := { step := 5 } };
     s.power.jet = false ∧ s.power.railsOff = false ∧ 1 ≤ s.power.step ∧ s.power.step ≤ 16) := by decide +kernel

theorem witness_ModuleWrites :
    (let s := wJetP 1 wOk;
     s.takes Writer.pf (rPwrJet + 8) Acc.full 0 ∧ s.cwPend.find rPwrJet = some 1 ∧ bit (0#64) 0 = !bit (1#64) 0 ∧
       s.sec.inj.armed = false ∧ bit (1#64) 0 = true ∧ s.power.jet = false ∧ s.jetOk = true) ∧
    (let s := wJetP 1 (wPart { released := true });
     s.takes Writer.pf (rPwrJet + 8) Acc.full 0 ∧ s.cwPend.find rPwrJet = some 1 ∧ bit (0#64) 0 = !bit (1#64) 0 ∧
       s.sec.inj.armed = false ∧ bit (1#64) 0 = true ∧ s.power.jet = false ∧ s.jetOk = false) ∧
    (let s := wJetP 0 wJet;
     s.takes Writer.pf (rPwrJet + 8) Acc.full 1 ∧ s.cwPend.find rPwrJet = some 0 ∧ bit (1#64) 0 = !bit (0#64) 0 ∧
       s.sec.inj.armed = false ∧ bit (0#64) 0 = false ∧ s.power.jet = true) ∧
    (let s := { wJet with power := { jet := true, jetExit := true } };
     s.power.jetExit = true) ∧
    (let s := { wJet with power := { jet := true, jetExit := true } };
     s.takes Writer.pf rMgtBootCtl Acc.full 1 ∧ s.mgt.phase ≠ BootPhase.links ∧ s.mgt.phase ≠ BootPhase.time) ∧
    (let s := { wJet with power := { jet := true, jetExit := true } };
     ∃ q, q < 16 ∧ s.takes Writer.pf rMgtPartRel Acc.full (BitVec.ofNat 64 (2 ^ q)) ∧ (s.part q).released = false ∧
       s.mgt.phase = BootPhase.ready ∧ s.sec.mapBusy = false ∧ 0 < s.nCol q ∧
       ((s.part q).st = PartSt.normal ∨ (s.part q).st = PartSt.held) ∧ s.twinOk (partPage q oLtr) = true ∧
       s.sec.inj.armed = false) ∧
    (let s := { wOk with sec := { crimson := true } };
     s.takes Writer.pf rRelCrimsonCtl Acc.full 2 ∧ bit (2#64) 1 = true ∧ s.sec.crimson = true) ∧
    (let s := { wOk with sec := { crimson := true } };
     s.takes Writer.pf rMgtBootCtl Acc.full 2 ∧ bit (2#64) 1 = true) ∧
    (let s := { wOk with sec := { crimson := true } };
     ∃ east, let r := rRelSpare east; s.takes Writer.pf rRelSpareCtl Acc.full (if east = true then 2 else 1) ∧
       ¬(s.regF r 14 14 = 1 ∧ s.regF r 4 0 = skipHome east ∧
       ∀ (p : Nat), p ∈ s.colOwners (movedCols east (s.regF r 12 8)) → (s.part p).st = PartSt.held ∨ (s.part p).st =
         PartSt.failed)) ∧
    (let s := { wOk with sec := { crimson := true } };
     s.takes Writer.pf rRelInjCtl Acc.full 2 ∧ s.regF rRelCfg 0 0 = 0) ∧
    (let s := { wOk with sec := { crimson := true } };
     s.takes Writer.pf rSecMapCommit Acc.full 1 ∧ s.sec.mapBusy = false ∧ mapValid s.shadowMap = true ∧
       ∀ (p : Nat), p ∈ s.mapChanges → s.mayRemap p = true) ∧
    (let s := { wOk with sec := { crimson := true } };
     s.takes Writer.pf rMboxH1 Acc.full 2 ∧
     let h0 := s.reg rMboxH0;
     let ty := fld h0 4 0;
     let len := fld (2#64) 53 48 + 1;
     ¬(s.fe.sit.on = false ∧ s.regF rMboxStat 0 0 = 0 ∧ 1 ≤ ty ∧ ty ≤ 3 ∧ len ≤ 8 ∧ (ty = 3 → len = 8))) ∧
    (let s := wSpare .held;
     let r := rRelSpare false;
     s.takes Writer.pf rRelSpareCtl Acc.full (if false = true then 2 else 1) ∧ s.regF r 14 14 = 1 ∧
       s.regF r 4 0 = skipHome false ∧
       ∀ (p : Nat), p ∈ s.colOwners (movedCols false (s.regF r 12 8)) → (s.part p).st = PartSt.held ∨ (s.part p).st =
         PartSt.failed) ∧
    (let s := wInj wOk;
     s.takes Writer.pf rRelInjCtl Acc.full 2 ∧ s.regF rRelCfg 0 0 = 1 ∧ (s.sec.inj.armed = true ∨ injBad 2 = true)) ∧
    (let s := wInj wOk;
     s.takes Writer.pf rRelInjCtl Acc.full 1 ∧ s.regF rRelCfg 0 0 = 1 ∧ s.sec.inj.armed = false ∧ injBad 1 = false ∧
       1 ≤ fld (1#64) 3 0 ∧ fld (1#64) 3 0 ≤ 6) ∧
    (let s := wMapSh 0x20080;
     s.takes Writer.pf rSecMapCommit Acc.full 1 ∧ s.sec.mapBusy = false ∧ ¬(mapValid s.shadowMap = true ∧
       ∀ (p : Nat), p ∈ s.mapChanges → s.mayRemap p = true)) ∧
    (let s := { wOk with sec := { mapBusy := true } };
     s.sec.mapBusy = true) ∧
    (let s := { wOk with sec := { mapBusy := true } };
     ∃ q, q < 16 ∧ s.takes Writer.pf rMgtPartRel Acc.full (BitVec.ofNat 64 (2 ^ q)) ∧ ¬((s.part q).released = false ∧
       s.mgt.phase = BootPhase.ready ∧ s.sec.mapBusy = false ∧ 0 < s.nCol q ∧
       ((s.part q).st = PartSt.normal ∨ (s.part q).st = PartSt.held))) ∧
    (wOk.takes Writer.pf rSecBoot Acc.full 65537 ∧ bit (65537#64) 16 = true ∧ wOk.fe.sit.on = false ∧
      wOk.mgt.phase ≠ BootPhase.sit) ∧
    (let s := { wOk with mgt := { wReady with phase := .links } };
     s.takes Writer.pf rMgtBootCtl Acc.full 1 ∧ (s.mgt.phase = BootPhase.links ∨ s.mgt.phase = BootPhase.time)) ∧
    (let s := wMbox 0x3001;
     s.takes Writer.pf rMboxH1 Acc.full 1970324836978688 ∧
     let h0 := s.reg rMboxH0;
     let ty := fld h0 4 0;
     let len := fld (1970324836978688#64) 53 48 + 1;
     s.fe.sit.on = false ∧ s.regF rMboxStat 0 0 = 0 ∧ 1 ≤ ty ∧ ty ≤ 3 ∧ len ≤ 8 ∧ (ty = 3 → len = 8) ∧
       ∃ g, g ∈ s.freeTag 2047 ∧ s.sec.inj.armed = false ∧ fld h0 24 11 ≠ s.link.en.devid ∧ fld h0 24 11 ≠ 16383 ∧
       routePairOk (s.reg (routeAddr (fld h0 24 11))) = true ∧
       ∃ j, j ∈ s.pickPort (s.reg (routeAddr (fld h0 24 11))) 2047 ∧ bellRing (fld (1970324836978688#64) 47 0) = none) := by
  exact ⟨by simp only [takes_iff]; decide +kernel,
    by simp only [takes_iff]; decide +kernel,
    by simp only [takes_iff]; decide +kernel,
    by decide +kernel,
    by simp only [takes_iff]; decide +kernel,
    by simp only [takes_iff]; decide +kernel,
    by simp only [takes_iff]; decide +kernel,
    by simp only [takes_iff]; decide +kernel,
    by simp only [takes_iff]; decide +kernel,
    by simp only [takes_iff]; decide +kernel,
    by simp only [takes_iff]; decide +kernel,
    by simp only [takes_iff]; decide +kernel,
    by simp only [takes_iff]; decide +kernel,
    by simp only [takes_iff]; decide +kernel,
    by simp only [takes_iff]; decide +kernel,
    by simp only [takes_iff]; decide +kernel,
    by decide +kernel,
    by simp only [takes_iff]; decide +kernel,
    by simp only [takes_iff]; decide +kernel,
    by simp only [takes_iff]; decide +kernel,
    by simp only [takes_iff]; decide +kernel⟩

theorem witness_StartUp :
    (let s := wPh .power;
     s.starting BootPhase.power = true) ∧
    (let s := wPh .boot;
     s.starting BootPhase.boot = true ∧ s.mgt.running = [] ∧ s.bootSlot 1 = none) ∧
    (let s := wBoots [(2, wMcf)];
     s.starting BootPhase.boot = true ∧ s.mgt.running = [] ∧ s.bootSlot 1 = some 0 ∧ s.bootSlot 2 = none) ∧
    (let s := wBoots [(2, wMcf), (4, wHcf)];
     s.starting BootPhase.boot = true ∧ s.mgt.running = [] ∧ s.bootSlot 1 = some 0 ∧ s.bootSlot 2 = some 0 ∧
       s.bootSlot 3 = none) ∧
    (let s := wBoots [(2, wMcf), (4, wHcf), (6, wTab0)];
     let obj := fun i b => FwObj.ofBytes i (SMap.get [] s.mgt.flash (2 * i + b));
     s.starting BootPhase.boot = true ∧ s.mgt.running = [] ∧ s.bootSlot 1 = some 0 ∧ s.bootSlot 2 = some 0 ∧
       s.bootSlot 3 = some 0 ∧ fwCompatible (obj 1 0) (obj 2 0) (obj 3 0) = false) ∧
    (let s := wBoots [(2, wMcf), (4, wHcf), (6, wTab1)];
     let obj := fun i b => FwObj.ofBytes i (SMap.get [] s.mgt.flash (2 * i + b));
     s.starting BootPhase.boot = true ∧ s.mgt.running = [] ∧ s.bootSlot 1 = some 0 ∧ s.bootSlot 2 = some 0 ∧
       s.bootSlot 3 = some 0 ∧ fwCompatible (obj 1 0) (obj 2 0) (obj 3 0) = true) ∧
    (let s := wPh .measure;
     s.starting BootPhase.measure = true ∧ s.mgt.measured = false ∧ ((s.measureWork).snapshot wGood).sensorsGood = true) ∧
    (let s := wPh .measure;
     s.starting BootPhase.measure = true ∧ s.mgt.measured = false ∧ ((s.measureWork).snapshot []).sensorsGood = false) ∧
    (let s := wPh .sit;
     s.starting BootPhase.sit = true ∧ s.mgt.measured = false) ∧
    (let s := wMgt (fun m => { m with phase := .links, proceed := true });
     s.starting BootPhase.links = true ∧ s.mgt.xstop = false ∧
       (s.mgt.proceed = true ∨ s.mgt.bootCfg.testBit 1 = false ∨ s.link.en.devid ≠ 16383)) ∧
    (let s := wMgt (fun m => { m with phase := .links, proceed := true });
     s.mgt.input = true ∧ s.sec.crimson = false) ∧
    (let s := wMgt (fun m => { m with phase := .links, bootCfg := 2 });
     s.starting BootPhase.links = true ∧ s.mgt.xstop = false ∧
       ¬(s.mgt.proceed = true ∨ s.mgt.bootCfg.testBit 1 = false ∨ s.link.en.devid ≠ 16383)) ∧
    (let s := wMgt (fun m => { m with phase := .time, bootCfg := 4 });
     s.starting BootPhase.time = true ∧
       ¬(s.mgt.proceed = true ∨ s.mgt.bootCfg.testBit 2 = false ∨ s.time.locked = true)) ∧
    (let s := wMgt (fun m => { m with phase := .time, bootCfg := 0 });
     s.starting BootPhase.time = true ∧
       (s.mgt.proceed = true ∨ s.mgt.bootCfg.testBit 2 = false ∨ s.time.locked = true) ∧
       s.mgt.bootCfg.testBit 0 = false) ∧
    (let s := wMgt (fun m => { m with phase := .time, bootCfg := 1 });
     s.starting BootPhase.time = true ∧
       (s.mgt.proceed = true ∨ s.mgt.bootCfg.testBit 2 = false ∨ s.time.locked = true) ∧
       s.mgt.bootCfg.testBit 0 = true ∧ s.sec.inj.armed = false ∧ s.sec.mapBusy = false ∧
       ∀ (p : Nat), p < 16 → s.twinOk (partPage p oLtr) = true) ∧
    (let s := wPh .boot;
     (s.mgt.phase = BootPhase.power ∨ s.mgt.phase = BootPhase.boot ∨ s.mgt.phase = BootPhase.measure) ∧
       s.mgt.input = true ∧ s.mgt.fail = false) ∧
    (let s := wMgt (fun m => { m with input := false });
     s.mgt.input = false) ∧
    (let s := { wOk with sec := { crimson := true } };
     s.sec.crimson = true ∧ s.regF rRelCfg 1 1 = 1 ∧ ¬(s.mgt.fail = true ∧ s.mgt.cause = 5) ∧
       s.now < s.sec.crimsonAt + 100000000) ∧
    (let s := wNow { wOk.setReg rRelCfg 2 with sec := { crimson := true } } 100000000;
     s.sec.crimson = true ∧ s.regF rRelCfg 1 1 = 1 ∧ ¬(s.mgt.fail = true ∧ s.mgt.cause = 5) ∧
       s.sec.crimsonAt + 100000000 ≤ s.now) := by
  exact ⟨by decide +kernel,
    by decide +kernel,
    ⟨by decide +kernel, rfl, boot_slot _ 1 wMcf_ok, by decide +kernel⟩,
    ⟨by decide +kernel, rfl, boot_slot _ 1 wMcf_ok, boot_slot _ 2 wHcf_ok, by decide +kernel⟩,
    ⟨by decide +kernel, rfl, boot_slot _ 1 wMcf_ok, boot_slot _ 2 wHcf_ok, boot_slot _ 3 wTab0_ok, by decide +kernel⟩,
    ⟨by decide +kernel, rfl, boot_slot _ 1 wMcf_ok, boot_slot _ 2 wHcf_ok, boot_slot _ 3 wTab1_ok, by decide +kernel⟩,
    by decide +kernel,
    by decide +kernel,
    by decide +kernel,
    by decide +kernel,
    by decide +kernel,
    by decide +kernel,
    by decide +kernel,
    by decide +kernel,
    by decide +kernel,
    by decide +kernel,
    by decide +kernel,
    by decide +kernel,
    by decide +kernel⟩

theorem witness_UpdateAndAttestation_0 :
    (let s := wMgt (fun m => { m with owner := 2 });
     let v := wFw 1 1 0;
     s.takes Writer.pf rMgtFwCtl Acc.full v ∧
     let op := fld v 2 0;
     ∃ i, i ∈ [(Instr.fwOpen Writer.pf Acc.full v, 1), (Instr.fwWrite Writer.pf Acc.full v, 2), (Instr.fwVerify
         Writer.pf Acc.full v, 3), (Instr.fwCopy Writer.pf Acc.full v, 4), (Instr.fwClose Writer.pf Acc.full v, 5)] ∧
       op = i.snd) := by simp only [takes_iff]; decide +kernel

theorem witness_UpdateAndAttestation_1 :
    ∀ o ∈ [FwOp.open_, .write, .verify, .copy, .close], (wBusyFw o 1).mgt.fwBusy = some (o, 1) := by decide +kernel

theorem witness_UpdateAndAttestation_2 :
    (let s := wSpdm {};
     s.doeOff 1 = false ∧ 5 < 2 ^ 256 ∧
     let x := SMap.get { } s.sec.spdm 1;
     x.gotVersion = false) ∧
    (let s := wSpdm { gotVersion := true };
     s.doeOff 1 = false ∧ 5 < 2 ^ 256 ∧
     let x := SMap.get { } s.sec.spdm 1;
     x.gotVersion = true) ∧
    (let s := wSpdm { gotVersion := true, gotCaps := true };
     s.doeOff 1 = false ∧ 5 < 2 ^ 256 ∧
     let x := SMap.get { } s.sec.spdm 1;
     x.gotCaps = true) ∧
    (let s := wSpdm { gotVersion := true, gotCaps := true };
     s.doeOff 1 = false ∧ 5 < 2 ^ 256 ∧
     let x := SMap.get { } s.sec.spdm 1;
     x.gotAlgs = false ∧
     let i := .getDigests 1;
     i ∈ [Instr.getDigests 1, Instr.getCertificate 1 1 0 16, Instr.challenge 1 1 5, Instr.getMeasurements 1 2 5 true]) ∧
    (let s := wSpdm { gotVersion := true, gotCaps := true, gotAlgs := true };
     s.doeOff 1 = false ∧ 5 < 2 ^ 256 ∧
     let x := SMap.get { } s.sec.spdm 1;
     x.gotAlgs = true ∧
     let o := FwObj.ofBytes 1 [];
     1 ≤ 1 ∧ 1 ≤ 3 ∧ s.mgt.running.find 1 = some o) ∧
    (let s := wSpdm { gotVersion := true, gotCaps := true, gotAlgs := true };
     s.doeOff 1 = false ∧ 5 < 2 ^ 256 ∧
     let x := SMap.get { } s.sec.spdm 1;
     x.gotAlgs = true ∧ 1 ≤ 1) ∧
    (let s := wSpdm { gotVersion := true, gotCaps := true, gotAlgs := true };
     s.doeOff 1 = false ∧ 5 < 2 ^ 256 ∧
     let x := SMap.get { } s.sec.spdm 1;
     x.gotAlgs = true ∧ s.checkAllLocks = s) := by
  exact ⟨by decide +kernel,
    by decide +kernel,
    by decide +kernel,
    by decide +kernel,
    by decide +kernel,
    by decide +kernel,
    by decide +kernel⟩

theorem witness_PartitionSequences :
    (0 < 16 ∧ wRunning.sec.crimson = false ∧
     let x := wRunning.part 0;
     x.st = PartSt.normal ∧
     let u := wRunning.rustError Source.hbmUe 0 5 5;
     0 / 64 = 0 ∧ (u.pkt 0 0).isSome = true) ∧
    (let s := wSeq { seqOn := true } wOk;
     0 < 16 ∧ s.sec.crimson = false ∧
     let x := s.part 0;
     x.seqOn = true ∧ x.resetting = false ∧ s.openTasks 0 = [] ∧
       (s.beats = [] ∧ s.sleds = [] ∧ ∀ (t : Nat), s.ownsTile 0 t = true → (s.tile t).lostWrites = [] ∧
         (s.tile t).retr.onWay = [] ∧ (s.tile t).drn = [] ∧ (s.tile t).held = [] ∧ (s.tile t).retr.sled = []) ∧
       x.poison = []) ∧
    (let s := wSeq { seqOn := true, rustAt := 0 } wRunning;
     0 < 16 ∧ s.sec.crimson = false ∧
     let x := s.part 0;
     x.seqOn = true ∧ x.resetting = false ∧ s.openTasks 0 ≠ [] ∧ s.now < x.rustAt + 1000000) ∧
    (let s := wNow (wSeq { seqOn := true } wRunning) 1000000;
     0 < 16 ∧ s.sec.crimson = false ∧
     let x := s.part 0;
     x.seqOn = true ∧ x.resetting = false ∧ x.rustAt + 1000000 ≤ s.now) ∧
    (let s := wSeq { seqOn := true, resetting := true } wOk;
     0 < 16 ∧ s.sec.crimson = false ∧
     let x := s.part 0;
     x.seqOn = true ∧ x.resetting = true ∧ s.poisonDone 0 = true ∧ s.ownsTile 0 0 = true ∧ s.resetCmds 0 = [] ∧
       (s.beats = [] ∧ s.sleds = [] ∧ ∀ (t : Nat), s.ownsTile 0 t = true → (s.tile t).lostWrites = [] ∧
         (s.tile t).retr.onWay = [] ∧ (s.tile t).drn = [] ∧ (s.tile t).held = [] ∧ (s.tile t).retr.sled = [])) ∧
    (let s := wSeq { seqOn := true, resetting := true }
        (wRunT { wVal with st := .busy, words := [wd [(0, 2), (8, 3)], 0] } { user := {} });
     0 < 16 ∧ s.sec.crimson = false ∧
     let x := s.part 0;
     x.seqOn = true ∧ x.resetting = true ∧ s.poisonDone 0 = true ∧
       ∃ r k, s.resetCmds 0 = [r] ∧ s.pkt r.ring r.count = some k) ∧
    (let s := wNow (wSeq { seqOn := true, seqRust := true } wOk) 10000000;
     0 < 16 ∧ s.sec.crimson = false ∧
     let x := s.part 0;
     x.seqOn = true ∧ x.seqRust = true ∧ x.rustAt + 10000000 ≤ s.now) ∧
    (0 < 16 ∧ wOk.sec.crimson = false ∧ wOk.power.jet = false) := by
  exact ⟨by decide +kernel,
    ⟨by decide +kernel, by decide +kernel, by decide +kernel, by decide +kernel, by decide +kernel, ⟨rfl, rfl, fun t _ => quiet_wSeq t⟩, rfl⟩,
    by decide +kernel,
    by decide +kernel,
    ⟨by decide +kernel, by decide +kernel, rfl, rfl, by decide +kernel, by decide +kernel, by decide +kernel, rfl, rfl,
      fun t _ => quiet_wSeqR t⟩,
    ⟨by decide +kernel, by decide +kernel, rfl, rfl, by decide +kernel, _, _, rfl, rfl⟩,
    by decide +kernel,
    by decide +kernel⟩

theorem witness_ManagementChain_0 :
    (let f : Frame := { dst := 5, src := 6, cmd := 3, tag := 9, status := 0, payload := [1, 2] };
     f.dst < 2 ^ 13 ∧ f.src < 2 ^ 12 ∧ f.cmd < 256 ∧ f.tag < 256 ∧ f.status < 256 ∧ f.payload.length ≤ 64) := by decide +kernel

theorem witness_ManagementChain_1 :
    (let bs := (wFr 0x1000 1 [4, 0]).bytes;
     let f := wFr 0x1000 1 [4, 0];
     wOk.mgt.input = true ∧ parseFrame bs = some f ∧ f.dst.testBit 12 = true ∧ f.cmd = 1 ∧ f.status = 0 ∧
       f.payload = toBytesLE 2 4 ∧ 4 < 4095) ∧
    (let bs := (wFr 0x1000 1 [0xFF, 0xF]).bytes;
     let f := wFr 0x1000 1 [0xFF, 0xF];
     wOk.mgt.input = true ∧ parseFrame bs = some f ∧ f.dst.testBit 12 = true ∧ f.cmd = 1 ∧ f.status = 0 ∧
       f.payload = toBytesLE 2 4095 ∧ 4095 = 4095) ∧
    (let s := wMc id;
     let bs := (wFr 5 0x70 []).bytes;
     let f := wFr 5 0x70 [];
     s.mgt.input = true ∧ ∃ i, i ∈ [Instr.ident bs, Instr.chainRead bs, Instr.chainWrite bs, Instr.chainReset bs] ∧
       parseFrame bs = some f ∧ f.status = 0 ∧ f.cmd < 128 ∧ s.mgt.upq.length < 4 ∧
       (f.dst.testBit 12 = true ∨ s.mgt.posValid = true ∧ f.dst = s.mgt.pos) ∧ 1 ≠ f.cmd ∧ ¬f.cmd ∈ [2, 3, 4, 6]) ∧
    (let s := wMc id;
     let bs := (wFr 5 2 []).bytes;
     let f := wFr 5 2 [];
     s.mgt.input = true ∧ parseFrame bs = some f ∧ f.status = 0 ∧ f.cmd < 128 ∧ s.mgt.upq.length < 4 ∧
       (f.dst.testBit 12 = true ∨ s.mgt.posValid = true ∧ f.dst = s.mgt.pos) ∧ f.cmd = 2 ∧ f.payload = []) ∧
    (let s := wMc id;
     let bs := (wRdF 0xF00000080004 7).bytes;
     let f := wRdF 0xF00000080004 7;
     s.mgt.input = true ∧
     let a := ofBytesLE (List.take 8 f.payload);
     let n := ofBytesLE (List.drop 8 f.payload);
     parseFrame bs = some f ∧ f.status = 0 ∧ f.cmd < 128 ∧ s.mgt.upq.length < 4 ∧
       (f.dst.testBit 12 = true ∨ s.mgt.posValid = true ∧ f.dst = s.mgt.pos) ∧ f.cmd = 3 ∧ f.payload.length = 9 ∧
       1 ≤ n ∧ n ≤ 7 ∧ a % 8 ≠ 0) ∧
    (let s := wMc (fun m => { m with mcf := false });
     let bs := (wRdF 0xF00000080000 7).bytes;
     let f := wRdF 0xF00000080000 7;
     s.mgt.input = true ∧
     let a := ofBytesLE (List.take 8 f.payload);
     let n := ofBytesLE (List.drop 8 f.payload);
     parseFrame bs = some f ∧ f.status = 0 ∧ f.cmd < 128 ∧ s.mgt.upq.length < 4 ∧
       (f.dst.testBit 12 = true ∨ s.mgt.posValid = true ∧ f.dst = s.mgt.pos) ∧ f.cmd = 3 ∧ f.payload.length = 9 ∧
       1 ≤ n ∧ n ≤ 7 ∧
     let words := List.map (fun i => a + 8 * i) (List.range n);
     a % 8 = 0 ∧ ∃ x, x ∈ words ∧ (s.permits Writer.chain x false = false ∨ s.mgt.mcf = false ∧ romRead x = false)) ∧
    (let s := wMc id;
     let bs := (wRdF 0xF00000080000 2).bytes;
     let f := wRdF 0xF00000080000 2;
     s.mgt.input = true ∧
     let a := ofBytesLE (List.take 8 f.payload);
     let n := ofBytesLE (List.drop 8 f.payload);
     parseFrame bs = some f ∧ f.status = 0 ∧ f.cmd < 128 ∧ s.mgt.upq.length < 4 ∧
       (f.dst.testBit 12 = true ∨ s.mgt.posValid = true ∧ f.dst = s.mgt.pos) ∧ f.cmd = 3 ∧ f.payload.length = 9 ∧
       1 ≤ n ∧ n ≤ 7 ∧
     let words := List.map (fun i => a + 8 * i) (List.range n);
     a % 8 = 0 ∧ s.mgt.mcf = true ∧ ∀ (x : Nat), x ∈ words → s.permits Writer.chain x false = true ∧
       (findReg x).isSome = true ∧ x ≠ rTimNow ∧ x ≠ rPwrStatus) ∧
    (let s := wMc id;
     let bs := (wWrF rMgtBootCtl 2).bytes;
     let f := wWrF rMgtBootCtl 2;
     s.mgt.input = true ∧
     let a := ofBytesLE (List.take 8 f.payload);
     parseFrame bs = some f ∧ f.status = 0 ∧ f.cmd < 128 ∧ s.mgt.upq.length < 4 ∧
       (f.dst.testBit 12 = true ∨ s.mgt.posValid = true ∧ f.dst = s.mgt.pos) ∧ f.cmd = 4 ∧ f.payload.length = 16 ∧
       a % 8 = 0 ∧ s.permits Writer.chain a true = true ∧ s.mgt.mcf = true ∧ (findReg a).isSome = true) ∧
    (let s := wMc id;
     let bs := (wWrF (ringReg 0 0) 2).bytes;
     let f := wWrF (ringReg 0 0) 2;
     s.mgt.input = true ∧
     let a := ofBytesLE (List.take 8 f.payload);
     parseFrame bs = some f ∧ f.status = 0 ∧ f.cmd < 128 ∧ s.mgt.upq.length < 4 ∧
       (f.dst.testBit 12 = true ∨ s.mgt.posValid = true ∧ f.dst = s.mgt.pos) ∧ f.cmd = 4 ∧ f.payload.length = 16 ∧
       a % 8 = 0 ∧ s.permits Writer.chain a true = false) ∧
    (let s := wMc id;
     let bs := (wFr 5 6 []).bytes;
     let f := wFr 5 6 [];
     s.mgt.input = true ∧ parseFrame bs = some f ∧ f.status = 0 ∧ f.cmd < 128 ∧ s.mgt.upq.length < 4 ∧
       (f.dst.testBit 12 = true ∨ s.mgt.posValid = true ∧ f.dst = s.mgt.pos) ∧ f.cmd = 6 ∧ f.payload = [] ∧
       s.mgt.mcf = true) ∧
    (let s := wMc (fun m => { m with mcf := false });
     let bs := (wFr 5 6 []).bytes;
     let f := wFr 5 6 [];
     s.mgt.input = true ∧ parseFrame bs = some f ∧ f.status = 0 ∧ f.cmd < 128 ∧ s.mgt.upq.length < 4 ∧
       (f.dst.testBit 12 = true ∨ s.mgt.posValid = true ∧ f.dst = s.mgt.pos) ∧ f.cmd = 6 ∧ f.payload = [] ∧
       s.mgt.mcf = false) ∧
    (wOk.mgt.input = true ∧ ∃ i, i ∈ [Instr.alert, Instr.alertRepeat] ∧ wOk.regView rMgtAlert = 0) ∧
    (let s := wOk.setReg rMgtAlert 8;
     s.mgt.input = true ∧ ∃ i, i ∈ [Instr.alert, Instr.alertRepeat] ∧ s.regView rMgtAlert ≠ 0 ∧ s.mgt.upq.length < 4) ∧
    (let s := wMc id;
     let bs := (wFr 6 6 []).bytes;
     s.mgt.input = true ∧ s.passesDown bs = true) ∧
    (let s := { wOk with mgt := { wReady with trips := [(0x20, 2)] } };
     s.mgt.input = true ∧ 32 ∈ sensors ∧ 32 ≤ 32 ∧
     let c := SMap.get 0 s.mgt.trips 32;
     sensTrip 32 11000 = true ∧ c = 2 ∧ s.sec.crimson = false) ∧
    (wOk.mgt.input = true ∧ 33 ∈ sensors ∧ 32 ≤ 33 ∧ sensTrip 33 0 = false) ∧
    (wOk.mgt.input = true ∧ 6 ≤ 6 ∧ wOk.sec.crimson = false) := by
  exact ⟨by decide +kernel,
    by decide +kernel,
    by decide +kernel,
    by decide +kernel,
    by decide +kernel,
    by decide +kernel,
    by decide +kernel,
    by decide +kernel,
    by decide +kernel,
    by decide +kernel,
    by decide +kernel,
    by decide +kernel,
    by decide +kernel,
    by decide +kernel,
    by decide +kernel,
    by decide +kernel,
    by decide +kernel⟩

theorem witness_HostAccesses_0 :
    (1151 < 1152 ∧ 15 < 16 ∧ 4095 < 4096) := by decide +kernel

theorem witness_HostAccesses_1 :
    (3 ≤ 16 ∧ wHost.mgt.input = true ∧
     let x := wHost.barTarget 3 5 0 8;
     0 < 8 ∧ 8 ≤ 4096 ∧ x = BarTarget.nothing) ∧
    (let bs := [1, 2, 3, 4, 5, 6, 7, 8];
     3 ≤ 16 ∧ wHost.mgt.input = true ∧
     let y := wHost.barTarget 3 5 0 bs.length;
     bs ≠ [] ∧ bs.length ≤ 512 ∧ y = BarTarget.nothing) ∧
    (1 ≤ 16 ∧ wHost.mgt.input = true ∧
     let x := wHost.barTarget 1 0 65528 8;
     0 < 8 ∧ 8 ≤ 4096 ∧ ∃ a, x = BarTarget.reg a) ∧
    (let bs := [1, 2, 3, 4, 5, 6, 7, 8];
     1 ≤ 16 ∧ wHost.mgt.input = true ∧
     let y := wHost.barTarget 1 0 65528 bs.length;
     bs ≠ [] ∧ bs.length ≤ 512 ∧ ∃ a, y = BarTarget.reg a) ∧
    (1 ≤ 16 ∧ wHost.mgt.input = true ∧
     let x := wHost.barTarget 1 2 0 8;
     0 < 8 ∧ 8 ≤ 4096 ∧
     let a := tileBase 0;
     x = BarTarget.mem a ∧ wHost.power.jet = false ∧ wHost.targetReady a = true ∧ wHost.clean a 8 = true) ∧
    (let bs : List Byte := [1, 2, 3, 4, 5, 6, 7, 8];
     1 ≤ 16 ∧ wHost.mgt.input = true ∧
     let y := wHost.barTarget 1 2 0 bs.length;
     bs ≠ [] ∧ bs.length ≤ 512 ∧
     let a := tileBase 0;
     y = BarTarget.mem a ∧ wHost.power.jet = false ∧ wHost.targetReady a = true) ∧
    (1 ≤ 16 ∧ wHost.mgt.input = true ∧
     let p := 0;
     let t := 0;
     1 = p + 1 ∧ t < (wHost.partTiles p).length ∧ 0 % 2097152 + 8 ≤ tileSize ∧ 0 < 8 ∧ 0 / 2097152 = t ∧ 2 = 2 ∧
       wHost.mgt.phase ≠ BootPhase.sit) ∧
    (let s := { wHost with power := { jet := true } };
     1 ≤ 16 ∧ s.mgt.input = true ∧
     let x := s.barTarget 1 2 0 8;
     0 < 8 ∧ 8 ≤ 4096 ∧ x = BarTarget.mem (tileBase 0) ∧ s.power.jet = true) ∧
    (let s := { wHost with power := { jet := true } };
     let bs : List Byte := [1, 2, 3, 4, 5, 6, 7, 8];
     1 ≤ 16 ∧ s.mgt.input = true ∧
     let y := s.barTarget 1 2 0 bs.length;
     bs ≠ [] ∧ bs.length ≤ 512 ∧ y = BarTarget.mem (tileBase 0) ∧ s.power.jet = true) ∧
    (1 ≤ 16 ∧ wHost.mgt.input = true ∧
     let x := wHost.barTarget 1 0 98304 8;
     0 < 8 ∧ 8 ≤ 4096 ∧ x = BarTarget.zero) ∧
    (let bs := [1, 2, 3, 4, 5, 6, 7, 8];
     1 ≤ 16 ∧ wHost.mgt.input = true ∧
     let y := wHost.barTarget 1 0 98304 bs.length;
     bs ≠ [] ∧ bs.length ≤ 512 ∧ y = BarTarget.zero) ∧
    (let bs := [1, 2, 3, 4];
     1 ≤ 16 ∧ wHost.mgt.input = true ∧
     let y := wHost.barTarget 1 0 65552 bs.length;
     bs.length = 4 ∧ y = BarTarget.msix 4) ∧
    (1 ≤ 16 ∧ wHost.mgt.input = true ∧
     let x := wHost.barTarget 1 0 65552 4;
     4 = 4 ∧ x = BarTarget.msix 4) := by
  exact ⟨by decide +kernel,
    by decide +kernel,
    ⟨by decide +kernel, by decide +kernel, by decide +kernel, by decide +kernel, ⟨_, rfl⟩⟩,
    ⟨by decide +kernel, by decide +kernel, by decide +kernel, by decide +kernel, ⟨_, rfl⟩⟩,
    by decide +kernel,
    by decide +kernel,
    by decide +kernel,
    by decide +kernel,
    by decide +kernel,
    by decide +kernel,
    by decide +kernel,
    by decide +kernel,
    by decide +kernel⟩

/-! Statements whose hypotheses need no state of their own -/

theorem witness_EmptyQueueTicks : State.reset.pending = [] ∧ -(2 : Int) ^ 32 ≤ State.reset.time.rate := by decide +kernel

/-- The registers of two numbers. -/
theorem witness_RegisterFiles : (3 : Nat) ≠ 0 ∧ (4 : Nat) ≠ 3 := by decide

/-- A state that meets the invariant, with a command that it takes. -/
theorem witness_StepKeepsInvariant : wOk.Inv ∧ ∃ t, step { wOk with pending := [.perstN] } = .next t := by
  exact ⟨rfl, _, rfl⟩

theorem witness_QueueIsFirstInFirstOut :
    (∃ t, exec .perstN State.reset = .next t) ∧ ∃ t, step { State.reset with pending := [.perstN] } = .next t :=
  ⟨⟨_, rfl⟩, ⟨_, rfl⟩⟩

/-- The cases of the update commands. -/
theorem witness_UpdateAndAttestation_cases :
    (let s := wMgt (fun m => { m with owner := 2 });
     ¬ (s.mgt.fwBusy = none ∧ (s.mgt.owner = 0 ∨ s.mgt.owner = Writer.pf.iface))) ∧
    (wOk.mgt.fwBusy = none ∧ wOk.mgt.owner = 0 ∧ SMap.find wOk.mgt.runSlot 1 ≠ some (1 - wOk.mgt.pref)) ∧
    (let s := wMgt (fun m => { m with runSlot := [(1, 1)] });
     s.mgt.fwBusy = none ∧ s.mgt.owner = 0 ∧ SMap.find s.mgt.runSlot 1 = some (1 - s.mgt.pref)) ∧
    (wOwn.mgt.fwBusy = none ∧ wOwn.mgt.owner ≠ 0 ∧ wOwn.mgt.owner = Writer.pf.iface ∧ (5 % 4096 ≠ 0 ∨ slotSize 1 < 5 + 4096) ∧
      4096 % 4096 = 0 ∧ 4096 + 4096 ≤ slotSize 1) := by decide +kernel

/-! Ill-formed commands, one for each check -/

theorem test_wf_tile : (Instr.add 1152 0).wf = false ∧ (Instr.add 1151 0).wf = true := by decide
theorem test_wf_writer : (Instr.registerWrite (.vf 16) 0xF00000000008 .full 0).wf = false := by decide
theorem test_wf_reg : regAddrOk 0xF00000000004 = false ∧ regAddrOk 0xEFFFFFFFFFF8 = false ∧ regAddrOk 0xF00000000008 = true := by
  decide
theorem test_wf_array : (Instr.vectorEntry 0 4).wf = false := by decide
theorem test_wf_queue : (Instr.streamQueueAccept 0 8).wf = false := by decide
theorem test_wf_held_packet : pktOk (.handle 1152) = false ∧ pktOk (.handle 0) = true := by decide
theorem test_wf_readings : readingsOk [(0x40, 5)] = false ∧ readingsOk [(0x3F, 5)] = true := by decide
theorem test_wf_bar : barOk 1 = false ∧ barOk 4 = true := by decide
theorem test_wf_frame : frameOk (List.replicate 75 0) = false ∧ frameOk (List.replicate 74 0) = true := by decide
theorem test_wf_lanes : lanesOk 256 = false ∧ lanesOk 255 = true := by decide
theorem test_wf_codeword : stripesOk [0] [0] [0] [0] = false ∧ stripesOk [] [] [] [] = true := by decide

/-- 12 R447: symbol i of a codeword on active lane i mod W. -/
theorem test_unstripe : unstripe [0, 4] [1, 5] [2, 6] [3, 7] = [0, 1, 2, 3, 4, 5, 6, 7] := by decide

/-! Worked values of the spec -/

/-- 13 R519: the digest's check value for the bytes "123456789". -/
theorem test_crc64 : crc64 ((List.range 9).map (fun i => BitVec.ofNat 8 (0x31 + i))) = 0x995DC9BBDF1939FA := by decide +kernel

/-- 02, after R40: P8 0x5A is 10 and 0xA6 is -10. -/
theorem test_posit_decode : ((positVal 8 0x5A).map fun v => v.eq (.ofInt 10)) = some true ∧
    ((positVal 8 0xA6).map fun v => v.eq (.ofInt (-10))) = some true := by decide +kernel

/-- 02, the worked import: F32 0x40080001 gives P8 0x49 and P16 0x4880. -/
theorem test_import : (convert .F32 .P8 0x40080001).word = 0x49 ∧ (convert .F32 .P16 0x40080001).word = 0x4880 := by
  decide +kernel

/-- 02 R60: B16 0xFBFF gives 0x84, 0x8400 and 0x84004000; infinity gives NaR with NV. -/
theorem test_import_special : (convert .B16 .P8 0xFBFF).word = 0x84 ∧ (convert .B16 .P16 0xFBFF).word = 0x8400 ∧
    (convert .B16 .P32 0xFBFF).word = 0x84004000 ∧ convert .F32 .P8 0x7F800000 = ⟨0x80, { nv := true }⟩ := by decide +kernel

/-- 02, the worked quire: 10 * 10 + 2^-48. -/
theorem test_quire : quireAdd 8 (quireAdd 8 0 (positProd 8 0x5A 0x5A)).word (positProd 8 1 1) = ⟨100 * 2 ^ 48 + 1, {}⟩ ∧
    (quireToPosit 8 (100 * 2 ^ 48 + 1) 8).word = 0x6A ∧ (quireToPosit 8 (100 * 2 ^ 48 + 1) 16).word = 0x6A40 := by decide +kernel

/-- 03, the worked pass: its column sums and checksum column. -/
theorem test_pass :
    let q : PassPar := { mode := .p8, wf := .P8, af := .P8, k := 3, n := 2, c := 128, p := 1, pidx := 0, wide := false }
    let r := arrayVector q [[0x48, 0x5A, 0x30], [0x38, 0xC0, 0x44]] [0x40, 0x38, 0x48] (fun _ _ => none)
    r.cols.map (fun c => (quireAdd 8 0 c.part).word) = [0x7800000000000, 0x3000000000000] ∧
      r.chks.map (fun c => c.1.eq ⟨21, -1⟩) = [true] := by decide +kernel

/-- 04, the worked cancellation: band 0 keeps 2^-8, band 1 keeps 2^-20. -/
theorem test_bands :
    let q (i : Nat) : PassPar := { mode := .p8, wf := .P8, af := .P8, k := 4, n := 1, c := 32, p := 3, pidx := i, wide := false }
    let r (i : Nat) := (arrayVector (q i) [[0x7C, 0x02, 0x84, 0x40]] [0x70, 0x40, 0x70, 0x10] (fun _ _ => none)).cols.map
      (fun c => (quireAdd 8 0 c.part).word)
    r 0 = [2 ^ 40] ∧ r 1 = [2 ^ 28] ∧ r 2 = [0] := by decide +kernel

/-- 05, the worked drain: channel 0 gives 29 with NX, channel 1 gives 127 with OF and NX; the re-drain gives the P16
words 0x6360 and 0x6C60. -/
theorem test_drain :
    let r0 : ChRec := { mult := 1431655765, multC := 0, multW := 0, bias := 0xBC000000, shift := 32, shiftC := 0, rsv := false }
    let r1 : ChRec := { r0 with mult := 1073741824, bias := 0x6A400000, shift := 31 }
    let d (f : Fmt) (r : ChRec) (w : Nat) := drainElem .S32 f 0x40000000 true 0 r w
    (d .S8 r0 94).word = 29 ∧ (d .S8 r1 80).word = 127 ∧ (d .S8 r1 80).fl = { of := true, nx := true } ∧
      (d .S8 r0 94).fl = { nx := true } ∧ (d .P16 r0 94).word = 0x6360 ∧ (d .P16 r1 80).word = 0x6C60 := by decide +kernel

/-- 10 R377: the product and the inverse in GF(2^8) by x^8 + x^4 + x^3 + x^2 + 1, where x * x^7 is 0x1D. -/
theorem test_gf256 : hbmCode.mul 2 0x80 = 0x1D ∧ hbmCode.mul 0x53 (hbmCode.inv 0x53) = 1 := by decide +kernel

/-- 10 R377, R378: a block with errors in 1 or 2 symbols is corrected, one with three is not, and the poison pattern is
met before correction. -/
theorem test_block_classes : blockClass 0 = .clean ∧ blockClass 0x0000000000000400 = .corrected ∧
    blockClass 0x0000300000000400 = .corrected ∧ blockClass 0x0700300000000400 = .uncorrectable ∧
    blockClass 0x5A5A5A5A5A5A5A5A = .poisoned := by decide +kernel

/-- 10 R377: an error in a data symbol is found and corrected. -/
theorem test_block_repair :
    let w := hbmCode.encode ((List.range 64).map (fun i => 3 * i))
    hbmCode.decode (w.set 5 0x77) = some (w, [5]) := by decide +kernel

/-- 10 R374: columns that meet the rule exist, and the syndrome of an intact word is clean. -/
theorem test_hsiao_columns : hsiaoOk hsiaoPlain = true ∧ syndromeClass 0 = .clean := by decide +kernel

/-- 08, the encoded pass: the fields of its word. -/
theorem test_mma_word : fld (0x0000221000648080 : BitVec 64) 7 0 = 0x80 ∧ fld (0x0000221000648080 : BitVec 64) 16 12 = 8 ∧
    fld (0x0000221000648080 : BitVec 64) 20 17 = 2 ∧ fld (0x0000221000648080 : BitVec 64) 24 21 = 3 ∧
    mmaCsel 0x0000221000648080 = 2 := by decide +kernel

/-- 08, the descriptor t2 of the encoded pass. -/
theorem test_td :
    let d := TD.ofWord (BitVec.ofNat 256 (0x800007D020000 <<< 0 + 0x1F007F10 <<< 64 + 0x8000 <<< 128))
    d.fmt = some .P8 ∧ d.n 0 = 128 ∧ d.n 1 = 32 ∧ d.str.getD 0 0 = 128 := by decide +kernel

/-! One step of a command -/

/-- What register d of the user context of tile 0 holds after a word has retired. -/
def sAfter (i : Nat → BitVec 64 → Instr) (w : BitVec 64) (d : Nat) : Option Word :=
  match exec (i 0 w) (wRun w) with
  | .next u => some ((u.ctx 0 false).sget d)
  | _ => none

theorem test_add : sAfter .add (wR 0x01 5 1 2) 5 = some 107 := by decide +kernel
theorem test_sub_wraps : sAfter .sub (wR 0x02 5 2 1) 5 = some 0xFFFFFFFFFFFFFFA3 := by decide +kernel
theorem test_sra_sign : sAfter .sra (wR 0x08 5 3 2) 5 = some 0xFFFFFFFFFFFFFFFF := by decide +kernel
theorem test_write_of_s0 : sAfter .add (wR 0x01 0 1 2) 0 = some 0 := by decide +kernel
theorem test_mulh_sign : sAfter .mulh (wR 0x0A 5 3 2) 5 = some 0xFFFFFFFFFFFFFFFF := by decide +kernel

/-- A queued register write takes effect at the step that takes it. -/
theorem test_queue : (match step { wOk with pending := [.add 0 0, .perstN] } with
    | .next u => u.pending
    | _ => []) = [.perstN] := by decide +kernel

/-- The count advances by 1 ns and RATE (13 R490). -/
theorem test_tick : (match step State.reset with
    | .next u => u.time.ctr
    | _ => 0) = 2 ^ 48 := by decide +kernel

/-- Input power starts the part in POWER; a second application changes nothing. -/
theorem test_power_apply : (match exec .inputPowerApply (wMgt (fun m => { m with input := false })) with
    | .next u => u.mgt.phase
    | _ => .sit) = .power ∧ exec .inputPowerApply wOk = .next wOk := ⟨by decide +kernel, rfl⟩

/-- The fault pin is held by a Crimson error (15 R571). -/
theorem test_rail : (match exec (.railOutOfBand 3) wOk with
    | .next u => u.sec.crimson
    | _ => false) = true := by decide +kernel

/-- Without an object in flash start-up ends in sit mode (16 R630). -/
theorem test_sit_at_boot : (match exec .bootPhaseDone (wPh .boot) with
    | .next u => (u.mgt.phase, u.regF rSecBoot 23 20)
    | _ => (.power, 0)) = (.sit, 2) := by decide +kernel

/-- No word of the table gives bits. -/
theorem test_decode : decodeTableWord 8 0 = none ∧ State.reset.withFetchWord 8 0 = State.reset := by decide +kernel

end Sys2Proof.Tests
end

/-! Where the registers of the map lie, and which of them are complement-stored (00 R14; 10 R370). -/
namespace Sys2Proof.Machine

/-! The pages of the map -/

theorem findReg_tilePage {t o : Nat} (ht : t < 1152) (ho : o < 0x1000) (h8 : o % 8 = 0) :
    findReg (tilePage t o) = tileReg o := by
  obtain ⟨h8, hoff⟩ : tilePage t o % 8 = 0 ∧ tilePage t o % 0x1000 = o := by unfold tilePage; omega
  unfold findReg
  rw [if_neg (by omega), if_neg (by unfold tilePage; omega), if_pos (by unfold tilePage; omega), hoff]

theorem findReg_partPage {p o : Nat} (hp : p < 16) (ho : o < 0x10000) (h8 : o % 8 = 0) :
    findReg (partPage p o) = partReg p o := by
  obtain ⟨h8, hoff, hpart⟩ : partPage p o % 8 = 0 ∧ partPage p o % 0x10000 = o ∧ partPage p o / 0x10000 % 16 = p := by
    unfold partPage; omega
  unfold findReg
  rw [if_neg (by omega), if_neg (by unfold partPage; omega), if_neg (by unfold partPage; omega),
    if_pos (by unfold partPage; omega), hoff, hpart]

theorem pageOf_tilePage {t o : Nat} (ht : t < 1152) (ho : o < 0x1000) : pageOf (tilePage t o) = .tile t := by
  have hq : (tilePage t o - 0xF00100000000) / 0x1000 = t := by unfold tilePage; omega
  unfold pageOf
  rw [if_neg (by unfold tilePage; omega), if_pos (by unfold tilePage; omega), hq]

theorem pageOf_partPage {p o : Nat} (hp : p < 16) (ho : o < 0x10000) : pageOf (partPage p o) = .part p := by
  have hq : (partPage p o - 0xF00200000000) / 0x10000 = p := by unfold partPage; omega
  unfold pageOf
  rw [if_neg (by unfold partPage; omega), if_neg (by unfold partPage; omega), if_pos (by unfold partPage; omega), hq]

theorem tilePage_mod (t : Nat) {o : Nat} (ho : o < 0x1000) : tilePage t o % 0x1000 = o := by unfold tilePage; omega
theorem partPage_mod (p : Nat) {o : Nat} (ho : o < 0x10000) : partPage p o % 0x10000 = o := by unfold partPage; omega

theorem findReg_aligned {a : Nat} {r : Reg} (h : findReg a = some r) : a % 8 = 0 := by
  refine Decidable.byContradiction fun hn => ?_
  rw [findReg, if_pos hn] at h
  cases h

/-- The pages that a register of the map can lie in. -/
theorem findReg_cases {a : Nat} {r : Reg} (h : findReg a = some r) :
    (a < 0xF00010000000 ∧ moduleReg a = some r) ∨
    (∃ t o, t < 1152 ∧ o < 0x1000 ∧ o % 8 = 0 ∧ a = tilePage t o ∧ tileReg o = some r) ∨
    (∃ p o, p < 16 ∧ o < 0x10000 ∧ o % 8 = 0 ∧ a = partPage p o ∧ partReg p o = some r) := by
  have h8 := findReg_aligned h
  unfold findReg at h
  rw [if_neg (by omega)] at h
  split at h
  · exact .inl ⟨by omega, h⟩
  · split at h
    · exact .inr (.inl ⟨(a - 0xF00100000000) / 0x1000, a % 0x1000, by omega, by omega, by omega,
        by unfold tilePage; omega, h⟩)
    · split at h
      · have hp : a / 0x10000 % 16 = (a - 0xF00200000000) / 0x10000 := by omega
        rw [hp] at h
        exact .inr (.inr ⟨(a - 0xF00200000000) / 0x10000, a % 0x10000, by omega, by omega, by omega,
          by unfold partPage; omega, h⟩)
      · cases h

/-- The channel scales and their twins (05 R157). -/
theorem tileReg_scl {o : Nat} (hlo : 0x400 ≤ o) (hhi : o < 0x600) :
    tileReg o = if o % 16 = 0 then
        some { fields := [⟨63, 0, .cw⟩], reset := 0x4000400040004000, staged := true }
      else some { fields := [⟨63, 0, .cw⟩], reset := 0xBFFFBFFFBFFFBFFF, isTwin := true, staged := true } := by
  unfold tileReg oNumFlags oChainStatus oTilTime oPackCfg oPackStatus oAccStatus oTruncCnt oQntCfg oDriftLog oDriftCnt
    oSclCommit oSfuStatus oSfuRowCnt oSfuSmpCnt
  repeat refine (if_neg (by omega)).trans ?_
  exact if_pos ⟨hlo, hhi⟩

/-- The registers of the rings of a partition page (11 R435). -/
theorem partReg_ring {p o : Nat} (hlo : 0x1000 ≤ o) (hhi : o < 0x2000) : partReg p o = ringRegInfo p (o % 0x40) := by
  unfold partReg oPartLock oAdmit oViol oPmrCtl oPartFlags oPartBw oXltCfg oXltInv oXltFstat oCryptCtl oPartCtl
    oProgStat oHangLog oLtr oPwrStatus oWakeCnt oRelStatus oRelCnt
  repeat refine (if_neg (by omega)).trans ?_
  exact if_pos ⟨hlo, hhi⟩

/-- The route entries (12 R470). -/
theorem findReg_route {d : Nat} (hd : d < 0x4000) :
    findReg (routeAddr d) = some { fields := [⟨63, 0, .rw⟩], reset := 0xFFFFFFFF00000000 } := by
  obtain ⟨hlo, hhi, h8⟩ : 0xF00000100000 ≤ routeAddr d ∧ routeAddr d < 0xF00000120000 ∧ routeAddr d % 8 = 0 := by
    unfold routeAddr; omega
  unfold findReg
  rw [if_neg (by omega), if_pos (by omega)]
  unfold moduleReg rMgtPartId rFeSitStatus rEnumCfg rEnumStat rEnumXid rLnkCfg rMboxH0 rMboxH1 rMboxData rMboxRdata
    rMboxStat rTimCfg rTimStatus rTimNow rTimFrac rPwrLtr rPwrJet rPwrStatus rPwrGovCnt rRelCfg rRelLogStat rRelLogSel
    rRelCrimsonCtl rRelSpare rRelSpareCtl rRelInjCtl rRelInjAddr rSecCfg rSecLock rSecBoot rSecMapCommit rMgtSerial
    rMgtFwVer rMgtBootStat rMgtBootCfg rMgtBootCtl rMgtPartRel rMgtPos rMgtAlert rMgtTlmSeq rMgtFwCtl rMgtFwStat
  simp only [Bool.false_eq_true, if_true, if_false]
  repeat refine (if_neg (by omega)).trans ?_
  exact if_pos ⟨hlo, hhi⟩

/-! Which registers are complement-stored -/

/-- A register without complement-stored fields. -/
@[reducible] def Reg.noCw (r : Reg) : Prop := r.cwMask = 0 ∧ r.isTwin = false

/-- What the map says at a place, if anything, has no complement-stored fields. -/
def noCwAt (x : Option Reg) : Prop := ∀ r, x = some r → r.noCw

theorem noCwAt_none : noCwAt none := nofun

/-- One test of the map's chain. -/
theorem noCwAt_ite {c : Prop} [Decidable c] {r : Reg} {x : Option Reg} (hr : r.noCw) (hx : noCwAt x) :
    noCwAt (if c then some r else x) := by
  split
  · rintro _ ⟨⟩
    exact hr
  · exact hx

theorem tileReg_noCw {o : Nat} (hs : ¬(0x400 ≤ o ∧ o < 0x600)) : noCwAt (tileReg o) := by
  unfold tileReg
  rw [if_neg hs]
  repeat refine noCwAt_ite ⟨by decide, rfl⟩ ?_
  exact noCwAt_none

theorem ringRegInfo_noCw {p o : Nat} (hb : o ≠ oRingBase) (hc : o ≠ oRingBaseC) : noCwAt (ringRegInfo p o) := by
  unfold ringRegInfo
  rw [if_neg hb, if_neg hc]
  repeat refine noCwAt_ite ⟨rfl, rfl⟩ ?_
  exact noCwAt_none

theorem partReg_noCw {p o : Nat} (hl : o ≠ oLtr) (hc : o ≠ oLtr + 8)
    (hr : 0x1000 ≤ o → o < 0x2000 → o % 0x40 ≠ oRingBase ∧ o % 0x40 ≠ oRingBaseC) : noCwAt (partReg p o) := by
  by_cases hs : 0x1000 ≤ o ∧ o < 0x2000
  · rw [partReg_ring hs.1 hs.2]
    obtain ⟨hb, hbc⟩ := hr hs.1 hs.2
    exact ringRegInfo_noCw hb hbc
  · unfold partReg
    rw [if_neg hs, if_neg hl, if_neg hc]
    repeat refine noCwAt_ite ⟨rfl, rfl⟩ ?_
    exact noCwAt_none

theorem linkRegInfo_noCw (o : Nat) : noCwAt (linkRegInfo o) := by
  unfold linkRegInfo
  repeat refine noCwAt_ite ⟨rfl, rfl⟩ ?_
  exact noCwAt_none

theorem moduleReg_noCw {a : Nat} (h1 : a ≠ rPwrLtr) (h2 : a ≠ rPwrLtr + 8) (h3 : a ≠ rPwrJet) (h4 : a ≠ rPwrJet + 8) :
    noCwAt (moduleReg a) := by
  by_cases hl : 0xF00000020000 ≤ a ∧ a < 0xF00000022400
  · unfold moduleReg
    refine noCwAt_ite ⟨rfl, rfl⟩ (noCwAt_ite ⟨rfl, rfl⟩ ?_)
    rw [if_pos hl]
    exact linkRegInfo_noCw _
  · unfold moduleReg
    rw [if_neg hl, if_neg h1, if_neg h2, if_neg h3, if_neg h4]
    repeat refine noCwAt_ite ⟨rfl, rfl⟩ ?_
    exact noCwAt_none

theorem isRoute_tilePage (t o : Nat) : isRoute (tilePage t o) = false :=
  decide_eq_false (by unfold tilePage; omega)

theorem isRoute_partPage (p o : Nat) : isRoute (partPage p o) = false :=
  decide_eq_false (by unfold partPage; omega)

/-- Where a complement-stored register lies, given where registers are known to have no such field. -/
theorem noCwAt.place {x : Option Reg} {P : Prop} (h : ¬P → noCwAt x) {r : Reg} (hx : x = some r) (hr : ¬r.noCw) : P :=
  Classical.byContradiction fun hn => hr (h hn r hx)

/-- What lies at the place after a register is its twin. -/
def Reg.hasTwin (r : Reg) (x : Option Reg) : Prop :=
  ∃ c, x = some c ∧ c.isTwin = true ∧ c.cwMask = r.cwMask ∧ c.staged = r.staged

/-- A complement-stored register is a twin, or has its twin at the next place. -/
def Reg.paired (r : Reg) (x : Option Reg) : Prop :=
  r.cwMask ≠ 0 ∧ (r.isTwin = true ∨ r.hasTwin x)

theorem tileReg_paired {o : Nat} {r : Reg} (h8 : o % 8 = 0) (h : tileReg o = some r) (hr : ¬r.noCw) :
    r.paired (tileReg (o + 8)) := by
  obtain ⟨hlo, hhi⟩ := noCwAt.place tileReg_noCw h hr
  rw [tileReg_scl hlo hhi] at h
  split at h
  case isTrue h16 =>
    cases h
    rw [tileReg_scl (by omega) (by omega), if_neg (by omega)]
    exact ⟨by decide, .inr ⟨_, rfl, rfl, rfl, rfl⟩⟩
  case isFalse =>
    cases h
    exact ⟨by decide, .inl rfl⟩

theorem partReg_paired {p o : Nat} {r : Reg} (h : partReg p o = some r) (hr : ¬r.noCw) :
    r.paired (partReg p (o + 8)) := by
  have hp : o = oLtr ∨ o = oLtr + 8 ∨
      (0x1000 ≤ o ∧ o < 0x2000 ∧ (o % 0x40 = oRingBase ∨ o % 0x40 = oRingBaseC)) := by
    refine noCwAt.place (fun hn => ?_) h hr
    simp only [not_or, not_and] at hn
    obtain ⟨hl, hc, hring⟩ := hn
    exact partReg_noCw hl hc hring
  obtain rfl | rfl | ⟨hlo, hhi, hb | hc⟩ := hp
  · cases h
    exact ⟨by decide, .inr ⟨_, rfl, rfl, rfl, rfl⟩⟩
  · cases h
    exact ⟨by decide, .inl rfl⟩
  · have hn : (o + 8) % 0x40 = oRingBaseC := by unfold oRingBase at hb; unfold oRingBaseC; omega
    rw [partReg_ring hlo hhi, hb] at h
    rw [partReg_ring (by omega) (by unfold oRingBase at hb; omega), hn]
    cases h
    exact ⟨by decide, .inr ⟨_, rfl, rfl, rfl, rfl⟩⟩
  · rw [partReg_ring hlo hhi, hc] at h
    cases h
    exact ⟨by decide, .inl rfl⟩

theorem moduleReg_cwPlace {a : Nat} {r : Reg} (h : moduleReg a = some r) (hr : ¬r.noCw) :
    a = rPwrLtr ∨ a = rPwrLtr + 8 ∨ a = rPwrJet ∨ a = rPwrJet + 8 := by
  refine noCwAt.place (fun hn => ?_) h hr
  simp only [not_or] at hn
  obtain ⟨h1, h2, h3, h4⟩ := hn
  exact moduleReg_noCw h1 h2 h3 h4

/-- A register with a complement-stored field, or the twin of one, is not of the route table and stands beside its
partner. -/
theorem findReg_paired {a : Nat} {r : Reg} (h : findReg a = some r) (hr : ¬r.noCw) :
    isRoute a = false ∧ isRoute (a + 8) = false ∧ r.paired (findReg (a + 8)) := by
  obtain ⟨-, hm⟩ | ⟨t, o, ht, ho, h8, rfl, hm⟩ | ⟨p, o, hp, ho, h8, rfl, hm⟩ := findReg_cases h
  · obtain rfl | rfl | rfl | rfl := moduleReg_cwPlace hm hr <;> cases h
    · exact ⟨by decide, by decide, by decide, .inr ⟨_, rfl, rfl, rfl, rfl⟩⟩
    · exact ⟨by decide, by decide, by decide, .inl rfl⟩
    · exact ⟨by decide, by decide, by decide, .inr ⟨_, rfl, rfl, rfl, rfl⟩⟩
    · exact ⟨by decide, by decide, by decide, .inl rfl⟩
  · have hs := noCwAt.place tileReg_noCw hm hr
    have hn : findReg (tilePage t o + 8) = tileReg (o + 8) :=
      findReg_tilePage (o := o + 8) ht (by omega) (by omega)
    rw [hn]
    exact ⟨isRoute_tilePage t o, isRoute_tilePage t (o + 8), tileReg_paired h8 hm hr⟩
  · have hn : findReg (partPage p o + 8) = partReg p (o + 8) := by
      by_cases he : o = 0xFFF8
      · subst he
        exact absurd (partReg_noCw (by decide) (by decide) (by omega) r hm) hr
      · exact findReg_partPage (o := o + 8) hp (by omega) (by omega)
    rw [hn]
    exact ⟨isRoute_partPage p o, isRoute_partPage p (o + 8), partReg_paired hm hr⟩

end Sys2Proof.Machine

/-! What a write of a register does, one rule for each way it can end (00 R11 to R13; 16 R607, R613, R617). -/
namespace Sys2Proof.Machine

/-! The rows -/

@[simp] theorem exec_registerWrite (s : State) (w : Writer) (a : Nat) (c : Acc) (v : Word) :
    exec (.registerWrite w a c v) s = .next (s.regWrite w a c v) := rfl

@[simp] theorem exec_cwWrite (s : State) (w : Writer) (a : Nat) (c : Acc) (v : Word) :
    exec (.cwWrite w a c v) s = .next (s.regWrite w a c v) := rfl

@[simp] theorem exec_cwTwinWrite (s : State) (w : Writer) (a : Nat) (c : Acc) (v : Word) :
    exec (.cwTwinWrite w a c v) s = .next (s.regWrite w a c v) := rfl

/-! Access (R607) -/

theorem State.regWrite_of_hidden {s : State} {w : Writer} {a : Nat} (c : Acc) (v : Word)
    (h : s.jetHides w a = true ∨ s.sitHides w a = true) : s.regWrite w a c v = s := by
  simp [State.regWrite, h]

theorem State.regWrite_of_denied_herder {s : State} {t : Nat} {l : Level} {a : Nat} (c : Acc) (v : Word)
    (hp : s.permits (.herder t l) a true = false) : s.regWrite (.herder t l) a c v = s := by
  simp [State.regWrite, hp]

theorem State.regWrite_of_denied {s : State} {w : Writer} {a : Nat} (c : Acc) (v : Word)
    (hj : s.jetHides w a = false) (hs : s.sitHides w a = false) (hp : s.permits w a true = false)
    (hw : ∀ t l, w ≠ .herder t l) : s.regWrite w a c v = s.violation w a := by
  cases w with
  | herder t l => exact absurd rfl (hw t l)
  | _ => simp [State.regWrite, hj, hs, hp]

theorem State.regWrite_of_lets {s : State} {w : Writer} {a : Nat} (c : Acc) (v : Word) (h : s.lets w a) :
    s.regWrite w a c v = s.writeAt w a c v := by
  obtain ⟨hj, hs, hp⟩ := h
  simp [State.regWrite, hj, hs, hp]

/-! Widths and places (R11, R13) -/

theorem State.writeAt_of_width {s : State} {w : Writer} {a : Nat} {c : Acc} (v : Word) (h : c = .other ∨ a % 8 ≠ 0) :
    s.writeAt w a c v = s := if_pos h

theorem State.writeAt_of_none {s : State} {w : Writer} {a : Nat} {c : Acc} (v : Word) (hc : c ≠ .other)
    (h8 : a % 8 = 0) (h : findReg a = none) :
    s.writeAt w a c v = if c.place v = 0 then s else s.config (w.owner s) a := by
  simp [State.writeAt, hc, h8, h]

/-- A register that is a ring's doorbell (11 R405). -/
def isBellReg (a : Nat) : Bool :=
  match pageOf a with
  | .part _ => isBell (a % 0x10000)
  | _ => false

theorem State.writeAt_of_some {s : State} {w : Writer} {a : Nat} {c : Acc} {r : Reg} (v : Word) (hc : c ≠ .other)
    (h : findReg a = some r) (hb : c = .full ∨ isBellReg a = false) :
    s.writeAt w a c v = s.knownWrite w r a (c.place v) c.mask := by
  have hbell : (isBellReg a && decide (c ≠ .full)) = false := by rcases hb with hb | hb <;> simp [hb]
  unfold State.writeAt
  rw [if_neg (by simp [hc, findReg_aligned h]), h]
  exact if_neg (ne_true_of_eq_false hbell)

/-! Which rule of a register applies -/

theorem State.knownWrite_of_locked {s : State} {w : Writer} {r : Reg} {a : Nat} (p m : Word)
    (hk : s.checkLocks a = s) (hl : s.lockedFor w a ≠ 0) (hw : r.writable &&& ~~~ s.lockedFor w a = 0) :
    s.knownWrite w r a p m = s.violation w a := by
  simp only [State.knownWrite, hk]
  exact if_pos ⟨hl, hw⟩

theorem State.knownWrite_of_noCw {s : State} {w : Writer} {r : Reg} {a : Nat} (p m : Word)
    (hk : s.checkLocks a = s) (hl : s.lockedFor w a = 0) (ht : isRoute a = false) (hr : r.noCw) :
    s.knownWrite w r a p m =
      if a = rRelInjCtl ∧ s.regF rRelCfg 0 0 = 0 then s else s.plainWrite w r a p m 0 := by
  simp only [State.knownWrite, hk, hl, ht, hr.1, hr.2, ne_eq, not_true_eq_false, false_and, if_false,
    Bool.false_eq_true]

theorem State.knownWrite_of_cw {s : State} {w : Writer} {r : Reg} {a : Nat} (p m : Word)
    (hk : s.checkLocks a = s) (hl : s.lockedFor w a = 0) (ht : isRoute a = false) (hw : r.isTwin = false)
    (hc : r.cwMask ≠ 0) : s.knownWrite w r a p m = s.cwWrite (w.owner s) r a p m := by
  simp only [State.knownWrite, hk, hl, ht, hw, hc, ne_eq, not_true_eq_false, not_false_eq_true, false_and, if_false,
    if_true, Bool.false_eq_true]

theorem State.knownWrite_of_twin {s : State} {w : Writer} {r : Reg} {a : Nat} (p m : Word)
    (hk : s.checkLocks a = s) (hl : s.lockedFor w a = 0) (ht : isRoute a = false) (hw : r.isTwin = true) :
    s.knownWrite w r a p m = s.twinWrite (w.owner s) r a p m := by
  simp only [State.knownWrite, hk, hl, ht, hw, ne_eq, not_true_eq_false, false_and, if_false, if_true,
    Bool.false_eq_true]

/-! Registers without complement-stored fields, none of whose bits is locked -/

theorem State.plainWrite_of_refused {s : State} {w : Writer} {r : Reg} {a : Nat} {p m : Word} (l : Word)
    (h : r.refuses p m ((s.regNow a &&& ~~~ m) ||| p) = true) :
    s.plainWrite w r a p m l = s.config (w.owner s) a := if_pos h

theorem State.plainWrite_of_readOnly {s : State} {w : Writer} {r : Reg} {a : Nat} {p m : Word} (l : Word)
    (h : r.refuses p m ((s.regNow a &&& ~~~ m) ||| p) = false) (hw : r.writable = 0) :
    s.plainWrite w r a p m l = s := by
  simp only [State.plainWrite, h, hw, Bool.false_eq_true, if_false, if_true]

/-- Without locks only a WL bit that would be cleared is touched (R613). -/
theorem touchesLock_zero (r : Reg) (old p m : Word) :
    touchesLock r old p m 0 = decide (old &&& ~~~ p &&& m &&& r.maskOfTy .wl ≠ 0) := by
  simp [touchesLock]

theorem State.plainWrite_of_taken {s : State} {w : Writer} {r : Reg} {a : Nat} {p m : Word}
    (h : r.refuses p m ((s.regNow a &&& ~~~ m) ||| p) = false) (hw : r.writable ≠ 0)
    (hl : s.regNow a &&& ~~~ p &&& m &&& r.maskOfTy .wl = 0) :
    s.plainWrite w r a p m 0 =
      s.effect w a p m (r.after (if viewMask a = allBits then s.regNow a else s.reg a) p m) := by
  have ht : touchesLock r (s.regNow a) p m 0 = false := by rw [touchesLock_zero, hl]; rfl
  have h0 (x : Word) : x &&& ~~~ (0 &&& ~~~ r.maskOfTy .wl) = x := by
    rw [show (0 : Word) = 0#64 from rfl, BitVec.zero_and, BitVec.not_zero, BitVec.and_allOnes]
  simp only [State.plainWrite, h, hw, ht, h0, Bool.false_eq_true, if_false]

/-- A write of the whole register leaves no old bit in the merged value. -/
theorem merge_allBits (old v : Word) : (old &&& ~~~ allBits) ||| v = v := by
  simp [allBits]

/-- A written value has no bit outside the bits it covers. -/
theorem Acc.getLsbD_place_of_mask {c : Acc} (v : Word) {i : Nat} (h : c.mask.getLsbD i = false) :
    (c.place v).getLsbD i = false := by
  cases c with
  | full =>
    have hm : Acc.full.mask = BitVec.allOnes 64 := by decide
    rw [hm, BitVec.getLsbD_allOnes, decide_eq_false_iff_not] at h
    exact BitVec.getLsbD_of_ge v i (by omega)
  | lo => rw [show Acc.lo.place v = v &&& Acc.lo.mask from rfl, BitVec.getLsbD_and, h, Bool.and_false]
  | hi =>
    have hm : Acc.hi.mask = BitVec.allOnes 64 <<< 32 := by decide
    rw [hm, BitVec.getLsbD_shiftLeft, BitVec.getLsbD_allOnes] at h
    rw [show Acc.hi.place v = v <<< 32 from rfl, BitVec.getLsbD_shiftLeft]
    simp only [Bool.and_eq_false_imp, Bool.and_eq_true, decide_eq_true_eq, Bool.not_eq_eq_eq_not, Bool.not_true,
      decide_eq_false_iff_not, Nat.not_lt, and_imp] at h ⊢
    omega
  | other => exact BitVec.getLsbD_zero

/-- The types of a register's fields exclude each other. -/
@[reducible] def Reg.typesApart (r : Reg) : Prop :=
  r.maskOfTy .rw &&& r.maskOfTy .w1c = 0 ∧ r.maskOfTy .rw &&& r.maskOfTy .wl = 0 ∧
    r.maskOfTy .w1c &&& r.maskOfTy .wl = 0

theorem getLsbD_of_and_eq_zero {x y : Word} (h : x &&& y = 0) {i : Nat} (hx : x.getLsbD i = true) :
    y.getLsbD i = false := by
  have hxy : (x &&& y).getLsbD i = false := by rw [h]; exact BitVec.getLsbD_zero
  simpa [hx] using hxy

theorem Reg.getLsbD_after_eq (r : Reg) (old p m : Word) {i : Nat} (hi : i < 64) :
    (r.after old p m).getLsbD i =
      ((((old.getLsbD i && !((r.maskOfTy .rw).getLsbD i && m.getLsbD i)) || (p.getLsbD i && (r.maskOfTy .rw).getLsbD i))
        && !(p.getLsbD i && (r.maskOfTy .w1c).getLsbD i)) || (p.getLsbD i && (r.maskOfTy .wl).getLsbD i)) := by
  simp only [Reg.after, BitVec.getLsbD_or, BitVec.getLsbD_and, BitVec.getLsbD_not, hi, decide_true, Bool.true_and]

/-- The merged value, bit by bit (R12). -/
theorem Reg.getLsbD_after {r : Reg} (hr : r.typesApart) {old p m : Word} {i : Nat} (hi : i < 64)
    (hp : m.getLsbD i = false → p.getLsbD i = false) :
    (r.after old p m).getLsbD i =
      if (r.maskOfTy .rw).getLsbD i && m.getLsbD i then p.getLsbD i
      else if (r.maskOfTy .w1c).getLsbD i then old.getLsbD i && !p.getLsbD i
      else if (r.maskOfTy .wl).getLsbD i then old.getLsbD i || p.getLsbD i
      else old.getLsbD i := by
  obtain ⟨hc, hl, hcl⟩ := hr
  rw [r.getLsbD_after_eq old p m hi]
  cases hrw : (r.maskOfTy .rw).getLsbD i with
  | true =>
    have hc := getLsbD_of_and_eq_zero hc hrw
    have hl := getLsbD_of_and_eq_zero hl hrw
    cases hm : m.getLsbD i with
    | true => simp [hc, hl]
    | false => simp [hc, hl, hp hm]
  | false =>
    cases hw : (r.maskOfTy .w1c).getLsbD i with
    | true => simp [getLsbD_of_and_eq_zero hcl hw]
    | false => cases hwl : (r.maskOfTy .wl).getLsbD i <;> simp

end Sys2Proof.Machine

/-! The registers whose write does nothing but change their own value. -/
namespace Sys2Proof.Machine

theorem State.effect_tilePage (s : State) (w : Writer) {t o : Nat} (ht : t < 1152) (ho : o < 0x1000) (p m v : Word) :
    s.effect w (tilePage t o) p m v = s.tileWrite (w.owner s) t o p m v := by
  simp only [State.effect, pageOf_tilePage ht ho, tilePage_mod t ho]

theorem State.effect_partPage (s : State) (w : Writer) {q o : Nat} (hq : q < 16) (ho : o < 0x10000) (p m v : Word) :
    s.effect w (partPage q o) p m v = s.partWrite (w.owner s) q o p m v := by
  simp only [State.effect, pageOf_partPage hq ho, partPage_mod q ho]

/-- Which bits the state gives is the same on every tile's page. -/
theorem viewMask_tilePage {t o : Nat} (ht : t < 1152) (ho : o < 0x1000) :
    viewMask (tilePage t o) = viewMask (tilePage 0 o) := by
  have hin (u : Nat) (hu : u < 1152) : 0xF00100000000 ≤ tilePage u o ∧ tilePage u o < 0xF00100480000 := by
    unfold tilePage; omega
  simp only [viewMask, hin t ht, hin 0 (by decide), and_self, if_true, tilePage_mod _ ho]

/-- Which bits the state gives is the same on every partition's page. -/
theorem viewMask_partPage {p o : Nat} (hp : p < 16) (ho : o < 0x10000) :
    viewMask (partPage p o) = viewMask (partPage 0 o) := by
  have hout (q : Nat) : ¬(0xF00100000000 ≤ partPage q o ∧ partPage q o < 0xF00100480000) := by
    unfold partPage; omega
  have hin (q : Nat) (hq : q < 16) : 0xF00200000000 ≤ partPage q o ∧ partPage q o < 0xF00200100000 := by
    unfold partPage; omega
  simp only [viewMask, hout, hin p hp, hin 0 (by decide), and_self, if_true, if_false, partPage_mod _ ho]

/-- A tile register whose write only stores. -/
theorem State.tileWrite_stores (s : State) (part : Option Nat) (t : Nat) {o : Nat} (p m v : Word)
    (ho : o ∉ [oPackCfg, oQntCfg, oSclCommit, oRtvFault, oRtvCtl, oDigCfg]) :
    s.tileWrite part t o p m v = s.setReg (tilePage t o) v := by
  simp only [List.mem_cons, List.not_mem_nil, or_false, not_or] at ho
  obtain ⟨h1, h2, h3, h4, h5, h6⟩ := ho
  simp only [State.tileWrite, h1, h2, h3, h4, h5, h6, or_self, if_false]

/-- A partition register whose write only stores. -/
theorem State.partWrite_stores (s : State) (part : Option Nat) (q : Nat) {o : Nat} (p m v : Word) (hr : o < 0x1000)
    (he : ¬(0x70 ≤ o ∧ o ≤ 0x98))
    (ho : o ∉ [oPartLock, oPmrCtl, oPartFlags, oPartBw, oXltCfg, oXltInv, oCryptCtl, oPartCtl]) :
    s.partWrite part q o p m v = s.setReg (partPage q o) v := by
  simp only [List.mem_cons, List.not_mem_nil, or_false, not_or] at ho
  obtain ⟨h1, h2, h3, h4, h5, h6, h7, h8⟩ := ho
  simp only [State.partWrite, Nat.not_le.mpr hr, he, h1, h2, h3, h4, h5, h6, h7, h8, if_false]

/-- The module registers whose write only stores. -/
theorem State.effect_plainMod (s : State) (w : Writer) (p m v : Word) :
    ∀ a ∈ plainModRegs, s.effect w a p m v = s.setReg a v := by
  simp only [plainModRegs, List.forall_mem_cons]
  exact ⟨rfl, rfl, rfl, rfl, rfl, rfl, rfl, rfl, rfl, rfl, rfl, rfl, rfl, nofun⟩

/-- A register that is stored and written by its field types alone. -/
@[reducible] def Reg.isPlain (r : Reg) : Prop := r.noCw ∧ r.typesApart ∧ r.writable ≠ 0

/-- What the write of a plain register goes by. -/
structure PlainAt (a : Nat) (r : Reg) : Prop where
  noCw : r.noCw
  apart : r.typesApart
  writable : r.writable ≠ 0
  noRoute : isRoute a = false
  noInj : a ≠ rRelInjCtl
  noBell : isBellReg a = false
  stored : viewMask a ≠ allBits
  stores : ∀ (s : State) (w : Writer) (p m v : Word), s.effect w a p m v = s.setReg a v

theorem plainAt_mod {a : Nat} {r : Reg} (ha : a ∈ plainModRegs) (h : findReg a = some r) : PlainAt a r := by
  have hd : ∀ a ∈ plainModRegs, (∀ r ∈ findReg a, r.isPlain) ∧ isRoute a = false ∧ a ≠ rRelInjCtl ∧
      isBellReg a = false ∧ viewMask a ≠ allBits := by decide
  obtain ⟨hp, hr, hi, hb, hv⟩ := hd a ha
  obtain ⟨hc, ht, hw⟩ := hp r h
  exact ⟨hc, ht, hw, hr, hi, hb, hv, fun s w p m v => s.effect_plainMod w p m v a ha⟩

theorem plainAt_tile {t o : Nat} {r : Reg} (ht : t < 1152) (ho : o ∈ plainTileRegs)
    (h : findReg (tilePage t o) = some r) : PlainAt (tilePage t o) r := by
  have hd : ∀ o ∈ plainTileRegs, o < 0x1000 ∧ o % 8 = 0 ∧ (∀ r ∈ tileReg o, r.isPlain) ∧
      viewMask (tilePage 0 o) ≠ allBits ∧ o ∉ [oPackCfg, oQntCfg, oSclCommit, oRtvFault, oRtvCtl, oDigCfg] := by decide
  obtain ⟨hlt, h8, hp, hv, hs⟩ := hd o ho
  obtain ⟨hc, hty, hw⟩ := hp r ((findReg_tilePage ht hlt h8).symm.trans h)
  exact {
    noCw := hc
    apart := hty
    writable := hw
    noRoute := isRoute_tilePage t o
    noInj := by unfold tilePage rRelInjCtl; omega
    noBell := by rw [isBellReg, pageOf_tilePage ht hlt]
    stored := by rwa [viewMask_tilePage ht hlt]
    stores := fun s w p m v => by rw [s.effect_tilePage w ht hlt, s.tileWrite_stores _ t p m v hs] }

theorem plainAt_part {q o : Nat} {r : Reg} (hq : q < 16) (ho : o ∈ plainPartRegs)
    (h : findReg (partPage q o) = some r) : PlainAt (partPage q o) r := by
  have hd : ∀ o ∈ plainPartRegs, o < 0x1000 ∧ o % 8 = 0 ∧ viewMask (partPage 0 o) ≠ allBits ∧ ¬(0x70 ≤ o ∧ o ≤ 0x98) ∧
      o ∉ [oPartLock, oPmrCtl, oPartFlags, oPartBw, oXltCfg, oXltInv, oCryptCtl, oPartCtl] := by decide
  have hm : ∀ q < 16, ∀ o ∈ plainPartRegs, ∀ r ∈ partReg q o, r.isPlain := by decide
  obtain ⟨hlt, h8, hv, he, hs⟩ := hd o ho
  have hlt' : o < 0x10000 := by omega
  obtain ⟨hc, hty, hw⟩ := hm q hq o ho r ((findReg_partPage hq hlt' h8).symm.trans h)
  exact {
    noCw := hc
    apart := hty
    writable := hw
    noRoute := isRoute_partPage q o
    noInj := by unfold partPage rRelInjCtl; omega
    noBell := by
      rw [isBellReg, pageOf_partPage hq hlt', partPage_mod q hlt']
      exact decide_eq_false (by omega)
    stored := by rwa [viewMask_partPage hq hlt']
    stores := fun s w p m v => by rw [s.effect_partPage w hq hlt', s.partWrite_stores _ q p m v hlt he hs] }

theorem plainReg.at {a : Nat} {r : Reg} (ha : plainReg a) (h : findReg a = some r) : PlainAt a r := by
  obtain ha | ⟨t, o, ht, ho, rfl⟩ | ⟨q, o, hq, ho, rfl⟩ := ha
  · exact plainAt_mod ha h
  · exact plainAt_tile ht ho h
  · exact plainAt_part hq ho h

end Sys2Proof.Machine

/-! What registers may be written, and what a write leaves (00 R11 to R13; 16 R607, R613, R617). -/
namespace Sys2Proof.Machine

/-! Masks of field types -/

theorem getLsbD_foldl_mask (want : FTy → Bool) (i : Nat) (l : List Field) : ∀ m : Word,
    (l.foldl (fun m f => if want f.ty then m ||| maskOf 64 f.hi f.lo else m) m).getLsbD i =
      (m.getLsbD i || l.any (fun f => want f.ty && (maskOf 64 f.hi f.lo).getLsbD i)) := by
  induction l with
  | nil => simp
  | cons f l ih =>
    intro m
    cases hf : want f.ty <;> simp [hf, ih, Bool.or_assoc]

/-- A bit is in the mask of some types when a field of one of them holds it. -/
theorem Reg.getLsbD_mask (r : Reg) (want : FTy → Bool) (i : Nat) :
    (r.mask want).getLsbD i = r.fields.any (fun f => want f.ty && (maskOf 64 f.hi f.lo).getLsbD i) := by
  simp [Reg.mask, getLsbD_foldl_mask]

/-- A register that nothing can write has no complement-stored field. -/
theorem Reg.cwMask_of_readOnly {r : Reg} (h : r.writable = 0) : r.cwMask = 0 := by
  apply BitVec.eq_of_getLsbD_eq
  intro i _
  have hw : (r.mask (fun t => t != .ro)).getLsbD i = false := by
    rw [show r.mask (fun t => t != .ro) = 0 from h]
    exact BitVec.getLsbD_zero
  rw [Reg.getLsbD_mask, List.any_eq_false] at hw
  refine Eq.trans ?_ BitVec.getLsbD_zero.symm
  rw [Reg.cwMask, Reg.getLsbD_mask, List.any_eq_false]
  intro f hf hcw
  obtain ⟨hty, hbit⟩ := Bool.and_eq_true_iff.mp hcw
  exact hw f hf (by rw [eq_of_beq hty, hbit]; rfl)

/-- A register of the map without CW bits is no twin either. -/
theorem findReg_noCw {a : Nat} {r : Reg} (h : findReg a = some r) (hc : r.cwMask = 0) : r.noCw := by
  refine Decidable.byContradiction fun hr => ?_
  obtain ⟨-, -, hne, -⟩ := findReg_paired h hr
  exact hne hc

/-- A write of a plain register that takes place stores the merged value (R12). -/
theorem State.regWrite_plain {s : State} {w : Writer} {a : Nat} {c : Acc} {v : Word} {r : Reg}
    (h : s.takes w a c v) (hr : findReg a = some r) (hp : PlainAt a r) :
    s.regWrite w a c v = s.setReg a (r.after (s.reg a) (c.place v) c.mask) := by
  obtain ⟨hlets, hlocks, hfree, hc, hval⟩ := h
  obtain ⟨href, hwl⟩ := hval r hr
  rw [s.regWrite_of_lets c v hlets, s.writeAt_of_some v hc hr (.inr hp.noBell),
    s.knownWrite_of_noCw _ _ hlocks hfree hp.noRoute hp.noCw, if_neg (fun hi => hp.noInj hi.1),
    s.plainWrite_of_taken href hp.writable hwl, if_neg hp.stored, hp.stores]

/-- A reserved bit or encoding in a write of a whole register discards it and is logged (R13). -/
theorem State.knownWrite_of_refused {s : State} {w : Writer} {a : Nat} {r : Reg} {v : Word} (hr : findReg a = some r)
    (hk : s.checkLocks a = s) (hl : s.lockedFor w a = 0) (ht : isRoute a = false) (hc : r.cwMask = 0)
    (hi : a ≠ rRelInjCtl) (href : r.refuses v allBits v = true) :
    s.knownWrite w r a v allBits = s.config (w.owner s) a := by
  rw [s.knownWrite_of_noCw _ _ hk hl ht (findReg_noCw hr hc), if_neg (fun h => hi h.1),
    s.plainWrite_of_refused 0 (by rwa [merge_allBits])]

/-- A read-only register keeps its value (R12). -/
theorem State.knownWrite_of_readOnly {s : State} {w : Writer} {a : Nat} {r : Reg} {v : Word} (hr : findReg a = some r)
    (hk : s.checkLocks a = s) (hl : s.lockedFor w a = 0) (ht : isRoute a = false) (hw : r.writable = 0)
    (href : r.refuses v allBits v = false) : s.knownWrite w r a v allBits = s := by
  rw [s.knownWrite_of_noCw _ _ hk hl ht (findReg_noCw hr (Reg.cwMask_of_readOnly hw)),
    s.plainWrite_of_readOnly 0 (by rwa [merge_allBits]) hw, ite_self]

/-- Settles O38: each clause is one of the ways a write of a register can end. That a value placed where no register
lies is a CONFIG entry is the model's reading of R13 (log entry 13). -/
theorem registerWriteRules : Obligations.RegisterWriteRules := by
  intro s w a c v
  simp only [exec_registerWrite, Host.Outcome.next.injEq]
  refine ⟨State.regWrite_of_hidden c v, fun hj hs hp => ⟨?herder, State.regWrite_of_denied c v hj hs hp⟩,
    fun hlets => ?lets, ?taken⟩
  case herder =>
    rintro t l rfl
    exact State.regWrite_of_denied_herder c v hp
  case lets =>
    rw [s.regWrite_of_lets c v hlets]
    refine ⟨State.writeAt_of_width v, fun hc h8 hr => ?_, ?_⟩
    · rw [State.writeAt_of_none v hc h8 hr]
      exact ⟨fun h => if_pos h, fun h => if_neg h⟩
    · intro r hc hr hlocks
      subst hc
      rw [s.writeAt_of_some (c := .full) v (by decide) hr (.inl rfl)]
      exact ⟨State.knownWrite_of_locked _ _ hlocks, State.knownWrite_of_refused hr hlocks,
        State.knownWrite_of_readOnly hr hlocks⟩
  case taken =>
    intro htakes hplain r hr
    have hp := hplain.at hr
    exact ⟨_, State.regWrite_plain htakes hr hp, fun i hi =>
      r.getLsbD_after hp.apart hi (Acc.getLsbD_place_of_mask v)⟩

end Sys2Proof.Machine

/-! What the registers and the units hold at reset. -/
namespace Sys2Proof.Machine

/-- At reset every register holds the value its map entry gives it. -/
theorem reset_reg (a : Nat) : State.reset.reg a = regReset a := rfl

theorem reset_reg_of_find {a : Nat} {r : Reg} (h : findReg a = some r) :
    State.reset.reg a = BitVec.ofNat 64 r.reset := by
  rw [reset_reg, regReset, h]

theorem reset_reg_tilePage {t : Nat} (o : Nat) {r : Reg} (ht : t < 1152) (ho : o < 0x1000) (h8 : o % 8 = 0)
    (h : tileReg o = some r) : State.reset.reg (tilePage t o) = BitVec.ofNat 64 r.reset :=
  reset_reg_of_find ((findReg_tilePage ht ho h8).trans h)

theorem reset_route {d : Nat} (hd : d < 0x4000) : State.reset.reg (routeAddr d) = 0xFFFFFFFF00000000 :=
  reset_reg_of_find (findReg_route hd)

/-- The channel scales are 1 and their twins the complement (05 R157). -/
theorem reset_scl {t k n : Nat} (ht : t < 1152) (hk : k < 4) (hn : n < 8) :
    State.reset.reg (tilePage t (oScl k n)) = 0x4000400040004000 ∧
      State.reset.reg (tilePage t (oScl k n) + 8) = ~~~ 0x4000400040004000 := by
  have hlo : 0x400 ≤ oScl k n ∧ oScl k n + 8 < 0x600 ∧ oScl k n % 16 = 0 := by unfold oScl; omega
  exact ⟨reset_reg_tilePage (oScl k n) ht (by omega) (by omega)
      ((tileReg_scl (by omega) (by omega)).trans (if_pos hlo.2.2)),
    (reset_reg_tilePage (oScl k n + 8) ht (by omega) (by omega)
      ((tileReg_scl (by omega) (by omega)).trans (if_neg (by omega)))).trans (by decide)⟩

/-- Settles O57: what nothing has set reads its default, and the register map gives the rest. That memory reads zero in
POWER already is the model's deduction (log entry 9). -/
theorem resetState : Obligations.ResetState := by
  refine ⟨rfl, rfl, rfl, rfl, rfl, Memory.read_nil, fun t b => by cases b <;> exact ⟨rfl, rfl⟩, fun t => rfl,
    fun k => rfl, rfl, by decide, by decide, by decide, by decide, by decide, fun d => reset_route, fun t ht => ?tile,
    by decide⟩
  case tile =>
    exact ⟨reset_reg_tilePage oPackCfg ht (by decide) (by decide) rfl,
      reset_reg_tilePage oQcfg ht (by decide) (by decide) rfl,
      reset_reg_tilePage oDigCfg ht (by decide) (by decide) rfl,
      reset_reg_tilePage oNumFlags ht (by decide) (by decide) rfl, fun k n => reset_scl ht⟩

end Sys2Proof.Machine

/-! What a drained partition and a tolerance that is applied leave alone: the pending values of
complement-stored registers, the shadows of staged ones, and the tolerances with their twins (00 R14; 14 R544, R561;
15 R569, R588). -/
namespace Sys2Proof.Machine

/-- An address whose place in its page is that of a tolerance or its twin. -/
@[reducible] def ltrPlace (a : Nat) : Prop := a % 0x1000 = oLtr ∨ a % 0x1000 = oLtr + 8

theorem not_ltrPlace_partPage (p : Nat) {o : Nat} (h : ¬ltrPlace o) : ¬ltrPlace (partPage p o) := by
  have hm : partPage p o % 0x1000 = o % 0x1000 := by unfold partPage; omega
  rwa [ltrPlace, hm]

theorem not_ltrPlace_tilePage (t : Nat) {o : Nat} (h : ¬ltrPlace o) : ¬ltrPlace (tilePage t o) := by
  have hm : tilePage t o % 0x1000 = o % 0x1000 := by unfold tilePage; omega
  rwa [ltrPlace, hm]

/-- u holds the pending values, the shadows and the tolerance pairs that s does. -/
structure KeepsPairs (s u : State) : Prop where
  pend : u.cwPend = s.cwPend
  shadow : u.shadow = s.shadow
  reg : ∀ a, ltrPlace a → u.reg a = s.reg a

namespace KeepsPairs

theorem refl (s : State) : KeepsPairs s s := ⟨rfl, rfl, fun _ _ => rfl⟩

theorem trans {s u v : State} (h : KeepsPairs s u) (k : KeepsPairs u v) : KeepsPairs s v :=
  ⟨k.pend.trans h.pend, k.shadow.trans h.shadow, fun a ha => (k.reg a ha).trans (h.reg a ha)⟩

/-- A change of other parts of the state. -/
theorem of_regs {s u : State} (hp : u.cwPend = s.cwPend) (hs : u.shadow = s.shadow) (hr : u.regs = s.regs) :
    KeepsPairs s u := ⟨hp, hs, fun a _ => congrArg (SMap.get (regReset a) · a) hr⟩

theorem foldl {α : Type} {f : State → α → State} (hf : ∀ s x, KeepsPairs s (f s x)) (l : List α) (s : State) :
    KeepsPairs s (l.foldl f s) := by
  induction l generalizing s with
  | nil => exact refl s
  | cons x l ih => exact (hf s x).trans (ih (f s x))

theorem ite {c : Prop} [Decidable c] {s u v : State} (hu : KeepsPairs s u) (hv : KeepsPairs s v) :
    KeepsPairs s (if c then u else v) := by
  split
  · exact hu
  · exact hv

/-! Tiles, rings and partitions -/

theorem modTile (s : State) (t : Nat) (f : Tile → Tile) : KeepsPairs s (s.modTile t f) := of_regs rfl rfl rfl
theorem modHerder (s : State) (t : Nat) (f : Herder → Herder) : KeepsPairs s (s.modHerder t f) := of_regs rfl rfl rfl
theorem setCtx (s : State) (t : Nat) (k : Bool) (c : Ctx) : KeepsPairs s (s.setCtx t k c) := of_regs rfl rfl rfl
theorem modRing (s : State) (g : Nat) (f : Ring → Ring) : KeepsPairs s (s.modRing g f) := of_regs rfl rfl rfl
theorem modPart (s : State) (p : Nat) (f : Part → Part) : KeepsPairs s (s.modPart p f) := of_regs rfl rfl rfl
theorem msix (s : State) (v : Nat) : KeepsPairs s (s.msix v) := of_regs rfl rfl rfl

/-! Registers -/

theorem setReg (s : State) {b : Nat} (v : Word) (hb : ¬ltrPlace b) : KeepsPairs s (s.setReg b v) :=
  ⟨rfl, rfl, fun _ ha => s.reg_setReg_ne v (fun e => hb (e ▸ ha))⟩

theorem setRegF (s : State) {b : Nat} (hi lo v : Nat) (hb : ¬ltrPlace b) : KeepsPairs s (s.setRegF b hi lo v) :=
  setReg s _ hb

theorem addRegF (s : State) {b : Nat} (hi lo d : Nat) (hb : ¬ltrPlace b) : KeepsPairs s (s.addRegF b hi lo d) :=
  setRegF s hi lo _ hb

theorem setFlags (s : State) (t : Nat) (f : Flags) : KeepsPairs s (s.setFlags t f) :=
  setReg s _ (not_ltrPlace_tilePage t (by decide))

theorem hangLog (s : State) (g tile cause : Nat) (killed : Bool) : KeepsPairs s (s.hangLog g tile cause killed) :=
  setReg s _ (not_ltrPlace_partPage _ (by decide))

theorem log (s : State) (src : Source) (sev : Sev) (part : Option Nat) (unit info : Nat) :
    KeepsPairs s (s.log src sev part unit info) := by
  unfold State.log
  extract_lets _ _ merge _ _ logged entered
  clear_value merge
  have he : KeepsPairs s entered := by
    unfold entered
    split
    · exact of_regs rfl rfl rfl
    · have hl : KeepsPairs s logged := of_regs rfl rfl rfl
      exact ite (hl.trans (addRegF logged 63 32 1 (by decide))) hl
  refine ite ?_ he
  split
  · exact he.trans (addRegF _ 63 32 1 (not_ltrPlace_partPage _ (by decide)))
  · exact he

/-! Draining (11 R429) -/

theorem poisonAt (s : State) (a : Nat) : KeepsPairs s (s.poisonAt a) := by
  unfold State.poisonAt
  split <;> exact of_regs rfl rfl rfl

theorem poisonRange (s : State) (a n : Nat) : KeepsPairs s (s.poisonRange a n) := by
  unfold State.poisonRange
  exact foldl (fun u _ => ite (poisonAt u _) (refl u)) _ s

theorem dropEntry (s : State) (t : Nat) (k : Bool) (serial : Nat) : KeepsPairs s (s.dropEntry t k serial) :=
  modHerder s t _

theorem dropStage (s : State) (t : Nat) (k : Bool) (serial : Nat) : KeepsPairs s (s.dropStage t k serial) :=
  modTile s t _

theorem abandonTargets (s : State) (t : Nat) (p : Pass) : KeepsPairs s (s.abandonTargets t p) := by
  unfold State.abandonTargets
  refine ite (modTile s t _) ?_
  split
  · exact refl s
  · exact foldl (fun u _ => foldl (fun v _ => poisonRange v _ _) _ u) _ s

theorem abandonPasses (s : State) (t : Nat) (p : Pass → Bool) : KeepsPairs s (s.abandonPasses t p) := by
  unfold State.abandonPasses
  extract_lets gone left
  have hl : KeepsPairs s left :=
    foldl (fun u (x : Pass) => (abandonTargets u t x).trans (dropEntry _ t x.kctx x.serial)) gone s
  exact hl.trans (modTile left t _)

theorem stopStreams (s : State) (t : Nat) (k : Bool) : KeepsPairs s (s.stopStreams t k) := by
  unfold State.stopStreams
  extract_lets mine left
  have hl : KeepsPairs s left := foldl (fun u (x : Strm) => dropEntry u t k x.serial) (mine.filter Strm.quiet) s
  exact hl.trans (modTile left t _)

theorem stopDrns (s : State) (t : Nat) (k : Bool) : KeepsPairs s (s.stopDrns t k) := by
  unfold State.stopDrns
  extract_lets gone flagged lost
  have hf : KeepsPairs s flagged := foldl (fun u (d : DrnRun) => setFlags u t d.flags) gone s
  exact hf.trans (modTile flagged t _)

theorem drainCtx (s : State) (t : Nat) (k : Bool) : KeepsPairs s (s.drainCtx t k) := by
  unfold State.drainCtx
  extract_lets _ halted passed parked stop staged drained
  have hp : KeepsPairs s parked :=
    ((setCtx s t k _).trans (abandonPasses halted t _)).trans (modHerder passed t _)
  have hs : KeepsPairs parked staged :=
    foldl (fun u (e : Entry) => (dropStage u t k e.serial).trans (dropEntry _ t k e.serial)) stop parked
  have hd : KeepsPairs staged drained := (stopDrns staged t k).trans (modTile _ t _)
  exact ((hp.trans hs).trans hd).trans (stopStreams drained t k)

theorem drainOn (s : State) (r : TaskRef) (t : Nat) (k : Bool) : KeepsPairs s (s.drainOn r t k) := by
  unfold State.drainOn
  extract_lets u
  exact (modHerder s t _).trans (ite (drainCtx u t k) (refl u))

theorem drainTask (s : State) (r : TaskRef) (cause : Nat) (res : TaskRes) (code tile : Nat) :
    KeepsPairs s (s.drainTask r cause res code tile) := by
  unfold State.drainTask
  split
  · exact refl s
  · split
    · extract_lets tiles stopped marked
      have hs : KeepsPairs s stopped := foldl (fun u (x : Nat × Bool) => drainOn u r x.1 x.2) tiles s
      exact (hs.trans (modRing stopped r.ring _)).trans (hangLog marked _ _ _ _)
    · exact ite (modRing s r.ring _) (refl s)
    · exact refl s

theorem drainPart (s : State) (p : Nat) : KeepsPairs s (s.drainPart p) := by
  unfold State.drainPart
  refine foldl (fun u r => ?_) _ s
  extract_lets g refs drained
  have hd : KeepsPairs u drained := foldl (fun v x => drainTask v x 0 .partReset 0 0x7FF) refs u
  exact hd.trans (modRing drained g _)

/-! Rust errors and the uses of a tolerance (15 R569, R588) -/

theorem rustError (s : State) (src : Source) (p unit info : Nat) : KeepsPairs s (s.rustError src p unit info) := by
  unfold State.rustError
  extract_lets logged source counted st draining told
  have hc : KeepsPairs s counted :=
    ((log s src .rust (some p) unit info).trans (setRegF _ 15 8 _ (not_ltrPlace_partPage p (by decide)))).trans
      (addRegF _ 31 16 1 (not_ltrPlace_partPage p (by decide)))
  exact ite hc ((hc.trans ((modPart counted p _).trans (msix draining _))).trans (drainPart told p))

theorem withInj (s : State) (i : Bool) {f : State → State} (hf : ∀ u, KeepsPairs u (f u)) :
    KeepsPairs s (s.withInj i f) := by
  unfold State.withInj
  refine ite ?_ (hf s)
  extract_lets _ _ acted
  have ha : KeepsPairs s acted := by
    refine trans ?_ (hf _)
    exact of_regs rfl rfl rfl
  exact ha.trans (of_regs rfl rfl rfl)

theorem injComp (s : State) (a : Nat) : KeepsPairs s (s.injComp a).2 := by
  unfold State.injComp
  extract_lets
  split
  · exact of_regs rfl rfl rfl
  · exact refl s

theorem useCw (s : State) (p a : Nat) : KeepsPairs s (s.useCw (some p) a).2 := by
  have hi := injComp s a
  unfold State.useCw
  generalize s.injComp a = x at hi ⊢
  obtain ⟨i, u⟩ := x
  dsimp only at hi ⊢
  split
  · exact hi.trans (withInj u _ fun v => rustError v _ _ _ _)
  · exact hi

theorem useLtr (s : State) (p : Nat) : KeepsPairs s (s.useLtr p).2 := by
  have h := useCw s p (partPage p oLtr)
  unfold State.useLtr
  generalize s.useCw (some p) (partPage p oLtr) = x at h ⊢
  obtain ⟨_ | _, u⟩ := x <;> exact h

theorem deepestFor (s : State) (t : Nat) : KeepsPairs s (s.deepestFor t).2 := by
  unfold State.deepestFor
  split
  · split
    · exact useLtr s _
    · exact refl s
  · exact refl s

theorem startExit (s : State) (t : Nat) (target : PwrSt) : KeepsPairs s (s.startExit t target) := by
  unfold State.startExit
  extract_lets x g exiting
  have he : KeepsPairs s exiting := modTile s t _
  refine ite (refl s) (ite ?_ he)
  split
  · exact he.trans (of_regs rfl rfl rfl)
  · exact he

theorem applyLtr (s : State) (p : Nat) : KeepsPairs s (s.applyLtr p) := by
  unfold State.applyLtr
  exact foldl (fun u t => (deepestFor u t).trans (startExit _ t _)) _ s

end KeepsPairs

end Sys2Proof.Machine

/-! Complement-stored registers: what a write of the value and of the twin does, and what installing a pair
changes (00 R14; 16 R621). -/
namespace Sys2Proof.Machine

/-! A write of the whole register (R14) -/

theorem State.cwWrite_full {s : State} (part : Option Nat) {r : Reg} {a : Nat} {v : Word}
    (hr : r.refuses v allBits v = false) (hh : s.cwHeld a = false) :
    s.cwWrite part r a v allBits = { s with cwPend := SMap.set s.cwPend a v } := by
  simp only [State.cwWrite, merge_allBits, hr, hh, Bool.or_self, Bool.false_eq_true, if_false]

/-- A value that places nothing in a reserved field. -/
theorem Reg.live_of_refuses {r : Reg} {p m v : Word} (h : r.refuses p m v = false) : p &&& ~~~ r.live = 0 := by
  unfold Reg.refuses at h
  rw [Bool.or_eq_false_iff] at h
  exact Decidable.not_not.mp (of_decide_eq_false h.1)

section
variable {s : State} (part : Option Nat) {c : Reg} {a : Nat} {v : Word} (hl : v &&& ~~~ c.live = 0)
  (hh : s.cwHeld (a + 8) = false)
include hl hh

/-- No value waits for the twin. -/
theorem State.twinWrite_alone (hn : SMap.find s.cwPend a = none) :
    s.twinWrite part c (a + 8) v allBits = s.compWrite part (a + 8) := by
  simp [State.twinWrite, hl, hh, hn]

/-- The twin does not match the value that waits. -/
theorem State.twinWrite_mismatch {x : Word} (hx : SMap.find s.cwPend a = some x)
    (hm : (x ^^^ v) &&& c.cwMask ≠ c.cwMask) :
    s.twinWrite part c (a + 8) v allBits =
      State.compWrite { s with cwPend := SMap.erase s.cwPend a } part (a + 8) := by
  simp [State.twinWrite, merge_allBits, hl, hh, hx, hm]

/-- The twin matches the value that waits. -/
theorem State.twinWrite_match {x : Word} (hx : SMap.find s.cwPend a = some x)
    (hm : (x ^^^ v) &&& c.cwMask = c.cwMask) :
    s.twinWrite part c (a + 8) v allBits = s.installCw part c a x v := by
  simp [State.twinWrite, merge_allBits, hl, hh, hx, hm]

end

/-! The rows -/

theorem State.regWrite_cw {s : State} {w : Writer} {a : Nat} {v : Word} {r : Reg} (h : s.takes w a .full v)
    (hr : findReg a = some r) (hc : r.cwMask ≠ 0) (ht : r.isTwin = false) (hh : s.cwHeld a = false) :
    s.regWrite w a .full v = { s with cwPend := SMap.set s.cwPend a v } := by
  obtain ⟨hlets, hlocks, hfree, hne, hval⟩ := h
  have hroute := (findReg_paired hr (fun h => hc h.1)).1
  have href : r.refuses v allBits v = false := by
    have h := (hval r hr).1
    rwa [show Acc.full.mask = allBits from rfl, merge_allBits] at h
  rw [s.regWrite_of_lets .full v hlets, s.writeAt_of_some v hne hr (.inl rfl),
    s.knownWrite_of_cw _ _ hlocks hfree hroute ht hc]
  exact s.cwWrite_full _ href hh

theorem State.regWrite_twin {s : State} {w : Writer} {a : Nat} {v : Word} {c : Reg} (h : s.takes w (a + 8) .full v)
    (hr : findReg (a + 8) = some c) (ht : c.isTwin = true) (hroute : isRoute (a + 8) = false) :
    s.regWrite w (a + 8) .full v = s.twinWrite (w.owner s) c (a + 8) v allBits ∧ v &&& ~~~ c.live = 0 := by
  obtain ⟨hlets, hlocks, hfree, hne, hval⟩ := h
  rw [s.regWrite_of_lets .full v hlets, s.writeAt_of_some v hne hr (.inl rfl),
    s.knownWrite_of_twin _ _ hlocks hfree hroute ht]
  exact ⟨rfl, Reg.live_of_refuses (hval c hr).1⟩

/-! Installing a pair -/

/-- A pair of a staged register goes to the shadows (R621). -/
theorem State.installCw_staged {s : State} (part : Option Nat) {c : Reg} (a : Nat) (x v : Word) (hs : c.staged = true) :
    SMap.find (s.installCw part c a x v).cwPend a = none ∧ (s.installCw part c a x v).shadowOf a = x ∧
      (s.installCw part c a x v).shadowOf (a + 8) = v ∧ (s.installCw part c a x v).regs = s.regs := by
  unfold State.installCw
  rw [if_pos hs]
  refine ⟨SMap.find_erase_same _ _, ?_, SMap.get_set_same _ _ _ _, rfl⟩
  exact (SMap.get_set_ne _ _ v (by omega)).trans (SMap.get_set_same _ _ _ _)

/-- u holds the pending values and the shadows that s does, and the same value and twin at a place. -/
structure KeepsPairAt (a : Nat) (s u : State) : Prop where
  pend : u.cwPend = s.cwPend
  shadow : u.shadow = s.shadow
  value : u.reg a = s.reg a
  twin : u.reg (a + 8) = s.reg (a + 8)

theorem KeepsPairAt.of_regs {a : Nat} {s u : State} (hp : u.cwPend = s.cwPend) (hs : u.shadow = s.shadow)
    (hr : u.regs = s.regs) : KeepsPairAt a s u :=
  ⟨hp, hs, congrArg (SMap.get (regReset a) · a) hr, congrArg (SMap.get (regReset (a + 8)) · (a + 8)) hr⟩

theorem KeepsPairs.at_ltr {s u : State} (h : KeepsPairs s u) {a : Nat} (ha : a % 0x10000 = oLtr) :
    KeepsPairAt a s u := by
  unfold oLtr at ha
  exact ⟨h.pend, h.shadow, h.reg a (.inl (by unfold oLtr; omega)), h.reg (a + 8) (.inr (by unfold oLtr; omega))⟩

/-- What follows the installation of a pair other than PWR_MOD_JET leaves the pair as it was installed. -/
theorem State.cwInstalled_keeps (s : State) {a : Nat} (hj : a ≠ rPwrJet) : KeepsPairAt a s (s.cwInstalled a) := by
  unfold State.cwInstalled
  split
  · extract_lets off
    split
    · rename_i q _ hl
      exact (KeepsPairs.applyLtr s q).at_ltr hl
    · split <;> exact .of_regs rfl rfl rfl
  · rw [if_neg hj]
    exact .of_regs rfl rfl rfl
  · exact .of_regs rfl rfl rfl

/-- A pair of any other register but PWR_MOD_JET goes to the register and its twin (R14). -/
theorem State.installCw_plain {s : State} (part : Option Nat) {c : Reg} {a : Nat} (x v : Word) (hs : c.staged = false)
    (hj : a ≠ rPwrJet) :
    SMap.find (s.installCw part c a x v).cwPend a = none ∧ (s.installCw part c a x v).reg a = x ∧
      (s.installCw part c a x v).reg (a + 8) = v ∧ (s.installCw part c a x v).shadow = s.shadow := by
  simp only [State.installCw, hs, hj, false_and, if_false, Bool.false_eq_true]
  have hk := State.cwInstalled_keeps
    ((State.setReg { s with cwPend := SMap.erase s.cwPend a } a x).setReg (a + 8) v) hj
  refine ⟨?_, hk.value.trans ?_, hk.twin.trans (State.reg_setReg_same _ _ _), hk.shadow⟩
  · rw [hk.pend]
    exact SMap.find_erase_same _ _
  · rw [State.reg_setReg_ne _ v (by omega), State.reg_setReg_same]

/-- Settles O39: the map puts a twin beside each complement-stored register, and its write is decided by the value that
waits and by the match. That the entry of a mismatch names the twin's address is the model's choice (log entry 17). -/
theorem complementPairs : Obligations.ComplementPairs := by
  intro s w a r v hr hc ht
  obtain ⟨-, hroute, -, htwin⟩ := findReg_paired hr (fun h => hc h.1)
  obtain ⟨c, hfind, hct, hmask, hstaged⟩ := htwin.resolve_left (by simp [ht])
  refine ⟨fun htakes hh => ?value, fun htakes hh => ?twin⟩
  case value => rw [exec_cwWrite, State.regWrite_cw htakes hr hc ht hh]
  case twin =>
    obtain ⟨hw, hl⟩ := State.regWrite_twin htakes hfind hct hroute
    rw [exec_cwTwinWrite, hw, ← hmask]
    refine ⟨fun hn => by rw [State.twinWrite_alone _ hl hh hn],
      fun x hx hne => by rw [State.twinWrite_mismatch _ hl hh hx hne], fun x hx hm hj => ?_⟩
    rw [State.twinWrite_match _ hl hh hx hm]
    refine ⟨_, rfl, ?_⟩
    cases hs : r.staged with
    | false =>
      obtain ⟨hp, ha, hb, hsh⟩ := State.installCw_plain (s := s) (w.owner s) x v (hstaged.trans hs) hj
      exact ⟨hp, fun _ => ⟨ha, hb, hsh⟩, nofun⟩
    | true =>
      obtain ⟨hp, ha, hb, hrg⟩ := State.installCw_staged (s := s) (w.owner s) a x v (hstaged.trans hs)
      exact ⟨hp, nofun, fun _ => ⟨ha, hb, hrg⟩⟩

end Sys2Proof.Machine

/-! The drain's sum (02 R46; 04 R128, R136): the clip to 32 bits and the quire's saturation are one clamp, and a target
holds what its own format's addition gives. -/
namespace Sys2Proof.Machine

/-! The clamp of an exact sum -/

/-- Two tests against the bounds `lo` and `hi` give the clamped value and whether it lay outside them. -/
theorem ite_bounds_eq_clamp {α : Type} (result : Int → Bool → α) {lo hi x : Int} (h : lo ≤ hi) :
    (if x > hi then result hi true else if x < lo then result lo true else result x false) =
      result (max lo (min hi x)) (decide (x < lo ∨ hi < x)) := by
  split
  case isTrue hhi =>
    have hv : max lo (min hi x) = hi := by omega
    rw [hv, decide_eq_true (Or.inr hhi)]
  case isFalse hhi =>
    split
    case isTrue hlo =>
      have hv : max lo (min hi x) = lo := by omega
      rw [hv, decide_eq_true (Or.inl hlo)]
    case isFalse hlo =>
      have hv : max lo (min hi x) = x := by omega
      rw [hv, decide_eq_false (not_or.mpr ⟨hlo, hhi⟩)]

theorem clipInt_S32 (x : Int) :
    clipInt .S32 x = (max (-2 ^ 31) (min (2 ^ 31 - 1) x), decide (x < -2 ^ 31 ∨ 2 ^ 31 - 1 < x)) :=
  ite_bounds_eq_clamp Prod.mk (by decide)

theorem quireOfInt_eq_clamp (n : Nat) (x : Int) :
    let lim : Int := 2 ^ (16 * n - 1) - 1
    quireOfInt n x = ⟨ofSigned (16 * n) (max (-lim) (min lim x)),
      { of := decide (x < -lim ∨ lim < x), nx := decide (x < -lim ∨ lim < x) }⟩ := by
  intro lim
  have hlim : 0 ≤ lim := Int.sub_nonneg_of_le (Int.pow_pos (by decide))
  exact ite_bounds_eq_clamp (fun v c => Rounded.mk (ofSigned (16 * n) v) { of := c, nx := c })
    (show -lim ≤ lim by omega)

/-! The addition to a quire (R46) -/

/-- A value is the multiple of its own bit 0 that its significand names. -/
@[simp] theorem Dy.toUnits?_self (i e : Int) : Dy.toUnits? ⟨i, e⟩ e = some i := by
  simp [Dy.toUnits?, Dy.at, shlInt]

theorem quireAdd_units {n w : Nat} {q : Int} (h : quireInt n w = some q) (i : Int) :
    quireAdd n w (some ⟨i, quireLsb n⟩) = quireOfInt n (q + i) := by
  simp [quireAdd, h]

theorem quireAdd_of_nar {n w : Nat} (h : quireInt n w = none) (v : Option Dy) :
    quireAdd n w v = ⟨quireNaR n, {}⟩ := by
  simp [quireAdd, h]

@[simp] theorem quireAdd_none (n w : Nat) : quireAdd n w none = ⟨quireNaR n, {}⟩ := by
  simp [quireAdd]

/-! The target of a drain (R128) -/

theorem addTarget_S32 (old : Nat) (i : Int) :
    let c := clipInt .S32 (toSigned 32 old + i)
    addTarget .S32 old (some ⟨i, 0⟩) = some ⟨ofSigned 32 c.1, { of := c.2, nx := c.2 }⟩ := by
  simp [addTarget]

/-- A quire target gets the quire's own sum, unless the partial has bits below the bit 0 of a quire that holds a
value. -/
theorem addTarget_quire {f : Fmt} (hf : f.isQuire = true) {old : Nat} {part : Option Dy}
    (hu : ∀ q x, quireInt f.quireOf old = some q → part = some x → (x.toUnits? (quireLsb f.quireOf)).isSome = true) :
    addTarget f old part = some (quireAdd f.quireOf old part) := by
  unfold addTarget
  split
  case h_1 => simp [Fmt.isQuire] at hf
  case h_2 =>
    split
    case h_1 q x hq => exact if_pos (hu q x hq rfl)
    case h_2 => rfl

/-- Settles O20: each sum is the target format's own, clamped to its bounds, and NaR in the target or in the partial
gives NaR. -/
theorem drainAddsToTargets : Obligations.DrainAddsToTargets := by
  refine ⟨fun old i => ?s32, fun f old i q hf => ?quire, fun f old v hf hnar => ?targetNaR, fun f old hf => ?partNaR⟩
  case s32 => rw [addTarget_S32, clipInt_S32]
  case quire =>
    intro n hq
    have hu : (Dy.toUnits? ⟨i, quireLsb n⟩ (quireLsb n)).isSome = true := by simp
    rw [addTarget_quire hf (by rintro _ _ - ⟨⟩; exact hu), quireAdd_units hq, quireOfInt_eq_clamp]
  case targetNaR => rw [addTarget_quire hf (by simp [hnar]), quireAdd_of_nar hnar]
  case partNaR => rw [addTarget_quire hf (by simp), quireAdd_none]

end Sys2Proof.Machine

/-! A plain write: what a store leaves when every unit it touches is a codeword and none is encrypted (10 R374 to R379,
R382). -/
namespace Sys2Proof.Machine

theorem Memory.writeN_append (m : Memory) (a : Nat) (xs ys : List Byte) :
    m.writeN a (xs ++ ys) = (m.writeN a xs).writeN (a + xs.length) ys := by
  induction xs generalizing m a with
  | nil => rfl
  | cons x xs ih =>
    simp only [List.cons_append, Memory.writeN, List.length_cons, ih]
    congr 1
    omega

theorem SMap.get_erase_ne {α : Type} (d : α) (m : SMap α) {k j : Nat} (h : j ≠ k) :
    SMap.get d (SMap.erase m k) j = SMap.get d m j := by
  induction m with
  | nil => rfl
  | cons p m ih =>
    obtain ⟨k', v'⟩ := p
    unfold SMap.erase at ih ⊢
    by_cases e : k' = k
    · subst e
      simp [SMap.get, h, ih]
    · simp [e, SMap.get, ih]

@[simp] theorem length_toBytesLE (n v : Nat) : (toBytesLE n v).length = n := by
  induction n generalizing v with
  | zero => rfl
  | succ n ih => simp [toBytesLE, ih]

/-- A unit that is clean stays so when another, or it itself, is made a codeword. -/
theorem State.checkDiff_setCheckDiff_zero (s : State) (u : EccUnit) {v : EccUnit} (h : s.checkDiff v = 0) :
    (s.setCheckDiff u 0).checkDiff v = 0 := by
  obtain ⟨uh, ua⟩ := u
  obtain ⟨vh, va⟩ := v
  cases uh <;> cases vh
  case true.false | false.true => exact h
  case false.false =>
    by_cases e : va / 8 = ua / 8
    · simp [State.setCheckDiff, State.checkDiff, e]
    · simpa [State.setCheckDiff, State.checkDiff, SMap.get_erase_ne _ _ e] using h
  case true.true =>
    by_cases e : va / 64 = ua / 64
    · simp [State.setCheckDiff, State.checkDiff, e]
    · simpa [State.setCheckDiff, State.checkDiff, SMap.get_erase_ne _ _ e] using h

theorem State.setCheckDiff_eq (s : State) (u : EccUnit) (d : BitVec 64) :
    s.setCheckDiff u d =
      { s with eccW := (s.setCheckDiff u d).eccW, eccB := (s.setCheckDiff u d).eccB } := by
  unfold State.setCheckDiff
  split <;> rfl

/-! What a write of bytes changes -/

/-- u is s with bytes written from an address on: else only check bits may differ, and a clean unit is still clean. -/
structure Wrote (a : Nat) (bs : List Byte) (s u : State) : Prop where
  mem : u.mem = s.mem.writeN a bs
  clean : ∀ v, s.checkDiff v = 0 → u.checkDiff v = 0
  rest : ∃ m w b, u = { s with mem := m, eccW := w, eccB := b }

namespace Wrote

theorem nil (a : Nat) (s : State) : Wrote a [] s s := ⟨rfl, fun _ h => h, _, _, _, rfl⟩

theorem append {a : Nat} {xs ys : List Byte} {s u v : State} (h : Wrote a xs s u)
    (k : Wrote (a + xs.length) ys u v) : Wrote a (xs ++ ys) s v := by
  refine ⟨by rw [k.mem, h.mem, Memory.writeN_append], fun x hx => k.clean x (h.clean x hx), ?_⟩
  obtain ⟨_, _, _, rfl⟩ := h.rest
  obtain ⟨_, _, _, rfl⟩ := k.rest
  exact ⟨_, _, _, rfl⟩

end Wrote

/-- What `State.plain` asks of each unit of a range. -/
structure State.PlainUnit (s : State) (u : EccUnit) : Prop where
  clean : s.checkDiff u = 0
  unarmed : s.sec.inj.armed = false
  unkeyed : ∀ cs, regionOf u.addr = .hbm cs → s.setKey cs = none

theorem State.plain_iff {s : State} {a n : Nat} :
    s.plain a n = true ↔ s.sec.inj.armed = false ∧ ∀ u ∈ eccUnits a n, s.PlainUnit u := by
  simp only [State.plain, State.clean, Bool.and_eq_true, List.all_eq_true, beq_iff_eq, Bool.not_eq_true']
  constructor
  · rintro ⟨⟨hc, hi⟩, hk⟩
    refine ⟨hi, fun u hu => ⟨hc u hu, hi, fun cs hr => ?_⟩⟩
    have h := hk u hu
    rw [hr] at h
    exact Option.isNone_iff_eq_none.mp h
  · rintro ⟨hi, h⟩
    refine ⟨⟨fun u hu => (h u hu).clean, hi⟩, fun u hu => ?_⟩
    split
    case h_1 cs hr => exact Option.isNone_iff_eq_none.mpr ((h u hu).unkeyed cs hr)
    case h_2 => rfl

theorem Wrote.plainUnit {a : Nat} {bs : List Byte} {s u : State} (h : Wrote a bs s u) {v : EccUnit}
    (hv : s.PlainUnit v) : u.PlainUnit v := by
  have hc := h.clean v hv.clean
  obtain ⟨_, _, _, rfl⟩ := h.rest
  exact ⟨hc, hv.unarmed, hv.unkeyed⟩

theorem Wrote.plain {a : Nat} {bs : List Byte} {s u : State} (h : Wrote a bs s u) {p n : Nat}
    (hp : s.plain p n = true) : u.plain p n = true := by
  obtain ⟨hi, hu⟩ := State.plain_iff.mp hp
  refine State.plain_iff.mpr ⟨?_, fun v hv => h.plainUnit (hu v hv)⟩
  obtain ⟨_, _, _, rfl⟩ := h.rest
  exact hi

/-! One unit -/

/-- The first address of a unit that a write from an address on covers. -/
def EccUnit.firstWritten (u : EccUnit) (a : Nat) : Nat := max a u.addr

/-- The bytes of a write that fall into a unit. -/
def EccUnit.share (u : EccUnit) (a : Nat) (bs : List Byte) : List Byte :=
  (bs.drop (u.firstWritten a - a)).take (min (a + bs.length) (u.addr + u.size) - u.firstWritten a)

theorem State.PlainUnit.mergeUnit {s : State} {u : EccUnit} (h : s.PlainUnit u) (a : Nat) (bs : List Byte) :
    s.mergeUnit u a bs = { s with mem := s.mem.writeN (u.firstWritten a) (u.share a bs) } := by
  unfold State.mergeUnit
  split
  case h_1 cs hr => rw [h.unkeyed cs hr]; rfl
  case h_2 => rfl

/-- A write to a plain unit, whole or merged, puts its share of the bytes into memory. -/
theorem State.PlainUnit.store1 {s : State} {u : EccUnit} (h : s.PlainUnit u) (a : Nat) (bs : List Byte) :
    Wrote (u.firstWritten a) (u.share a bs) s (s.store1 u a bs) := by
  have hinj : s.injEcc u = none := by simp [State.injEcc, h.unarmed]
  have hread : s.eccRead1 u false = (.clean, s) := State.eccRead1_clean s u false h.clean hinj
  have hclass : s.eccClass u = .clean := congrArg Prod.fst hread
  unfold State.store1
  split
  case isTrue =>
    have hw : Wrote (u.firstWritten a) [] s (s.setCheckDiff u 0) :=
      ⟨s.setCheckDiff_mem u 0, fun _ => s.checkDiff_setCheckDiff_zero u, _, _, _, s.setCheckDiff_eq u 0⟩
    rw [(hw.plainUnit h).mergeUnit]
    exact hw.append ⟨rfl, fun _ hv => hv, _, _, _, rfl⟩
  case isFalse =>
    simp only [hclass, hread, reduceCtorEq, false_and, if_false, EccRead.ok, if_true, h.mergeUnit]
    exact ⟨rfl, fun _ hv => hv, _, _, _, rfl⟩

/-! A range -/

/-- Unit i of a range from an address on. -/
def eccUnitAt (a i : Nat) : EccUnit := ⟨(eccUnit a).hbm, (eccUnit a).addr + (eccUnit a).size * i⟩

/-- A range starts in its first unit. -/
theorem eccUnit_addr_add_mod (a : Nat) : (eccUnit a).addr + a % (eccUnit a).size = a := by
  unfold eccUnit
  split <;> simp only [EccUnit.size, if_true, Bool.false_eq_true, if_false] <;> omega

/-- The bytes up to a unit's start and the unit's share are the bytes up to the next unit's start. -/
theorem take_append_share {a : Nat} (bs : List Byte) (i : Nat) :
    bs.take ((eccUnitAt a i).addr - a) ++ (eccUnitAt a i).share a bs =
      bs.take ((eccUnitAt a (i + 1)).addr - a) := by
  have hnext : (eccUnitAt a (i + 1)).addr = (eccUnitAt a i).addr + (eccUnitAt a i).size :=
    (Nat.add_assoc _ _ _).symm
  rw [hnext]
  generalize eccUnitAt a i = u
  have hfirst : u.firstWritten a - a = u.addr - a := by unfold EccUnit.firstWritten; omega
  have hsum : u.addr + u.size - a = (u.addr - a) + (u.addr + u.size - u.firstWritten a) := by
    unfold EccUnit.firstWritten
    omega
  unfold EccUnit.share
  rw [hsum, List.take_add, hfirst, List.append_cancel_left_eq, List.take_eq_take_iff, List.length_drop]
  unfold EccUnit.firstWritten
  omega

/-- The first j units of a plain write put the bytes up to their end into memory. -/
theorem State.wrote_units {s : State} {a : Nat} {bs : List Byte} (h : s.plain a bs.length = true) (j : Nat)
    (hj : j ≤ (eccUnits a bs.length).length) :
    Wrote a (bs.take ((eccUnitAt a j).addr - a)) s
      ((List.range j).foldl (fun s i => s.store1 (eccUnitAt a i) a bs) s) := by
  have hstart := eccUnit_addr_add_mod a
  induction j with
  | zero =>
    have h0 : (eccUnitAt a 0).addr - a = 0 := by simp only [eccUnitAt]; omega
    rw [h0, List.take_zero]
    exact .nil a s
  | succ i ih =>
    have hmem : eccUnitAt a i ∈ eccUnits a bs.length := by
      rw [eccUnits, List.length_map, List.length_range] at hj
      exact List.mem_map.mpr ⟨i, List.mem_range.mpr hj, rfl⟩
    have hin : (eccUnitAt a i).addr ≤ a + bs.length := by
      rw [eccUnits, List.length_map, List.length_range] at hj
      have hlt := Nat.mul_le_of_le_div _ _ _ hj
      rw [Nat.add_mul, Nat.mul_comm] at hlt
      simp only [eccUnitAt]
      omega
    have hw := ih (Nat.le_of_succ_le hj)
    have hu := (hw.plainUnit ((State.plain_iff.mp h).2 _ hmem)).store1 a bs
    have hat : (eccUnitAt a i).firstWritten a = a + (bs.take ((eccUnitAt a i).addr - a)).length := by
      rw [List.length_take]
      unfold EccUnit.firstWritten
      omega
    rw [hat] at hu
    rw [List.range_succ, List.foldl_append, ← take_append_share]
    exact hw.append hu

/-- A plain write puts its bytes into memory. -/
theorem State.store_of_plain {s : State} {a : Nat} {bs : List Byte} (h : s.plain a bs.length = true) :
    Wrote a bs s (s.store a bs) := by
  have hw := State.wrote_units h _ (Nat.le_refl _)
  have hend : bs.length ≤ (eccUnitAt a (eccUnits a bs.length).length).addr - a := by
    have hstart := eccUnit_addr_add_mod a
    have hk : 0 < (eccUnit a).size := by unfold EccUnit.size; split <;> decide
    have hlt := Nat.lt_mul_div_succ (a % (eccUnit a).size + bs.length + (eccUnit a).size - 1) hk
    rw [Nat.mul_add] at hlt
    simp only [eccUnitAt, eccUnits, List.length_map, List.length_range]
    omega
  rw [List.take_of_length_le hend] at hw
  simpa [State.store, eccUnits, eccUnitAt, List.foldl_map] using hw

theorem lt_hbmTop_of_regionOf {a cs : Nat} (h : regionOf a = .hbm cs) : a < hbmTop := by
  refine Decidable.byContradiction fun ha => ?_
  simp only [regionOf, if_neg ha] at h
  repeat' split at h
  all_goals cases h

/-- A read of a clean range of a tile's window delivers what memory holds. -/
theorem State.loadE_of_clean_window {s : State} {t a n : Nat} (hw : inWindow t a n = true) (hc : s.clean a n = true) :
    s.loadE a n = (.ok (s.mem.readN a n), s) := by
  have hraw : s.rawRead a n = s.mem.readN a n := by
    unfold State.rawRead
    split
    case h_1 cs hr =>
      have hlt := lt_hbmTop_of_regionOf hr
      have hbase := (of_decide_eq_true hw).1
      unfold hbmTop at hlt
      unfold tileBase at hbase
      omega
    case h_2 => rfl
  simp [State.loadE, State.load_of_clean hc, hraw]

end Sys2Proof.Machine

/-! The instructions of the SFU from their handover to their completion (06 R188 to R217; 08 R303 to R313). -/
namespace Sys2Proof.Machine

/-! The rows -/

@[simp] theorem exec_sfuHandover (t : Nat) (s : State) : exec (.sfuHandover t) s = execSfuHandover t s := rfl
@[simp] theorem exec_sfuComplete (t : Nat) (s : State) : exec (.sfuComplete t) s = execSfuComplete t s := rfl

theorem exec_sfuHandover_of_next {s : State} {t : Nat} {e : Entry} (hr : s.enginesRun t = true)
    (hn : (s.herder t).nextOf (fun e => e.cls == .sfu) = some e) (hp : s.paused t e.kctx = false)
    (hb : (s.herder t).begunOf .sfu = false) : exec (.sfuHandover t) s = .next (s.handSfu t e) := by
  simp [execSfuHandover, hr, hn, hp, hb]

theorem exec_sfuComplete_of_run {s : State} {t : Nat} {run : SfuRun} {e : Entry} (hr : s.enginesRun t = true)
    (hf : (s.tile t).sfu.find? (fun r => !s.paused t r.kctx) = some run)
    (he : s.entry t run.kctx run.serial = some e) : exec (.sfuComplete t) s = .next (s.runSfu t e run) := by
  simp [execSfuComplete, hr, hf, he]

/-! What the updates of a tile change -/

theorem onlyTile_modTile (s : State) (t : Nat) (f : Tile → Tile) : onlyTile t s (s.modTile t f) :=
  ⟨rfl, fun _ h => s.tile_modTile_ne f h⟩

theorem onlyTile_begin (s : State) (t : Nat) (k : Bool) (n : Nat) : onlyTile t s (s.begin_ t k n) :=
  ⟨rfl, fun _ h => s.tile_modHerder_ne _ h⟩

theorem onlyTile.trans {t : Nat} {s u v : State} (h : onlyTile t s u) (k : onlyTile t u v) : onlyTile t s v := by
  obtain ⟨hu, htu⟩ := h
  obtain ⟨hv, htv⟩ := k
  refine ⟨?_, fun j hj => (htv j hj).trans (htu j hj)⟩
  rw [hv, hu]

@[simp] theorem State.tile_addSfu_same (s : State) (t : Nat) (r : SfuRun) :
    (s.addSfu t r).tile t = { s.tile t with sfu := (s.tile t).sfu ++ [r] } := s.tile_modTile_same t _

@[simp] theorem State.tile_addStage_same (s : State) (t : Nat) (g : Stage) :
    (s.addStage t g).tile t =
      { s.tile t with chain := { (s.tile t).chain with stages := (s.tile t).chain.stages ++ [g] } } :=
  s.tile_modTile_same t _

@[simp] theorem State.sfu_begin (s : State) (t : Nat) (k : Bool) (n : Nat) :
    ((s.begin_ t k n).tile t).sfu = (s.tile t).sfu := by
  simp [State.begin_, State.modEntry]

@[simp] theorem State.chain_begin (s : State) (t : Nat) (k : Bool) (n : Nat) :
    ((s.begin_ t k n).tile t).chain = (s.tile t).chain := by
  simp [State.begin_, State.modEntry]

/-! Handover (06 R207, R209, R210; 08 R285, R286, R313) -/

/-- An instruction that needs no route: a chain `topk` also becomes a stage. -/
theorem State.handSfu_of_local {s : State} {t : Nat} {e : Entry} (hop : e.opc ≠ 0x87)
    (hl : e.opc = 0x86 → (s.stageOf e).role = 0 ∨ (s.stageOf e).role = 3 ∨ (s.stageOf e).ndev = none) :
    s.handSfu t e =
      let b := s.begin_ t e.kctx e.serial
      State.addSfu (if e.opc = 0x86 ∧ (s.stageOf e).role ≠ 0 then b.addStage t (s.stageOf e) else b) t
        { kctx := e.kctx, serial := e.serial } := by
  have hg : (s.begin_ t e.kctx e.serial).stageOf e = s.stageOf e := rfl
  have hroute : (if (e.opc = 0x86 ∧ (s.stageOf e).role ≠ 0) ∧ (s.stageOf e).role ≠ 3
      then (s.stageOf e).ndev else none) = none := by
    split
    case isTrue h =>
      obtain ⟨⟨h86, h0⟩, h3⟩ := h
      exact ((hl h86).resolve_left h0).resolve_left h3
    case isFalse => rfl
  simp only [State.handSfu, hop, if_false, hg, Bool.and_eq_true, beq_iff_eq, bne_iff_ne, hroute, State.routeOk]

/-- An `smp` whose blocks read and pass their checks keeps what it read. -/
theorem State.handSmp_of_good {s : State} {t : Nat} {e : Entry} {bs cs : List Byte}
    (hp : s.loadE e.a1.toNat 16 = (.ok bs, s)) (hq : s.loadE e.a2.toNat 32 = (.ok cs, s))
    (hspb : spbReject (ofBytesLE bs) = none)
    (hlen : ¬(2 ≤ nfld (ofBytesLE bs) 1 0 ∧ 64 < (TD.ofWord e.t1).cnt.getD 0 1))
    (htwin : nfld (ofBytesLE cs) 127 64 = complN 64 (nfld (ofBytesLE cs) 63 0)) :
    s.handSmp t e =
      s.addSfu t { kctx := e.kctx, serial := e.serial, spb := ofBytesLE bs, ssr := ofBytesLE cs } := by
  simp only [State.handSmp, hp, hspb, hlen, hq, if_false, htwin, ne_eq, not_true_eq_false]

theorem State.handSfu_of_smp {s : State} {t : Nat} {e : Entry} (hop : e.opc = 0x87) :
    s.handSfu t e = (s.begin_ t e.kctx e.serial).handSmp t e := by
  simp only [State.handSfu, hop, if_true]

/-! Completion -/

/-- The instruction k, n of tile t has left the scoreboard and the SFU, and memory is m. -/
structure LeftSfu (t : Nat) (k : Bool) (n : Nat) (m : Memory) (u : State) : Prop where
  mem : u.mem = m
  entry : u.entry t k n = none
  sfu : ∀ r ∈ (u.tile t).sfu, ¬(r.kctx = k ∧ r.serial = n)

@[simp] theorem State.complete_mem (s : State) (t : Nat) (k : Bool) (n : Nat) : (s.complete t k n).mem = s.mem := by
  unfold State.complete
  split <;> rfl

/-- A completion changes the herder alone. -/
theorem State.tile_complete (s : State) (t : Nat) (k : Bool) (n : Nat) :
    (s.complete t k n).tile t = { s.tile t with herder := (s.complete t k n).herder t } := by
  unfold State.complete
  split
  case h_1 => rfl
  case h_2 => simp [State.setCtx, State.dropEntry]

@[simp] theorem State.entry_complete (s : State) (t : Nat) (k : Bool) (n : Nat) :
    (s.complete t k n).entry t k n = none := by
  unfold State.complete
  split
  case h_1 h => exact h
  case h_2 => simp [State.entry, Herder.entry, State.dropEntry]

@[simp] theorem State.sfu_complete (s : State) (t : Nat) (k : Bool) (n : Nat) :
    ((s.complete t k n).tile t).sfu = (s.tile t).sfu := by rw [State.tile_complete]

@[simp] theorem State.chain_complete (s : State) (t : Nat) (k : Bool) (n : Nat) :
    ((s.complete t k n).tile t).chain = (s.tile t).chain := by rw [State.tile_complete]

@[simp] theorem State.sfu_advance (s : State) (t : Nat) (k : Bool) :
    ((s.advance t k).tile t).sfu = (s.tile t).sfu := by simp [State.advance]

@[simp] theorem State.chain_advance (s : State) (t : Nat) (k : Bool) :
    ((s.advance t k).tile t).chain = (s.tile t).chain := by simp [State.advance]

theorem State.leftSfu_endSfu (s : State) (t : Nat) (e : Entry) :
    LeftSfu t e.kctx e.serial s.mem (s.endSfu t e none) := by
  refine ⟨?_, State.entry_complete _ _ _ _, ?_⟩
  · simp [State.endSfu, State.dropSfu]
  · simp only [State.endSfu, State.dropSfu, State.sfu_complete, State.sfu_advance, State.tile_modTile_same]
    intro r hr hk
    simpa [hk] using (List.mem_filter.mp hr).2

@[simp] theorem State.findStage_endSfu (s : State) (t : Nat) (e : Entry) :
    (s.endSfu t e none).findStage t e.kctx e.serial = none := by
  simp [State.findStage, State.endSfu, State.dropSfu]

/-! Rows of `sfu` (06 R199 to R206; 08 R305, R306) -/

theorem State.runSfu_of_row {s : State} {t : Nat} {e : Entry} (run : SfuRun) {o : RowOut} (hop : e.opc = 0x84)
    (h1 : sfuR (TD.ofWord e.t1) = 1) (ho : s.sfuRow t e 0 = (.ok o, s)) :
    s.runSfu t e run = (s.putRow t e 0 o).endSfu t e none := by
  simp only [State.runSfu, hop, if_true, h1, State.sfuRows, ho, Option.map_none]

/-- Where row 0 of an `sfu` goes. -/
def Entry.rowPlace (e : Entry) : Nat :=
  if sfuOp e.word = 0 ∨ 8 ≤ sfuOp e.word then ((TD.ofWord e.t2).rowAddr 0).toNat else (TD.ofWord e.t2).base

/-- The bytes of row 0 of an `sfu` from what the row delivers. -/
def Entry.rowBytes (e : Entry) (o : RowOut) : List Byte :=
  if sfuOp e.word = 0 ∨ 8 ≤ sfuOp e.word then
    packRow ((TD.ofWord e.t2).fmt.getD .P8) (o.words.take ((TD.ofWord e.t2).n 0))
  else o.bytes

/-- The first row of an `sfu` without status words, of one dimension-0 row, is one store; its counts are registers. -/
theorem State.putRow_mem {s : State} {t : Nat} {e : Entry} (o : RowOut) (hst : e.sto.statusEn = false)
    (h1 : (TD.ofWord e.t2).n 1 = 1) : (s.putRow t e 0 o).mem = (s.store e.rowPlace (e.rowBytes o)).mem := by
  unfold State.putRow
  extract_lets op td dst opnd stored reported counted masked marked
  have hstored : stored = s.store e.rowPlace (e.rowBytes o) := by
    simp only [stored, op, td, dst, Entry.rowPlace, Entry.rowBytes]
    split <;> simp [h1]
  have hreported : reported = stored := if_neg (by simp [opnd, hst])
  rw [State.advance_mem, State.modEntry_mem, ← hstored, ← hreported]
  simp only [marked, masked, counted, apply_ite State.mem, State.setRegF_mem, State.addRegF_mem, State.setFlags_mem,
    ite_self]

/-- An `sfu` of one row leaves with that row in memory. -/
theorem State.leftSfu_row {s : State} {t : Nat} {e : Entry} (run : SfuRun) {o : RowOut} (hop : e.opc = 0x84)
    (hr : sfuR (TD.ofWord e.t1) = 1) (ho : s.sfuRow t e 0 = (.ok o, s)) (hst : e.sto.statusEn = false)
    (h1 : (TD.ofWord e.t2).n 1 = 1) (hp : s.plain e.rowPlace (e.rowBytes o).length = true) :
    LeftSfu t e.kctx e.serial (s.mem.writeN e.rowPlace (e.rowBytes o)) (s.runSfu t e run) := by
  have hmem := State.putRow_mem (s := s) (t := t) o hst h1
  rw [(State.store_of_plain hp).mem] at hmem
  rw [State.runSfu_of_row run hop hr ho, ← hmem]
  exact State.leftSfu_endSfu _ t e

@[simp] theorem TD.rowAddr_zero (d : TD) : d.rowAddr 0 = d.base := by simp [TD.rowAddr]

/-- A dimension above RANK counts as one. -/
theorem TD.n_of_rank_lt {d : TD} {i : Nat} (h : d.rank < i) : d.n i = 1 := if_neg (Nat.not_le.mpr h)

/-- The first row of a tensor of one dimension that reads. -/
theorem State.loadRow_of_rank_zero {s : State} {t : Nat} {f : Fmt} {d : TD} (hd : d.rank = 0)
    (hw : inWindow t d.base (d.rowLen f) = true) (hc : s.clean d.base (d.rowLen f) = true) :
    s.loadRow f d 0 = (.ok (unpackRow f (s.mem.readN d.base (d.rowLen f)) (d.n 0)), s) := by
  have h1 : d.n 1 = 1 := TD.n_of_rank_lt (by omega)
  simp [State.loadRow, h1, State.loadAll, State.loadE_of_clean_window hw hc, Except.map]

theorem State.sfuRow_of_element {s : State} {t : Nat} {e : Entry} {f d : Fmt} {ws : List Nat}
    (hop : sfuOp e.word = 0) (hf : (TD.ofWord e.t1).fmt = some f) (hd : (TD.ofWord e.t2).fmt = some d)
    (hl : s.loadRow f (TD.ofWord e.t1) 0 = (.ok ws, s)) :
    s.sfuRow t e 0 = (.ok (elementOut (fld e.word 38 33) f d ws), s) := by
  simp only [State.sfuRow, hop, if_true, hf, hd, Option.getD_some, hl, Except.map]

/-- A row of ELEMENT that fits its output goes out whole. -/
theorem Entry.rowBytes_of_element {e : Entry} {fn : Nat} {f d : Fmt} {ws : List Nat} (hop : sfuOp e.word = 0)
    (hd : (TD.ofWord e.t2).fmt = some d) (hn : ws.length = (TD.ofWord e.t2).n 0) :
    e.rowBytes (elementOut fn f d ws) = packRow d (ws.map (fun w => (sfuElement fn f d w).word)) := by
  simp [Entry.rowBytes, hop, hd, elementOut, ← hn, List.take_of_length_le, Function.comp_def]

/-! `topk` outside a chain (06 R208; 04 R149) -/

theorem State.runSfu_of_topk {s : State} {t : Nat} {e : Entry} (run : SfuRun) {l : List (BitVec 64)}
    (hop : e.opc = 0x86) (h0 : (s.stageOf e).role = 0) (hs : s.findStage t e.kctx e.serial = none)
    (hl : s.topkOwn t e = (.ok l, s)) :
    s.runSfu t e run = (s.store (s.stageOf e).lo (listBytes l)).endSfu t e none := by
  have hhead : s.topkHead t e = (s.store (s.stageOf e).lo (listBytes l)).endSfu t e none := by
    simp [State.topkHead, hl, h0]
  simp [State.runSfu, hop, State.topkStep, hs, h0, hhead]

theorem State.leftSfu_topk {s : State} {t : Nat} {e : Entry} (run : SfuRun) {l : List (BitVec 64)}
    (hop : e.opc = 0x86) (h0 : (s.stageOf e).role = 0) (hs : s.findStage t e.kctx e.serial = none)
    (hl : s.topkOwn t e = (.ok l, s)) (hp : s.plain (s.stageOf e).lo (listBytes l).length = true) :
    LeftSfu t e.kctx e.serial (s.mem.writeN (s.stageOf e).lo (listBytes l)) (s.runSfu t e run) := by
  rw [State.runSfu_of_topk run hop h0 hs hl, ← (State.store_of_plain hp).mem]
  exact State.leftSfu_endSfu _ t e

/-! `smp` (06 R211 to R216; 08 R312) -/

/-- The entry that an `smp` writes for its draw: the index in the low word and the value above it; without a candidate
the index is all ones and the value zero (R215, R216). -/
def drawWord (d : Draw) : Nat :=
  match d with
  | some (v, i) => i % 2 ^ 32 + (v % 2 ^ 32) <<< 32
  | none => 0xFFFFFFFF

/-- An `smp` stores its entry and, where the SSR asks for it, the next step; its counts are registers. -/
theorem State.putDraw_mem (s : State) (t : Nat) (e : Entry) (run : SfuRun) (d : Draw) :
    let u := s.store (TD.ofWord e.t2).base (toBytesLE 8 (drawWord d))
    (s.putDraw t e run d).mem = if run.ssr.testBit 192 then
      (u.store (e.a2.toNat + 16) (toBytesLE 8 (nfld run.ssr 191 128 + 1))).mem else u.mem := by
  intro u
  rw [← apply_ite State.mem]
  cases d <;> rfl

theorem State.leftSfu_smp {s : State} {t : Nat} {e : Entry} {run : SfuRun} {d : Draw} (hop : e.opc = 0x87)
    (hd : s.smpDraw t e run = (.ok d, s)) (hp : s.plain (TD.ofWord e.t2).base 8 = true)
    (hq : s.plain (e.a2.toNat + 16) 8 = true) :
    let m := s.mem.writeN (TD.ofWord e.t2).base (toBytesLE 8 (drawWord d))
    LeftSfu t e.kctx e.serial (if run.ssr.testBit 192 then
      m.writeN (e.a2.toNat + 16) (toBytesLE 8 (nfld run.ssr 191 128 + 1)) else m) (s.runSfu t e run) := by
  intro m
  have hrun : s.runSfu t e run = (s.putDraw t e run d).endSfu t e none := by
    simp [State.runSfu, hop, hd]
  have hentry : Wrote (TD.ofWord e.t2).base (toBytesLE 8 (drawWord d)) s _ := State.store_of_plain (by simpa using hp)
  have hstep := State.store_of_plain (bs := toBytesLE 8 (nfld run.ssr 191 128 + 1)) (by simpa using hentry.plain hq)
  have hmem := State.putDraw_mem s t e run d
  dsimp only at hmem
  rw [hstep.mem, hentry.mem] at hmem
  rw [hrun, ← hmem]
  exact State.leftSfu_endSfu _ t e

/-! The statement -/

/-- The command completes e where running it leaves it so. -/
theorem exists_exec_sfuComplete {s : State} {t : Nat} {run : SfuRun} {e : Entry} {m : Memory}
    (hr : s.enginesRun t = true) (hf : (s.tile t).sfu.find? (fun r => !s.paused t r.kctx) = some run)
    (he : s.entry t run.kctx run.serial = some e) (h : LeftSfu t run.kctx run.serial m (s.runSfu t e run)) :
    ∃ u, exec (.sfuComplete t) s = .next u ∧ u.mem = m ∧ u.entry t run.kctx run.serial = none ∧
      ∀ r ∈ (u.tile t).sfu, ¬(r.kctx = run.kctx ∧ r.serial = run.serial) :=
  ⟨_, exec_sfuComplete_of_run hr hf he, h.mem, h.entry, h.sfu⟩

/-- Settles O26: a handover adds to the SFU what the instruction read, and a completion is the instruction's stores and
then its removal. The words of `sfu` and `topk` are those of 08 R304 and R310; that the reserved bits of the SSR's word
0x18 are ignored is the model's choice (log entry 94). -/
theorem sfuInstructions : Obligations.SfuInstructions := by
  intro s t hr
  refine ⟨fun e hn hp hb => ⟨fun hop => ?handed, fun hop => ?smpHanded⟩, fun run e hf he hk hs => ?completes⟩
  case handed =>
    have hne : e.opc ≠ 0x87 := by omega
    have hl : e.opc = 0x86 → _ := fun h => (hop.resolve_left (by omega)).2
    refine ⟨_, exec_sfuHandover_of_next hr hn hp hb, ?_⟩
    rw [State.handSfu_of_local hne hl]
    have hbegin := onlyTile_begin s t e.kctx e.serial
    split
    case isTrue =>
      refine ⟨(hbegin.trans (onlyTile_modTile _ t _)).trans (onlyTile_modTile _ t _), ?_, ?_⟩ <;> simp
    case isFalse =>
      refine ⟨hbegin.trans (onlyTile_modTile _ t _), ?_, ?_⟩ <;> simp
  case smpHanded =>
    intro p q v r hwp hwq hcp hcq hspb hlen htwin
    refine ⟨_, exec_sfuHandover_of_next hr hn hp hb, ?_⟩
    have hlp : (s.begin_ t e.kctx e.serial).loadE p 16 = (.ok (s.mem.readN p 16), s.begin_ t e.kctx e.serial) :=
      State.loadE_of_clean_window hwp hcp
    have hlq : (s.begin_ t e.kctx e.serial).loadE q 32 = (.ok (s.mem.readN q 32), s.begin_ t e.kctx e.serial) :=
      State.loadE_of_clean_window hwq hcq
    rw [State.handSfu_of_smp hop, State.handSmp_of_good hlp hlq hspb hlen htwin]
    refine ⟨(onlyTile_begin s t e.kctx e.serial).trans (onlyTile_modTile _ t _), ?_⟩
    simp [v, r]
  case completes =>
    intro ends ts td
    have hends : ∀ m, LeftSfu t e.kctx e.serial m (s.runSfu t e run) → ends m := fun m h =>
      exists_exec_sfuComplete hr hf he (hk ▸ hs ▸ h)
    refine ⟨fun f d hop h0 hsf hdf hsr hdr hn hst hw hc => ?element, fun o hop h1 ho hst hn => ?row,
      fun l hop h0 hg hl hp => ?topk, fun d hop hd hp hq => ?smp⟩
    case element =>
      intro out hp
      have ho := State.sfuRow_of_element (t := t) h0 hsf hdf (State.loadRow_of_rank_zero hsr hw hc)
      have hplace : e.rowPlace = td.base := by simp [Entry.rowPlace, h0, td]
      have hbytes : e.rowBytes _ = out := Entry.rowBytes_of_element h0 hdf (by simpa [unpackRow] using hn.symm)
      rw [← hplace, ← hbytes] at hp ⊢
      have hrows : sfuR ts = 1 := TD.n_of_rank_lt (by omega)
      have hone : td.n 1 = 1 := TD.n_of_rank_lt (by omega)
      exact hends _ (State.leftSfu_row run hop hrows ho hst hone hp)
    case row =>
      intro full out a hp
      exact hends _ (State.leftSfu_row run hop h1 ho hst hn hp)
    case topk => exact hends _ (State.leftSfu_topk run hop h0 (hk ▸ hs ▸ hg) hl hp)
    case smp => exact hends _ (State.leftSfu_smp hop hd hp hq)

end Sys2Proof.Machine
